-- ==== Sys2Proof/Word.lean ====
section
/-! DEFINITION. The machine's word types and the plainest operations on them: bit fields of a natural number
(`bits`, 00 R12), sign extension, and bytes of a number in little-endian order (00 R6). -/

namespace Sys2Proof

/-- An 8-bit byte of memory. -/
abbrev Byte := BitVec 8

/-- One 32-bit lane value or tile element (02 R48). -/
abbrev W32 := BitVec 32

/-- A 64-bit scalar value, program counter or register image (02 R48). -/
abbrev W64 := BitVec 64

/-- A set of lanes, bit L for lane L (01 R22). -/
abbrev Mask := BitVec 64

/-- `n` bits of `w` from bit `lo` up, as a number. -/
def bits (w lo n : Nat) : Nat := w / 2 ^ lo % 2 ^ n

/-- Bit `i` of `w`. -/
def bit (w i : Nat) : Bool := w / 2 ^ i % 2 == 1

/-- A Boolean as the number of one bit. -/
def b2n (b : Bool) : Nat := if b then 1 else 0

/-- The low `n` bits of `v` as a signed number. -/
def sxInt (n v : Nat) : Int :=
  let u := v % 2 ^ n
  if u < 2 ^ (n - 1) then (u : Int) else (u : Int) - (2 ^ n : Nat)

/-- An integer reduced modulo 2^n to a natural number. -/
def modInt (n : Nat) (i : Int) : Nat := (i % (2 ^ n : Nat)).toNat

/-- The `n` little-endian bytes of a number (00 R6). -/
def leBytes : Nat → Nat → List Byte
  | 0, _ => []
  | n + 1, v => BitVec.ofNat 8 v :: leBytes n (v / 256)

/-- The number that a little-endian list of bytes stands for (00 R6). -/
def leNat : List Byte → Nat
  | [] => 0
  | b :: bs => b.toNat + 256 * leNat bs

end Sys2Proof
end

