-- ==== Sys2Proof/Syntax.lean ====
section
/-! DEFINITION. The syntax: one constructor of `Instr` per row of the opcode table. The words of classes 0 to 7, the paired
word and the sweep forms carry their encoded fields; the events (95) carry what the agent that brings them decides.
Register operands are register numbers; s127 is the execution mask (02 R50). -/

namespace Sys2Proof

/-- Width WD (02 R61). -/
inductive Width | b | h | w | d deriving DecidableEq, Repr
/-- Rounding RM (02 R61). -/
inductive Rnd | rne | rz | ru | rd deriving DecidableEq, Repr
/-- Scope SCP (02 R61, 05 R137). -/
inductive Scope | ln | gp | tm | cl | die | dev | sys deriving DecidableEq, Repr
/-- Order ORD (02 R61). -/
inductive Order | rlx | acq | rel | ar deriving DecidableEq, Repr
/-- Type TY (02 R61). -/
inductive Ty | f32 | bf16 | e4m3 | e5m2 | e2m1 | l3 | l4 | i8 | i32 deriving DecidableEq, Repr
/-- Address mode AM (07 R219). -/
inductive AMode | contig | lane | uniform deriving DecidableEq, Repr
/-- Condition of `sset` and `vcmp` (06 R171). -/
inductive ICond | eq | ne | lt | le | gt | ge | ltu | leu | gtu | geu deriving DecidableEq, Repr
/-- Condition of `fcmp` (06 R171). -/
inductive FCond | eq | ne | lt | le | gt | ge | un | ord deriving DecidableEq, Repr
/-- Operation of an atomic (07 R229). -/
inductive AOp | add | min | max | minu | maxu | and | or | xor | exch | cas | fadd | fmin | fmax
  deriving DecidableEq, Repr
/-- Operation of a reduction over lanes (06 R215). -/
inductive ROp | add | min | max | minu | maxu | and | or | xor | fadd | fmin | fmax deriving DecidableEq, Repr
/-- Class of variable-latency results (02 R72). -/
inductive RCls | ld | tile | x deriving DecidableEq, Repr
/-- Mode of a phaser registration (07 R240). -/
inductive PhMode | sig | wait | sigwait deriving DecidableEq, Repr

/-- Guard and park marker of a word of classes 1 to 7 (02 R57, R59): GP = 12 is always. -/
structure Hdr where
  gp : Nat
  gn : Bool
  pk : Bool
  deriving DecidableEq, Repr

/-- Second source of a scalar ALU word (06 R172). -/
inductive SSrc
  | reg (n : Nat)
  | imm (k : BitVec 19)
  deriving DecidableEq, Repr

/-- Second source of a class-1 word (06 R169). -/
inductive VSrc
  | reg (n : Nat)
  | imm (k : BitVec 8)
  deriving DecidableEq, Repr

/-- The X and B subfields of a load or store (07 R219). -/
structure Mem where
  wd : Width
  sx : Bool
  am : AMode
  scp : Scope
  ord : Order
  off : BitVec 16
  deriving DecidableEq, Repr

/-- The X subfields of an atomic or reduction (07 R229). -/
structure Amo where
  wd : Width
  am : AMode
  scp : Scope
  ord : Order
  deriving DecidableEq, Repr

/-- The half opcodes (02 R63). -/
inductive HOp
  | nop
  | sadd | ssub | sand | sor | sxor | sshl | sshr | smov | sli | saddi
  | vadd | vsub | vand | vor | vxor | vmin | vmax | vmov | vshl | vshr | vsra | vli | vaddi
  | fadd | fsub | fmul | fmin | fmax | hadd2 | hmul2
  | pand | por | pxor | pnot | pmov
  | lds | sts
  deriving DecidableEq, Repr

/-- One half of a paired word (02 R62). -/
structure Half where
  op : HOp
  hg : Nat
  hd : Nat
  hs : Nat
  hi : Nat
  deriving DecidableEq, Repr

/-- A Swevos frame as the host port receives it (16 R460): header fields, the UDP endpoint it came from, and its payload. -/
structure Frame where
  src : Nat
  ver : Nat
  typ : Nat
  flags : Nat
  len : Nat
  sseq : Nat
  aseq : Nat
  sid : Nat
  payload : List Byte
  deriving DecidableEq, Repr

/-- A firmware image in the board's flash (16 R481). -/
structure Image where
  len : Nat
  svn : Nat
  keySlot : Nat
  key : List Byte
  digest : List Byte
  sig : List Byte
  body : List Byte
  deriving DecidableEq, Repr

/-- What bring-up finds at power-good: fuses, flash, trained memory, and where its firmware puts the tile-queue table and the measurement
record (16 R480, R481). `ok` says that the tests of step 3 and the training of step 7 succeed. -/
structure Board where
  cen : List Nat
  sen : List Nat
  keyHash : List (List Byte)
  revoked : Nat
  rollback : Nat
  image : Image
  rom : List Byte
  skcap : List Nat
  serial : Nat
  fwver : Nat
  qta : Nat
  mra : Nat
  ok : Bool
  deriving DecidableEq, Repr

/-- A request of a peer module for this module's memory (16 R475). -/
inductive RemoteReq
  | read (pa len : Nat)
  | write (pa : Nat) (data : List Byte)
  | atomic (pa size : Nat) (op : AOp) (operand compare : Nat)
  deriving DecidableEq, Repr

/-- A request that gets no answer in time (16 R476, R477): an outstanding result, a pending store, the next such request of a group's class-6 word,
fetch or `red`, the next read or the next writes of a command. -/
inductive TimeoutTarget
  | load (gk path idx : Nat)
  | store (gk idx : Nat)
  | word (gk : Nat)
  | engine (slot : Nat)
  | engineWrite (slot : Nat)
  deriving DecidableEq, Repr

/-- The instructions: one constructor per row of spec/opcode_table.json, in its order. -/
inductive Instr
  /-- SADD (R172). -/
  | sadd (pk : Bool) (d a : Nat) (b : SSrc)
  /-- SSUB (R172). -/
  | ssub (pk : Bool) (d a : Nat) (b : SSrc)
  /-- SMUL (R172). -/
  | smul (pk : Bool) (d a : Nat) (b : SSrc)
  /-- SMULH (R172). -/
  | smulh (pk : Bool) (d a : Nat) (b : SSrc)
  /-- SMULHU (R172). -/
  | smulhu (pk : Bool) (d a : Nat) (b : SSrc)
  /-- SAND (R172). -/
  | sand (pk : Bool) (d a : Nat) (b : SSrc)
  /-- SOR (R172). -/
  | sor (pk : Bool) (d a : Nat) (b : SSrc)
  /-- SXOR (R172). -/
  | sxor (pk : Bool) (d a : Nat) (b : SSrc)
  /-- SANDN (R172). -/
  | sandn (pk : Bool) (d a : Nat) (b : SSrc)
  /-- SSHL (R172). -/
  | sshl (pk : Bool) (d a : Nat) (b : SSrc)
  /-- SSHR (R172). -/
  | sshr (pk : Bool) (d a : Nat) (b : SSrc)
  /-- SSRA (R172). -/
  | ssra (pk : Bool) (d a : Nat) (b : SSrc)
  /-- SMIN (R172). -/
  | smin (pk : Bool) (d a : Nat) (b : SSrc)
  /-- SMAX (R172). -/
  | smax (pk : Bool) (d a : Nat) (b : SSrc)
  /-- SMINU (R172). -/
  | sminu (pk : Bool) (d a : Nat) (b : SSrc)
  /-- SMAXU (R172). -/
  | smaxu (pk : Bool) (d a : Nat) (b : SSrc)
  /-- SSET (R173). -/
  | sset (pk : Bool) (d a b : Nat) (cc : ICond)
  /-- SSEL (R173). -/
  | ssel (pk : Bool) (d a b c : Nat)
  /-- SMOV (R173). -/
  | smov (pk : Bool) (d a : Nat)
  /-- SLI (R174). -/
  | sli (pk : Bool) (d : Nat) (k : BitVec 40)
  /-- SLIH (R174). -/
  | slih (pk : Bool) (d : Nat) (k : BitVec 32)
  /-- SBFX (R175). -/
  | sbfx (pk : Bool) (d a pos len : Nat) (sx : Bool)
  /-- SCLZ (R175). -/
  | sclz (pk : Bool) (d a : Nat)
  /-- SPOPC (R175). -/
  | spopc (pk : Bool) (d a : Nat)
  /-- SRD (R53). -/
  | srd (pk : Bool) (d idx : Nat)
  /-- SRD_VECTOR (R53). -/
  | srdVector (pk : Bool) (d idx : Nat)
  /-- SWR (R56). -/
  | swr (pk : Bool) (idx a : Nat)
  /-- SWC (R203). -/
  | swc (pk : Bool) (a : Nat)
  /-- BR (R178). -/
  | br (pk : Bool) (off : BitVec 23)
  /-- BR_INDIRECT (R178). -/
  | brIndirect (pk : Bool) (a : Nat)
  /-- BZ (R179). -/
  | bz (pk : Bool) (a : Nat) (off : BitVec 23)
  /-- BNZ (R179). -/
  | bnz (pk : Bool) (a : Nat) (off : BitVec 23)
  /-- BANY (R179). -/
  | bany (pk : Bool) (p : Nat) (off : BitVec 23)
  /-- BALL (R179). -/
  | ball (pk : Bool) (p : Nat) (off : BitVec 23)
  /-- BRD (R33). -/
  | brd (pk : Bool) (p : Nat) (off : BitVec 23)
  /-- JOIN (R34). -/
  | join (pk : Bool)
  /-- CALL (R181). -/
  | call (pk : Bool) (d : Nat) (off : BitVec 23)
  /-- CALL_INDIRECT (R181). -/
  | callIndirect (pk : Bool) (d a : Nat)
  /-- RET (R181). -/
  | ret (pk : Bool) (a : Nat)
  /-- EXIT (R35). -/
  | exit (pk : Bool)
  /-- YIELD (R182). -/
  | yield (pk : Bool)
  /-- BRK (R183). -/
  | brk (pk : Bool) (k : BitVec 16)
  /-- TRET (R40). -/
  | tret (pk : Bool)
  /-- NOP (R182). -/
  | nop (pk : Bool)
  /-- VADD (R184). -/
  | vadd (h : Hdr) (wd : Width) (d a : Nat) (b : VSrc)
  /-- VSUB (R184). -/
  | vsub (h : Hdr) (wd : Width) (d a : Nat) (b : VSrc)
  /-- VADDS (R185). -/
  | vadds (h : Hdr) (wd : Width) (sx : Bool) (d a : Nat) (b : VSrc)
  /-- VSUBS (R185). -/
  | vsubs (h : Hdr) (wd : Width) (sx : Bool) (d a : Nat) (b : VSrc)
  /-- VMUL (R184). -/
  | vmul (h : Hdr) (wd : Width) (d a : Nat) (b : VSrc)
  /-- VMULH (R184). -/
  | vmulh (h : Hdr) (wd : Width) (d a : Nat) (b : VSrc)
  /-- VMULHU (R184). -/
  | vmulhu (h : Hdr) (wd : Width) (d a : Nat) (b : VSrc)
  /-- VMAD (R184). -/
  | vmad (h : Hdr) (d a b c : Nat)
  /-- VAND (R184). -/
  | vand (h : Hdr) (d a : Nat) (b : VSrc)
  /-- VOR (R184). -/
  | vor (h : Hdr) (d a : Nat) (b : VSrc)
  /-- VXOR (R184). -/
  | vxor (h : Hdr) (d a : Nat) (b : VSrc)
  /-- VANDN (R184). -/
  | vandn (h : Hdr) (d a : Nat) (b : VSrc)
  /-- VSHL (R184). -/
  | vshl (h : Hdr) (wd : Width) (d a : Nat) (b : VSrc)
  /-- VSHR (R184). -/
  | vshr (h : Hdr) (wd : Width) (d a : Nat) (b : VSrc)
  /-- VSRA (R184). -/
  | vsra (h : Hdr) (wd : Width) (d a : Nat) (b : VSrc)
  /-- VMIN (R184). -/
  | vmin (h : Hdr) (wd : Width) (d a : Nat) (b : VSrc)
  /-- VMAX (R184). -/
  | vmax (h : Hdr) (wd : Width) (d a : Nat) (b : VSrc)
  /-- VMINU (R184). -/
  | vminu (h : Hdr) (wd : Width) (d a : Nat) (b : VSrc)
  /-- VMAXU (R184). -/
  | vmaxu (h : Hdr) (wd : Width) (d a : Nat) (b : VSrc)
  /-- VABS (R185). -/
  | vabs (h : Hdr) (wd : Width) (st : Bool) (d a : Nat)
  /-- VSEL (R187). -/
  | vsel (h : Hdr) (d a b p : Nat)
  /-- VCMP (R186). -/
  | vcmp (h : Hdr) (d a b : Nat) (cc : ICond)
  /-- VBFX (R188). -/
  | vbfx (h : Hdr) (sx : Bool) (d a b : Nat)
  /-- VBFI (R188). -/
  | vbfi (h : Hdr) (d a b : Nat)
  /-- VFSH (R189). -/
  | vfsh (h : Hdr) (d a b c : Nat)
  /-- VCLZ (R184). -/
  | vclz (h : Hdr) (wd : Width) (d a : Nat)
  /-- VPOPC (R184). -/
  | vpopc (h : Hdr) (wd : Width) (d a : Nat)
  /-- VBREV (R184). -/
  | vbrev (h : Hdr) (wd : Width) (d a : Nat)
  /-- VMOV (R190). -/
  | vmov (h : Hdr) (d a : Nat)
  /-- VLI (R190). -/
  | vli (h : Hdr) (d : Nat) (k : BitVec 32)
  /-- VDP4 (R191). -/
  | vdp4 (h : Hdr) (sx st : Bool) (d a b c : Nat)
  /-- FADD (R193). -/
  | fadd (h : Hdr) (st : Bool) (rm : Rnd) (d a b : Nat)
  /-- FSUB (R193). -/
  | fsub (h : Hdr) (st : Bool) (rm : Rnd) (d a b : Nat)
  /-- FMUL (R193). -/
  | fmul (h : Hdr) (st : Bool) (rm : Rnd) (d a b : Nat)
  /-- FFMA (R193). -/
  | ffma (h : Hdr) (st : Bool) (rm : Rnd) (d a b c : Nat)
  /-- FMIN (R194). -/
  | fmin (h : Hdr) (d a b : Nat)
  /-- FMAX (R194). -/
  | fmax (h : Hdr) (d a b : Nat)
  /-- FCMP (R194). -/
  | fcmp (h : Hdr) (d a b : Nat) (cc : FCond)
  /-- FRCP (R104). -/
  | frcp (h : Hdr) (d a : Nat)
  /-- FRSQ (R105). -/
  | frsq (h : Hdr) (d a : Nat)
  /-- FEX2 (R106). -/
  | fex2 (h : Hdr) (d a : Nat)
  /-- FLG2 (R107). -/
  | flg2 (h : Hdr) (d a : Nat)
  /-- FCVT (R196). -/
  | fcvt (h : Hdr) (st : Bool) (rm : Rnd) (dty sty : Ty) (d a : Nat)
  /-- FPK (R197). -/
  | fpk (h : Hdr) (st : Bool) (rm : Rnd) (ty : Ty) (k d a b : Nat)
  /-- FUNPK (R198). -/
  | funpk (h : Hdr) (ty : Ty) (j d a : Nat)
  /-- VHAD (R199). -/
  | vhad (h : Hdr) (big : Bool) (d a : Nat)
  /-- HADD2 (R200). -/
  | hadd2 (h : Hdr) (st : Bool) (rm : Rnd) (d a b : Nat)
  /-- HMUL2 (R200). -/
  | hmul2 (h : Hdr) (st : Bool) (rm : Rnd) (d a b : Nat)
  /-- HFMA2 (R200). -/
  | hfma2 (h : Hdr) (st : Bool) (rm : Rnd) (d a b c : Nat)
  /-- Q8ADD (R201). -/
  | q8add (h : Hdr) (st : Bool) (rm : Rnd) (e5 : Bool) (d a b : Nat)
  /-- Q8MUL (R201). -/
  | q8mul (h : Hdr) (st : Bool) (rm : Rnd) (e5 : Bool) (d a b : Nat)
  /-- VPERM (R211). -/
  | vperm (h : Hdr) (d a b : Nat)
  /-- VPUSH (R212). -/
  | vpush (h : Hdr) (d a b : Nat)
  /-- VSHFX (R213). -/
  | vshfx (h : Hdr) (d a m : Nat)
  /-- VSHFU (R213). -/
  | vshfu (h : Hdr) (d a m : Nat)
  /-- VSHFD (R213). -/
  | vshfd (h : Hdr) (d a m : Nat)
  /-- VBCAST (R214). -/
  | vbcast (h : Hdr) (d a k : Nat)
  /-- VBCAST_SCALAR (R214). -/
  | vbcastScalar (h : Hdr) (d a : Nat)
  /-- VRED (R215). -/
  | vred (h : Hdr) (d a : Nat) (op : ROp)
  /-- VRED_VECTOR (R215). -/
  | vredVector (h : Hdr) (d a : Nat) (op : ROp)
  /-- VSCAN (R216). -/
  | vscan (h : Hdr) (d a : Nat) (op : ROp)
  /-- VSCAN_EXCL (R216). -/
  | vscanExcl (h : Hdr) (d a : Nat) (op : ROp)
  /-- VBALLOT (R217). -/
  | vballot (h : Hdr) (d a : Nat)
  /-- VFIRST (R217). -/
  | vfirst (h : Hdr) (d a : Nat)
  /-- PAND (R218). -/
  | pand (h : Hdr) (d a b : Nat)
  /-- POR (R218). -/
  | por (h : Hdr) (d a b : Nat)
  /-- PXOR (R218). -/
  | pxor (h : Hdr) (d a b : Nat)
  /-- PNOT (R218). -/
  | pnot (h : Hdr) (d a : Nat)
  /-- PMOV (R218). -/
  | pmov (h : Hdr) (d a : Nat)
  /-- PSET (R218). -/
  | pset (h : Hdr) (d a : Nat)
  /-- PSET_IMM (R218). -/
  | psetImm (h : Hdr) (d : Nat) (k : Bool)
  /-- LDS (R224). -/
  | lds (h : Hdr) (m : Mem) (d a : Nat)
  /-- STS (R224). -/
  | sts (h : Hdr) (m : Mem) (d a : Nat)
  /-- LDG (R224). -/
  | ldg (h : Hdr) (m : Mem) (d a : Nat)
  /-- STG (R224). -/
  | stg (h : Hdr) (m : Mem) (d a : Nat)
  /-- LDR (R121). -/
  | ldr (h : Hdr) (m : Mem) (d a : Nat)
  /-- LDC (R225). -/
  | ldc (h : Hdr) (m : Mem) (d a : Nat)
  /-- STC (R225). -/
  | stc (h : Hdr) (m : Mem) (d a : Nat)
  /-- ATOM (R230). -/
  | atom (h : Hdr) (m : Amo) (op : AOp) (d a b : Nat)
  /-- ATOMS (R230). -/
  | atoms (h : Hdr) (m : Amo) (op : AOp) (d a b : Nat)
  /-- RED (R230). -/
  | red (h : Hdr) (m : Amo) (op : AOp) (a b : Nat)
  /-- FENCE (R228). -/
  | fence (pk : Bool) (scp : Scope) (ord : Order)
  /-- FENCE_ASYNC (R146). -/
  | fenceAsync (pk : Bool)
  /-- RINV (R227). -/
  | rinv (pk : Bool) (scp : Scope)
  /-- PF (R226). -/
  | pf (h : Hdr) (wd : Width) (am : AMode) (l2 : Bool) (off : BitVec 16) (a : Nat)
  /-- WCNT (R234). -/
  | wcnt (pk : Bool) (cl : RCls) (n : Nat)
  /-- PHINIT (R239). -/
  | phinit (h : Hdr) (a b : Nat)
  /-- PHREG (R240). -/
  | phreg (h : Hdr) (k a : Nat) (mode : PhMode)
  /-- PHDROP (R243). -/
  | phdrop (h : Hdr) (k : Nat)
  /-- PHARR (R242). -/
  | pharr (h : Hdr) (scp : Scope) (d k : Nat)
  /-- PHWAIT (R244). -/
  | phwait (h : Hdr) (scp : Scope) (a : Nat)
  /-- PHARW (R244). -/
  | pharw (h : Hdr) (scp : Scope) (d k : Nat)
  /-- TWAIT (R247). -/
  | twait (h : Hdr) (scp : Scope) (d a : Nat)
  /-- TWAIT_Y (R247). -/
  | twaitY (h : Hdr) (scp : Scope) (d a : Nat) (off : BitVec 14)
  /-- TTEST (R247). -/
  | ttest (h : Hdr) (scp : Scope) (d a : Nat)
  /-- RSB (R248). -/
  | rsb (pk : Bool)
  /-- RSE (R248). -/
  | rse (pk : Bool)
  /-- GSYNC (R249). -/
  | gsync (pk : Bool) (d : Nat)
  /-- DFREE (R250). -/
  | dfree (h : Hdr) (a b : Nat)
  /-- TQPUSH (R252). -/
  | tqpush (h : Hdr) (scp : Scope) (d a b c : Nat)
  /-- TQPOP (R253). -/
  | tqpop (h : Hdr) (scp : Scope) (d a c : Nat)
  /-- TQCLOSE (R254). -/
  | tqclose (h : Hdr) (scp : Scope) (a : Nat)
  /-- TQCLOSE_OPEN (R254). -/
  | tqcloseOpen (h : Hdr) (scp : Scope) (a : Nat)
  /-- CPY (R285). -/
  | cpy (h : Hdr) (d a : Nat)
  /-- CPYM (R285). -/
  | cpym (h : Hdr) (d a : Nat)
  /-- GATH (R285). -/
  | gath (h : Hdr) (d a : Nat)
  /-- SCAT (R285). -/
  | scat (h : Hdr) (d a : Nat)
  /-- XSECT (R285). -/
  | xsect (h : Hdr) (d a : Nat)
  /-- SSTR (R308). -/
  | sstr (h : Hdr) (k a : Nat)
  /-- SPOP (R309). -/
  | spop (h : Hdr) (d k : Nat)
  /-- SPOP_PRED (R309). -/
  | spopPred (h : Hdr) (d k p : Nat)
  /-- SDROP (R311). -/
  | sdrop (h : Hdr) (k : Nat)
  /-- SFMT (R256). -/
  | sfmt (h : Hdr) (a : Nat)
  /-- SFMT_SWAP (R256). -/
  | sfmtSwap (h : Hdr) (d a : Nat)
  /-- ENC (R273). -/
  | enc (h : Hdr) (bf g : Bool) (d a : Nat)
  /-- DEC (R276). -/
  | dec (h : Hdr) (bf g : Bool) (d a : Nat)
  /-- SMM (R277). -/
  | smm (h : Hdr) (ta : Ty) (g : Bool) (c d a b : Nat)
  /-- SMMS (R277). -/
  | smms (h : Hdr) (ta : Ty) (g : Bool) (c d a b : Nat)
  /-- PMM (R277). -/
  | pmm (h : Hdr) (ta : Ty) (g : Bool) (c d a b : Nat)
  /-- DMM (R279). -/
  | dmm (h : Hdr) (tb ta : Ty) (st g : Bool) (c d a b : Nat)
  /-- QMM (R280). -/
  | qmm (h : Hdr) (tb ta : Ty) (st : Bool) (tag d a b : Nat)
  /-- TZERO (R266). -/
  | tzero (h : Hdr) (d : Nat)
  /-- TLD (R267). -/
  | tld (h : Hdr) (full g : Bool) (d a : Nat)
  /-- TST (R267). -/
  | tst (h : Hdr) (i32 full g : Bool) (d a : Nat)
  /-- TMOV (R268). -/
  | tmov (h : Hdr) (i32 : Bool) (d a : Nat)
  /-- TMOV_TO_TILE (R268). -/
  | tmovToTile (h : Hdr) (d a : Nat)
  /-- TSCL (R269). -/
  | tscl (h : Hdr) (d a : Nat)
  /-- TSTAT (R270). -/
  | tstat (h : Hdr) (clr : Bool) (d a : Nat)
  /-- RSET (R320). -/
  | rset (h : Hdr) (a : Nat)
  /-- ROT (R321). -/
  | rot (h : Hdr) (d a b n : Nat)
  /-- KVLD (R329). -/
  | kvld (h : Hdr) (d a : Nat)
  /-- KVAPP (R332). -/
  | kvapp (h : Hdr) (d a : Nat)
  /-- KVWR (R333). -/
  | kvwr (h : Hdr) (d a : Nat)
  /-- KVTRIM (R334). -/
  | kvtrim (h : Hdr) (d a : Nat)
  /-- KVSPLICE (R336). -/
  | kvsplice (h : Hdr) (d a : Nat)
  /-- KVSHIFT (R337). -/
  | kvshift (h : Hdr) (d a : Nat)
  /-- BTINV (R338). -/
  | btinv (h : Hdr) (scp : Scope) (a : Nat)
  /-- SMAX_SOFTMAX (R339). -/
  | smaxSoftmax (h : Hdr) (d a : Nat)
  /-- CRED (R341). -/
  | cred (h : Hdr) (m d a b : Nat)
  /-- CSRR (R392). -/
  | csrr (h : Hdr) (d k : Nat)
  /-- CSRW (R392). -/
  | csrw (h : Hdr) (k a : Nat)
  /-- DBGR (R393). -/
  | dbgr (h : Hdr) (d a b : Nat)
  /-- DBGW (R385). -/
  | dbgw (h : Hdr) (d a b : Nat)
  /-- RTI_RESUME (R394). -/
  | rtiResume (h : Hdr) (a : Nat)
  /-- RTI_END (R394). -/
  | rtiEnd (h : Hdr) (a : Nat)
  /-- RTI_ABORT (R394). -/
  | rtiAbort (h : Hdr) (a : Nat)
  /-- SYSC (R395). -/
  | sysc (h : Hdr) (k : BitVec 16)
  /-- HALT (R396). -/
  | halt (h : Hdr) (d : Nat)
  /-- CTXSV (R398). -/
  | ctxsv (h : Hdr) (team : Bool) (a b : Nat)
  /-- CTXLD (R399). -/
  | ctxld (h : Hdr) (team : Bool) (d a : Nat)
  /-- TLBINV (R401). -/
  | tlbinv (h : Hdr) (kind : Nat) (all : Bool) (a b : Nat)
  /-- BFLIP (R453). -/
  | bflip (h : Hdr) (dev : Bool) (size a b : Nat)
  /-- PGCOPY (R403). -/
  | pgcopy (h : Hdr) (size d a b : Nat)
  /-- PAIRED_WORD (R65). -/
  | pairedWord (pk : Bool) (h0 h1 : Half)
  /-- VADD_SWEEP (R205). -/
  | vaddSweep (h : Hdr) (d a b n : Nat)
  /-- VSUB_SWEEP (R205). -/
  | vsubSweep (h : Hdr) (d a b n : Nat)
  /-- VADDS_SWEEP (R205). -/
  | vaddsSweep (h : Hdr) (sx : Bool) (d a b n : Nat)
  /-- VSUBS_SWEEP (R205). -/
  | vsubsSweep (h : Hdr) (sx : Bool) (d a b n : Nat)
  /-- VMUL_SWEEP (R205). -/
  | vmulSweep (h : Hdr) (d a b n : Nat)
  /-- VMULH_SWEEP (R205). -/
  | vmulhSweep (h : Hdr) (d a b n : Nat)
  /-- VMULHU_SWEEP (R205). -/
  | vmulhuSweep (h : Hdr) (d a b n : Nat)
  /-- VMAD_SWEEP (R205). -/
  | vmadSweep (h : Hdr) (d a b n : Nat)
  /-- VAND_SWEEP (R205). -/
  | vandSweep (h : Hdr) (d a b n : Nat)
  /-- VOR_SWEEP (R205). -/
  | vorSweep (h : Hdr) (d a b n : Nat)
  /-- VXOR_SWEEP (R205). -/
  | vxorSweep (h : Hdr) (d a b n : Nat)
  /-- VANDN_SWEEP (R205). -/
  | vandnSweep (h : Hdr) (d a b n : Nat)
  /-- VSHL_SWEEP (R205). -/
  | vshlSweep (h : Hdr) (d a b n : Nat)
  /-- VSHR_SWEEP (R205). -/
  | vshrSweep (h : Hdr) (d a b n : Nat)
  /-- VSRA_SWEEP (R205). -/
  | vsraSweep (h : Hdr) (d a b n : Nat)
  /-- VMIN_SWEEP (R205). -/
  | vminSweep (h : Hdr) (d a b n : Nat)
  /-- VMAX_SWEEP (R205). -/
  | vmaxSweep (h : Hdr) (d a b n : Nat)
  /-- VMINU_SWEEP (R205). -/
  | vminuSweep (h : Hdr) (d a b n : Nat)
  /-- VMAXU_SWEEP (R205). -/
  | vmaxuSweep (h : Hdr) (d a b n : Nat)
  /-- VABS_SWEEP (R205). -/
  | vabsSweep (h : Hdr) (d a b n : Nat)
  /-- VSEL_SWEEP (R205). -/
  | vselSweep (h : Hdr) (d a b n : Nat)
  /-- VBFX_SWEEP (R205). -/
  | vbfxSweep (h : Hdr) (d a b n : Nat)
  /-- VBFI_SWEEP (R205). -/
  | vbfiSweep (h : Hdr) (d a b n : Nat)
  /-- VFSH_SWEEP (R205). -/
  | vfshSweep (h : Hdr) (d a b n : Nat)
  /-- VCLZ_SWEEP (R205). -/
  | vclzSweep (h : Hdr) (d a b n : Nat)
  /-- VPOPC_SWEEP (R205). -/
  | vpopcSweep (h : Hdr) (d a b n : Nat)
  /-- VBREV_SWEEP (R205). -/
  | vbrevSweep (h : Hdr) (d a b n : Nat)
  /-- VMOV_SWEEP (R205). -/
  | vmovSweep (h : Hdr) (d a b n : Nat)
  /-- FADD_SWEEP (R205). -/
  | faddSweep (h : Hdr) (d a b n : Nat)
  /-- FSUB_SWEEP (R205). -/
  | fsubSweep (h : Hdr) (d a b n : Nat)
  /-- FMUL_SWEEP (R205). -/
  | fmulSweep (h : Hdr) (d a b n : Nat)
  /-- FFMA_SWEEP (R205). -/
  | ffmaSweep (h : Hdr) (d a b n : Nat)
  /-- FMIN_SWEEP (R205). -/
  | fminSweep (h : Hdr) (d a b n : Nat)
  /-- FMAX_SWEEP (R205). -/
  | fmaxSweep (h : Hdr) (d a b n : Nat)
  /-- HADD2_SWEEP (R205). -/
  | hadd2Sweep (h : Hdr) (d a b n : Nat)
  /-- HMUL2_SWEEP (R205). -/
  | hmul2Sweep (h : Hdr) (d a b n : Nat)
  /-- HFMA2_SWEEP (R205). -/
  | hfma2Sweep (h : Hdr) (d a b n : Nat)
  /-- Q8ADD_SWEEP (R205). -/
  | q8addSweep (h : Hdr) (d a b n : Nat)
  /-- Q8MUL_SWEEP (R205). -/
  | q8mulSweep (h : Hdr) (d a b n : Nat)
  /-- SWEEP_ITERATION (R207). -/
  | sweepIteration (gk p : Nat)
  /-- ISSUE_SELECT (R419). -/
  | issueSelect (core q : Nat)
  /-- LD_RESULT_WRITE (R72). -/
  | ldResultWrite (gk p i : Nat)
  /-- X_RESULT_WRITE (R72). -/
  | xResultWrite (gk p i : Nat)
  /-- TILE_WORD_PERFORM (R263). -/
  | tileWordPerform (gk p i : Nat)
  /-- ENGINE_ACCEPT (R290). -/
  | engineAccept (team eng : Nat)
  /-- ENGINE_DELIVERY (R291). -/
  | engineDelivery (slot n choice : Nat)
  /-- ENGINE_COMMAND_END (R294). -/
  | engineCommandEnd (slot : Nat)
  /-- KV_LOCK_ACQUIRE (R324). -/
  | kvLockAcquire (slot : Nat)
  /-- KV_LOCK_TIMEOUT (R324). -/
  | kvLockTimeout (slot : Nat)
  /-- STREAM_FETCH (R310). -/
  | streamFetch (gk k : Nat)
  /-- GRACE_SWEEP (R425). -/
  | graceSweep (part : Nat)
  /-- COLOUR_ARRIVAL (R424). -/
  | colourArrival (core : Nat)
  /-- WATCHDOG_EXPIRY (R390). -/
  | watchdogExpiry (gk : Nat)
  /-- LAUNCH_ADMIT (R407). -/
  | launchAdmit (lq : Nat)
  /-- TEAM_PLACE (R411). -/
  | teamPlace (lid cl rank core : Nat) (octets : List Nat)
  /-- NO_ROOM_TIMEOUT (R414). -/
  | noRoomTimeout (lid cl : Nat) (slots : List Nat)
  /-- CLASS_PREEMPT_TIMEOUT (R414). -/
  | classPreemptTimeout (lid cl : Nat) (slots : List Nat)
  /-- PREEMPT_STOP (R386). -/
  | preemptStop (gk : Nat)
  /-- SAVE_COMPLETE (R387). -/
  | saveComplete (gk : Nat)
  /-- TEAM_RESTORE (R415). -/
  | teamRestore (team core : Nat) (octets : List Nat)
  /-- GROUP_RESTORE (R415). -/
  | groupRestore (idx core octet : Nat)
  /-- FAULT_RECORD_SEND (R447). -/
  | faultRecordSend (part idx : Nat)
  /-- REPLY_PROCESS (R448). -/
  | replyProcess (part : Nat)
  /-- DATA_FRAME (R461). -/
  | dataFrame (fr : Frame)
  /-- ACK (R461). -/
  | ack (fr : Frame)
  /-- NAK (R461). -/
  | nak (fr : Frame)
  /-- ACK_TIMER (R461). -/
  | ackTimer
  /-- RESYNC_REQUEST (R462). -/
  | resyncRequest (fr : Frame)
  /-- HELLO (R464). -/
  | hello (fr : Frame)
  /-- CLOSE (R464). -/
  | close (fr : Frame)
  /-- SESSION_TIMEOUT (R464). -/
  | sessionTimeout
  /-- LAUNCH (R468). -/
  | launch (lq : Nat)
  /-- WRAP (R465). -/
  | wrap (lq : Nat)
  /-- WRITE (R468). -/
  | write (lq : Nat)
  /-- READ (R468). -/
  | read (lq : Nat)
  /-- MARKER (R468). -/
  | marker (lq : Nat)
  /-- PCREATE (R434). -/
  | pcreate
  /-- PDESTROY (R434). -/
  | pdestroy
  /-- QCFG (R465). -/
  | qcfg
  /-- QRESET (R469). -/
  | qreset
  /-- CANCEL (R470). -/
  | cancel
  /-- RACK (R474). -/
  | rack
  /-- ATTEST (R482). -/
  | attest
  /-- DRESET (R478). -/
  | dreset
  /-- INFO (R459). -/
  | info
  /-- PEERS (R467). -/
  | peers
  /-- DIE_RESET (R478). -/
  | dieReset (die : Nat)
  /-- LINK_TIMEOUT (R476). -/
  | linkTimeout (t : TimeoutTarget)
  /-- MESH_TIMEOUT (R477). -/
  | meshTimeout (t : TimeoutTarget)
  /-- RESPONSE_ARRIVAL (R477). -/
  | responseArrival (die gen : Nat)
  /-- POWER_GOOD (R480). -/
  | powerGood (board : Board)
  /-- POWER_LIMIT (R483). -/
  | powerLimit
  /-- LIMIT_CLEAR (R483). -/
  | limitClear
  /-- POWER_LOSS (R484). -/
  | powerLoss
  /-- REMOTE_REQUEST (R475). -/
  | remoteRequest (req : RemoteReq)
  /-- ACCESS_PERFORMED (R228). -/
  | accessPerformed (gk i : Nat)
  deriving DecidableEq, Repr

end Sys2Proof
end

