-- ==== Sys2Proof/Machine/Roles.lean ====
section
/-! DEFINITION. What each word asks of the register files and of its operands, read from the entries of the spec: the
registers a word reads and writes (`Instr.uses`, used by 02 R49, R51, R74, R76 reasons 10 and 11) and the limits its entry puts
on operand values that the syntax can hold (`Instr.limits`, 02 R76 reason 12). -/

namespace Sys2Proof

/-- The four numbered register files (02 R48). -/
inductive RF | s | v | p | t deriving DecidableEq, Repr

/-- Registers a word reads (`r`) and writes (`w`). -/
structure Uses where
  r : List (RF × Nat)
  w : List (RF × Nat)
  deriving DecidableEq, Repr

/-- `n` consecutive vector registers from v(a) up. -/
def vrange (a n : Nat) : List (RF × Nat) := (List.range n).map fun i => (RF.v, a + i)

/-- The predicate a guard reads (02 R59). -/
def Hdr.reads (h : Hdr) : List (RF × Nat) := if h.gp < 12 then [(.p, h.gp)] else []

/-- The register of a scalar second source (06 R172). -/
def SSrc.reads : SSrc → List (RF × Nat)
  | .reg n => [(.s, n)]
  | .imm _ => []

/-- The register of a class-1 second source (06 R169). -/
def VSrc.reads : VSrc → List (RF × Nat)
  | .reg n => [(.v, n)]
  | .imm _ => []

/-- Registers that form the addresses of a class-4 word: global per-lane addresses take a pair (07 R220). -/
def addrRegs (glob : Bool) (am : AMode) (a : Nat) : List (RF × Nat) :=
  match am with
  | .contig | .uniform => [(.s, a)]
  | .lane => if glob then [(.v, a), (.v, a + 1)] else [(.v, a)]

/-- Registers that hold the data of a class-4 word of width `wd` (07 R221). -/
def dataRegs (am : AMode) (wd : Width) (d : Nat) : List (RF × Nat) :=
  match am with
  | .uniform => [(.s, d)]
  | _ => if wd = .d then [(.v, d), (.v, d + 1)] else [(.v, d)]

/-- Registers per block of the A operand (08 R259). -/
def aRegsPerBlock : Ty → Nat
  | .bf16 => 8
  | .e4m3 | .e5m2 | .i8 => 4
  | .e2m1 => 3
  | _ => 0

/-- Lanes-per-quarter registers of the B operand of `qmm` depend on W: 64/W registers from v(B) (08 R280). At least v(B) is read. -/
def qmmBRegs (b : Nat) : List (RF × Nat) := [(.v, b)]

/-- The file of a half's registers: `none` for the `nop` half (02 R63). -/
def HOp.file : HOp → Option RF
  | .nop => none
  | .sadd | .ssub | .sand | .sor | .sxor | .sshl | .sshr | .smov | .sli | .saddi => some .s
  | .pand | .por | .pxor | .pnot | .pmov => some .p
  | _ => some .v

/-- Whether HS names a register (02 R63, R64). -/
def HOp.readsHS : HOp → Bool
  | .nop | .sli | .vli => false
  | _ => true

/-- Whether HD is also, or only, a source (02 R63). -/
def HOp.readsHD : HOp → Bool
  | .sadd | .ssub | .sand | .sor | .sxor | .vadd | .vsub | .vand | .vor | .vxor | .vmin | .vmax
  | .fadd | .fsub | .fmul | .fmin | .fmax | .hadd2 | .hmul2 | .pand | .por | .pxor | .sts => true
  | _ => false

/-- Whether HD is a destination (02 R63). -/
def HOp.writesHD : HOp → Bool
  | .nop | .sts => false
  | _ => true

/-- Whether HI is an immediate; otherwise the field is 0 (02 R63). -/
def HOp.usesHI : HOp → Bool
  | .sshl | .sshr | .sli | .saddi | .vshl | .vshr | .vsra | .vli | .vaddi | .lds | .sts => true
  | _ => false

/-- Whether the half is a memory half (02 R64). -/
def HOp.isMem : HOp → Bool
  | .lds | .sts => true
  | _ => false

/-- Whether the half is of class 0 (02 R63). -/
def HOp.isClass0 (o : HOp) : Bool := o.file = some .s

/-- Registers a half reads. -/
def Half.reads (x : Half) : List (RF × Nat) :=
  match x.op.file with
  | none => []
  | some f => (if x.op.readsHS then [(f, x.hs)] else []) ++ (if x.op.readsHD then [(f, x.hd)] else [])
      ++ (if x.hg < 12 then [(.p, x.hg)] else [])

/-- Registers a half writes. -/
def Half.writes (x : Half) : List (RF × Nat) :=
  match x.op.file with
  | none => []
  | some f => if x.op.writesHD then [(f, x.hd)] else []

/-- The registers a word reads and writes, ranges included, the active mask as s127 (01 R32); where a run count or an A type is outside its column,
field A names its first register alone (log entry 43). Events name no register. -/
def Instr.uses : Instr → Uses
  | .sadd _ d a b | .ssub _ d a b | .smul _ d a b | .smulh _ d a b | .smulhu _ d a b | .sand _ d a b | .sor _ d a b
  | .sxor _ d a b | .sandn _ d a b | .sshl _ d a b | .sshr _ d a b | .ssra _ d a b | .smin _ d a b | .smax _ d a b
  | .sminu _ d a b | .smaxu _ d a b => ⟨(.s, a) :: b.reads, [(.s, d)]⟩
  | .sset _ d a b _ => ⟨[(.s, a), (.s, b)], [(.s, d)]⟩
  | .ssel _ d a b c => ⟨[(.s, a), (.s, b), (.s, c)], [(.s, d)]⟩
  | .smov _ d a | .sbfx _ d a _ _ _ | .sclz _ d a | .spopc _ d a | .callIndirect _ d a => ⟨[(.s, a)], [(.s, d)]⟩
  | .sli _ d _ | .srd _ d _ | .call _ d _ | .gsync _ d => ⟨[], [(.s, d)]⟩
  | .slih _ d _ => ⟨[(.s, d)], [(.s, d)]⟩
  | .srdVector _ d _ => ⟨[], [(.v, d)]⟩
  | .swr _ _ a | .swc _ a | .brIndirect _ a | .bz _ a _ | .bnz _ a _ | .ret _ a => ⟨[(.s, a)], []⟩
  | .join _ | .exit _ | .tret _ => ⟨[], [(.s, 127)]⟩
  | .br _ _ | .yield _ | .brk _ _ | .nop _ | .fence _ _ _ | .fenceAsync _ | .rinv _ _
  | .wcnt _ _ _ | .rsb _ | .rse _ | .sweepIteration _ _ | .issueSelect _ _ | .ldResultWrite _ _ _ | .xResultWrite _ _ _
  | .tileWordPerform _ _ _ | .engineAccept _ _ | .engineDelivery _ _ _ | .engineCommandEnd _ | .kvLockAcquire _
  | .kvLockTimeout _ | .streamFetch _ _ | .graceSweep _ | .colourArrival _ | .watchdogExpiry _ | .launchAdmit _
  | .teamPlace _ _ _ _ _ | .noRoomTimeout _ _ _ | .classPreemptTimeout _ _ _ | .preemptStop _ | .saveComplete _
  | .teamRestore _ _ _ | .groupRestore _ _ _ | .faultRecordSend _ _ | .replyProcess _ | .dataFrame _ | .ack _ | .nak _
  | .ackTimer | .resyncRequest _ | .hello _ | .close _ | .sessionTimeout | .launch _ | .wrap _ | .write _ | .read _
  | .marker _ | .pcreate | .pdestroy | .qcfg | .qreset | .cancel | .rack | .attest | .dreset | .info | .peers
  | .dieReset _ | .linkTimeout _ | .meshTimeout _ | .responseArrival _ _ | .powerGood _ | .powerLimit | .limitClear
  | .powerLoss | .remoteRequest _ | .accessPerformed _ _ => ⟨[], []⟩
  | .bany _ p _ | .ball _ p _ => ⟨[(.p, p)], []⟩
  | .brd _ p _ => ⟨[(.p, p)], [(.s, 127)]⟩
  | .vadd h _ d a b | .vsub h _ d a b | .vadds h _ _ d a b | .vsubs h _ _ d a b | .vmul h _ d a b | .vmulh h _ d a b
  | .vmulhu h _ d a b | .vand h d a b | .vor h d a b | .vxor h d a b | .vandn h d a b | .vshl h _ d a b
  | .vshr h _ d a b | .vsra h _ d a b | .vmin h _ d a b | .vmax h _ d a b | .vminu h _ d a b | .vmaxu h _ d a b =>
    ⟨(.v, a) :: b.reads ++ h.reads, [(.v, d)]⟩
  | .vmad h d a b c | .vfsh h d a b c | .vdp4 h _ _ d a b c | .ffma h _ _ d a b c | .hfma2 h _ _ d a b c =>
    ⟨[(.v, a), (.v, b), (.v, c)] ++ h.reads, [(.v, d)]⟩
  | .vabs h _ _ d a | .vclz h _ d a | .vpopc h _ d a | .vbrev h _ d a | .vmov h d a | .frcp h d a | .frsq h d a
  | .fex2 h d a | .flg2 h d a | .fcvt h _ _ _ _ d a | .funpk h _ _ d a | .vshfx h d a _ | .vshfu h d a _
  | .vshfd h d a _ | .vbcast h d a _ | .vredVector h d a _ | .vscan h d a _ | .vscanExcl h d a _ =>
    ⟨(.v, a) :: h.reads, [(.v, d)]⟩
  | .vsel h d a b p => ⟨[(.v, a), (.v, b), (.p, p)] ++ h.reads, [(.v, d)]⟩
  | .vcmp h d a b _ | .fcmp h d a b _ => ⟨[(.v, a), (.v, b)] ++ h.reads, [(.p, d)]⟩
  | .vbfx h _ d a b | .fadd h _ _ d a b | .fsub h _ _ d a b | .fmul h _ _ d a b | .fmin h d a b | .fmax h d a b
  | .hadd2 h _ _ d a b | .hmul2 h _ _ d a b | .q8add h _ _ _ d a b | .q8mul h _ _ _ d a b | .vperm h d a b =>
    ⟨[(.v, a), (.v, b)] ++ h.reads, [(.v, d)]⟩
  | .vbfi h d a b | .fpk h _ _ _ _ d a b | .vpush h d a b => ⟨[(.v, a), (.v, b), (.v, d)] ++ h.reads, [(.v, d)]⟩
  | .vli h d _ | .spop h d _ => ⟨h.reads, [(.v, d)]⟩
  | .vhad h big d a => ⟨vrange a (if big then 32 else 16) ++ h.reads, vrange d (if big then 32 else 16)⟩
  | .vbcastScalar h d a => ⟨(.s, a) :: h.reads, [(.v, d)]⟩
  | .vred h d a _ => ⟨(.v, a) :: h.reads, [(.s, d)]⟩
  | .vballot h d a | .vfirst h d a => ⟨(.p, a) :: h.reads, [(.s, d)]⟩
  | .pand h d a b | .por h d a b | .pxor h d a b => ⟨[(.p, a), (.p, b)] ++ h.reads, [(.p, d)]⟩
  | .pnot h d a | .pmov h d a => ⟨(.p, a) :: h.reads, [(.p, d)]⟩
  | .pset h d a => ⟨(.s, a) :: h.reads, [(.p, d)]⟩
  | .psetImm h d _ => ⟨h.reads, [(.p, d)]⟩
  | .lds h m d a => ⟨addrRegs false m.am a ++ h.reads, dataRegs m.am m.wd d⟩
  | .sts h m d a => ⟨addrRegs false m.am a ++ dataRegs m.am m.wd d ++ h.reads, []⟩
  | .ldg h m d a | .ldr h m d a | .ldc h m d a => ⟨addrRegs true m.am a ++ h.reads, dataRegs m.am m.wd d⟩
  | .stg h m d a | .stc h m d a => ⟨addrRegs true m.am a ++ dataRegs m.am m.wd d ++ h.reads, []⟩
  | .atom h m op d a b =>
    ⟨addrRegs true m.am a ++ dataRegs m.am m.wd b ++ (if op = .cas then dataRegs m.am m.wd d else []) ++ h.reads, dataRegs m.am m.wd d⟩
  | .atoms h m op d a b =>
    ⟨addrRegs false m.am a ++ dataRegs m.am m.wd b ++ (if op = .cas then dataRegs m.am m.wd d else []) ++ h.reads, dataRegs m.am m.wd d⟩
  | .red h m _ a b => ⟨addrRegs true m.am a ++ dataRegs m.am m.wd b ++ h.reads, []⟩
  | .pf h _ am _ _ a => ⟨addrRegs true am a ++ h.reads, []⟩
  | .phinit h a b | .dfree h a b | .ctxsv h _ a b | .tlbinv h _ _ a b | .bflip h _ _ a b =>
    ⟨[(.s, a), (.s, b)] ++ h.reads, []⟩
  | .phreg h _ a _ | .phwait h _ a | .tqclose h _ a | .tqcloseOpen h _ a | .sstr h _ a | .sfmt h a | .rset h a
  | .btinv h _ a | .csrw h _ a | .rtiResume h a | .rtiEnd h a | .rtiAbort h a => ⟨(.s, a) :: h.reads, []⟩
  | .phdrop h _ | .sdrop h _ | .sysc h _ => ⟨h.reads, []⟩
  | .pharr h _ d _ | .pharw h _ d _ | .csrr h d _ | .halt h d => ⟨h.reads, [(.s, d)]⟩
  | .twait h _ d a | .twaitY h _ d a _ | .ttest h _ d a | .cpy h d a | .cpym h d a | .gath h d a | .scat h d a
  | .xsect h d a | .sfmtSwap h d a | .kvld h d a | .kvapp h d a | .kvwr h d a | .kvtrim h d a | .kvsplice h d a
  | .kvshift h d a | .ctxld h _ d a => ⟨(.s, a) :: h.reads, [(.s, d)]⟩
  | .tqpush h _ d a b c => ⟨[(.s, a), (.s, b), (.s, c)] ++ h.reads, [(.s, d)]⟩
  | .tqpop h _ d a c => ⟨(.s, a) :: h.reads, [(.s, d), (.s, d + 1), (.s, c)]⟩
  | .spopPred h d _ p => ⟨h.reads, [(.v, d), (.p, p)]⟩
  | .enc h _ _ d a | .dec h _ _ d a | .vabsSweep h d a _ _ | .vclzSweep h d a _ _ | .vpopcSweep h d a _ _
  | .vbrevSweep h d a _ _ | .vmovSweep h d a _ _ => ⟨[(.s, d), (.s, a)] ++ h.reads, []⟩
  | .smm h ta _ c d a b | .smms h ta _ c d a b | .pmm h ta _ c d a b | .dmm h _ ta _ _ c d a b =>
    ⟨[(.t, d), (.s, b)] ++ vrange a (max 1 (aRegsPerBlock ta * (if c ≤ 4 then c else 0))) ++ h.reads, [(.t, d)]⟩
  | .qmm h _ ta _ _ d a b => ⟨(.t, d) :: qmmBRegs b ++ vrange a (max 1 (aRegsPerBlock ta)) ++ h.reads, [(.t, d)]⟩
  | .tzero h d => ⟨h.reads, [(.t, d)]⟩
  | .tld h _ _ d a => ⟨(.s, a) :: h.reads, [(.t, d)]⟩
  | .tst h _ _ _ d a => ⟨[(.s, a), (.t, d)] ++ h.reads, []⟩
  | .tmov h _ d a => ⟨(.t, a) :: h.reads, vrange d 16⟩
  | .tmovToTile h d a => ⟨vrange a 16 ++ h.reads, [(.t, d)]⟩
  | .tscl h d a => ⟨[(.v, a), (.t, d)] ++ h.reads, [(.t, d)]⟩
  | .tstat h clr d a => ⟨(.t, a) :: h.reads, (.s, d) :: (if clr then [(.t, a)] else [])⟩
  | .rot h d a b n => ⟨(.v, b) :: vrange a (2 * n) ++ h.reads, vrange d (2 * n)⟩
  | .smaxSoftmax h d a => ⟨(.t, d) :: vrange a 4 ++ h.reads, (.t, d) :: vrange a 3⟩
  | .cred h _ d a b => ⟨(.s, b) :: h.reads, (.t, d) :: vrange a 2⟩
  | .dbgr h d a b | .pgcopy h _ d a b => ⟨[(.s, a), (.s, b)] ++ h.reads, [(.s, d)]⟩
  | .dbgw h d a b => ⟨[(.s, a), (.s, b), (.s, d)] ++ h.reads, []⟩
  | .pairedWord _ h0 h1 => ⟨h0.reads ++ h1.reads, h0.writes ++ h1.writes⟩
  | .vaddSweep h d a b _ | .vsubSweep h d a b _ | .vaddsSweep h _ d a b _ | .vsubsSweep h _ d a b _
  | .vmulSweep h d a b _ | .vmulhSweep h d a b _ | .vmulhuSweep h d a b _ | .vmadSweep h d a b _ | .vandSweep h d a b _
  | .vorSweep h d a b _ | .vxorSweep h d a b _ | .vandnSweep h d a b _ | .vshlSweep h d a b _ | .vshrSweep h d a b _
  | .vsraSweep h d a b _ | .vminSweep h d a b _ | .vmaxSweep h d a b _ | .vminuSweep h d a b _ | .vmaxuSweep h d a b _
  | .vselSweep h d a b _ | .vbfxSweep h d a b _ | .vbfiSweep h d a b _ | .vfshSweep h d a b _ | .faddSweep h d a b _
  | .fsubSweep h d a b _ | .fmulSweep h d a b _ | .ffmaSweep h d a b _ | .fminSweep h d a b _ | .fmaxSweep h d a b _
  | .hadd2Sweep h d a b _ | .hmul2Sweep h d a b _ | .hfma2Sweep h d a b _ | .q8addSweep h d a b _
  | .q8mulSweep h d a b _ => ⟨[(.s, d), (.s, a), (.s, b)] ++ h.reads, []⟩

/-- Whether two equally long register ranges are equal or disjoint (06 R199, 10 R321). -/
def disjointOrEqual (a d n : Nat) : Bool := a == d || decide (a + n ≤ d) || decide (d + n ≤ a)

/-- Slots of one lane for `fpk` (06 R197): k counts pairs of slots. -/
def fpkPairs : Ty → Nat
  | .bf16 => 1
  | .e4m3 | .e5m2 | .i8 => 2
  | .e2m1 => 4
  | _ => 0

/-- Limits of `fpk` (06 R197). -/
def fpkLimits (st : Bool) (rm : Rnd) (ty : Ty) (k : Nat) : Bool :=
  decide (k < fpkPairs ty) && (decide (ty ≠ .i8) || (!st && decide (rm = .rne)))

/-- Slots of one lane for `funpk` (06 R198). -/
def funpkSlots : Ty → Nat
  | .bf16 => 2
  | .e4m3 | .e5m2 | .i8 => 4
  | .e2m1 | .l4 => 8
  | _ => 0

/-- Limits of a load or store on its address and data registers (07 R220, R221): extension, parity of a pair. -/
def memLimits (glob load : Bool) (m : Mem) (d a : Nat) : Bool :=
  (!m.sx || (load && decide (m.wd = .b ∨ m.wd = .h)))
    && (decide (m.am ≠ .lane) || !glob || decide (a % 2 = 0))
    && (decide (m.am = .uniform ∨ m.wd ≠ .d) || decide (d % 2 = 0))

/-- A register pair of an atomic starts at an even register (07 R229). -/
def amoEven (m : Amo) (d : Nat) : Bool := decide (m.am = .uniform ∨ m.wd ≠ .d) || decide (d % 2 = 0)

/-- Limits of an atomic or reduction (07 R229). -/
def amoLimits (glob : Bool) (m : Amo) (op : AOp) (a b : Nat) : Bool :=
  (decide (m.wd = .w) || (decide (m.wd = .d) && decide (op ≠ .fadd ∧ op ≠ .fmin ∧ op ≠ .fmax)))
    && (decide (m.am ≠ .lane) || !glob || decide (a % 2 = 0)) && amoEven m b

/-- Largest number of outstanding results of a class (02 R75). -/
def RCls.limit : RCls → Nat
  | .ld => 64
  | .tile => 16
  | .x => 32

/-- Allowed pairs of B type and A type of `dmm` and `qmm`, with ST (08 R258). -/
def typePair (tb ta : Ty) (st : Bool) : Bool :=
  match tb, ta with
  | .bf16, .bf16 => !st
  | .e4m3, .e4m3 | .e4m3, .e5m2 | .e5m2, .e4m3 | .e5m2, .e5m2 => !st
  | .i8, .i8 => true
  | _, _ => false

/-- The limits that the entries put on operand values (02 R76 reason 12), as far as they depend on the word alone. -/
def Instr.limits : Instr → Bool
  | .sadd _ _ _ _ | .ssub _ _ _ _ | .smul _ _ _ _ | .smulh _ _ _ _ | .smulhu _ _ _ _ | .sand _ _ _ _ | .sor _ _ _ _
  | .sxor _ _ _ _ | .sandn _ _ _ _ | .sshl _ _ _ _ | .sshr _ _ _ _ | .ssra _ _ _ _ | .smin _ _ _ _ | .smax _ _ _ _
  | .sminu _ _ _ _ | .smaxu _ _ _ _ | .sset _ _ _ _ _ | .ssel _ _ _ _ _ | .smov _ _ _ | .sli _ _ _ | .slih _ _ _
  | .sclz _ _ _ | .spopc _ _ _ | .swc _ _ | .br _ _ | .brIndirect _ _ | .bz _ _ _ | .bnz _ _ _ | .bany _ _ _
  | .ball _ _ _ | .brd _ _ _ | .join _ | .call _ _ _ | .callIndirect _ _ _ | .ret _ _ | .exit _ | .yield _ | .brk _ _
  | .tret _ | .nop _ | .vmad _ _ _ _ _ | .vand _ _ _ _ | .vor _ _ _ _ | .vxor _ _ _ _ | .vandn _ _ _ _ | .vsel _ _ _ _ _
  | .vcmp _ _ _ _ _ | .vbfx _ _ _ _ _ | .vbfi _ _ _ _ | .vfsh _ _ _ _ _ | .vmov _ _ _ | .vli _ _ _ | .vdp4 _ _ _ _ _ _ _
  | .fadd _ _ _ _ _ _ | .fsub _ _ _ _ _ _ | .fmul _ _ _ _ _ _ | .ffma _ _ _ _ _ _ _ | .fmin _ _ _ _ | .fmax _ _ _ _
  | .fcmp _ _ _ _ _ | .frcp _ _ _ | .frsq _ _ _ | .fex2 _ _ _ | .flg2 _ _ _ | .hadd2 _ _ _ _ _ _ | .hmul2 _ _ _ _ _ _
  | .hfma2 _ _ _ _ _ _ _ | .q8add _ _ _ _ _ _ _ | .q8mul _ _ _ _ _ _ _ | .vperm _ _ _ _ | .vpush _ _ _ _
  | .vshfx _ _ _ _ | .vshfu _ _ _ _ | .vshfd _ _ _ _ | .vbcast _ _ _ _ | .vbcastScalar _ _ _ | .vred _ _ _ _
  | .vredVector _ _ _ _ | .vscan _ _ _ _ | .vscanExcl _ _ _ _ | .vballot _ _ _ | .vfirst _ _ _ | .pand _ _ _ _
  | .por _ _ _ _ | .pxor _ _ _ _ | .pnot _ _ _ | .pmov _ _ _ | .pset _ _ _ | .psetImm _ _ _ | .fenceAsync _ | .rinv _ _
  | .phinit _ _ _ | .phreg _ _ _ _ | .phdrop _ _ | .pharr _ _ _ _ | .phwait _ _ _ | .pharw _ _ _ _ | .twait _ _ _ _
  | .twaitY _ _ _ _ _ | .ttest _ _ _ _ | .rsb _ | .rse _ | .gsync _ _ | .dfree _ _ _ | .tqpush _ _ _ _ _ _
  | .tqclose _ _ _ | .tqcloseOpen _ _ _ | .cpy _ _ _ | .cpym _ _ _ | .gath _ _ _ | .scat _ _ _ | .xsect _ _ _
  | .sstr _ _ _ | .spop _ _ _ | .spopPred _ _ _ _ | .sdrop _ _ | .sfmt _ _ | .sfmtSwap _ _ _ | .enc _ _ _ _ _
  | .dec _ _ _ _ _ | .tzero _ _ | .tld _ _ _ _ _ | .tst _ _ _ _ _ _ | .tmov _ _ _ _ | .tmovToTile _ _ _ | .tscl _ _ _
  | .tstat _ _ _ _ | .rset _ _ | .kvld _ _ _ | .kvapp _ _ _ | .kvwr _ _ _ | .kvtrim _ _ _ | .kvsplice _ _ _
  | .kvshift _ _ _ | .btinv _ _ _ | .smaxSoftmax _ _ _ | .dbgr _ _ _ _ | .dbgw _ _ _ _ | .rtiResume _ _ | .rtiEnd _ _
  | .rtiAbort _ _ | .sysc _ _ | .halt _ _ | .ctxsv _ _ _ _ | .ctxld _ _ _ _ | .pairedWord _ _ _ | .sweepIteration _ _
  | .issueSelect _ _ | .ldResultWrite _ _ _ | .xResultWrite _ _ _ | .tileWordPerform _ _ _ | .engineAccept _ _
  | .engineDelivery _ _ _ | .engineCommandEnd _ | .kvLockAcquire _ | .kvLockTimeout _ | .streamFetch _ _ | .graceSweep _
  | .colourArrival _ | .watchdogExpiry _ | .launchAdmit _ | .teamPlace _ _ _ _ _ | .noRoomTimeout _ _ _
  | .classPreemptTimeout _ _ _ | .preemptStop _ | .saveComplete _ | .teamRestore _ _ _ | .groupRestore _ _ _
  | .faultRecordSend _ _ | .replyProcess _ | .dataFrame _ | .ack _ | .nak _ | .ackTimer | .resyncRequest _ | .hello _
  | .close _ | .sessionTimeout | .launch _ | .wrap _ | .write _ | .read _ | .marker _ | .pcreate | .pdestroy | .qcfg
  | .qreset | .cancel | .rack | .attest | .dreset | .info | .peers | .dieReset _ | .linkTimeout _ | .meshTimeout _
  | .responseArrival _ _ | .powerGood _ | .powerLimit | .limitClear | .powerLoss | .remoteRequest _
  | .accessPerformed _ _ => true
  | .sbfx _ _ _ pos len _ => decide (1 ≤ len ∧ pos + len ≤ 64)
  | .srd _ _ idx => decide (idx ≠ 0 ∧ idx ≤ 11)
  | .srdVector _ _ idx => decide (idx ≤ 11)
  | .swr _ idx _ => decide (idx = 10)
  | .vadd _ wd _ _ _ | .vsub _ wd _ _ _ | .vadds _ wd _ _ _ _ | .vsubs _ wd _ _ _ _ | .vmul _ wd _ _ _
  | .vmulh _ wd _ _ _ | .vmulhu _ wd _ _ _ | .vshl _ wd _ _ _ | .vshr _ wd _ _ _ | .vsra _ wd _ _ _ | .vmin _ wd _ _ _
  | .vmax _ wd _ _ _ | .vminu _ wd _ _ _ | .vmaxu _ wd _ _ _ | .vabs _ wd _ _ _ | .vclz _ wd _ _ | .vpopc _ wd _ _
  | .vbrev _ wd _ _ => decide (wd ≠ .d)
  | .fcvt _ st _ dty _ _ _ => decide (dty ≠ .l3 ∧ dty ≠ .l4) && (decide (dty ≠ .i8 ∧ dty ≠ .i32) || !st)
  | .fpk _ st rm ty k _ _ _ => fpkLimits st rm ty k
  | .funpk _ ty j _ _ => decide (j < funpkSlots ty)
  | .vhad _ big d a => disjointOrEqual a d (if big then 32 else 16)
  | .lds _ m d a => memLimits false true m d a && decide (m.ord = .rlx ∨ m.ord = .acq)
  | .sts _ m d a => memLimits false false m d a && decide (m.ord = .rlx ∨ m.ord = .rel)
  | .ldg _ m d a | .ldc _ m d a => memLimits true true m d a && decide (m.ord = .rlx ∨ m.ord = .acq)
  | .stg _ m d a | .stc _ m d a => memLimits true false m d a && decide (m.ord = .rlx ∨ m.ord = .rel)
  | .ldr _ m d a => memLimits true true m d a && decide (m.ord = .rlx ∧ m.scp = .ln)
  | .atom _ m op d a b => amoLimits true m op a b && amoEven m d
  | .atoms _ m op d a b => amoLimits false m op a b && amoEven m d
  | .red _ m op a b => amoLimits true m op a b && decide (op ≠ .exch ∧ op ≠ .cas)
  | .fence _ _ ord => decide (ord ≠ .rlx)
  | .pf _ _ am _ _ a => decide (am ≠ .contig) && (decide (am ≠ .lane) || decide (a % 2 = 0))
  | .wcnt _ cl n => decide (n ≤ cl.limit)
  | .tqpop _ _ d _ c => decide (d % 2 = 0 ∧ d ≤ 124 ∧ c ≠ d ∧ c ≠ d + 1)
  | .smm _ ta _ c _ _ _ | .smms _ ta _ c _ _ _ | .pmm _ ta _ c _ _ _ =>
    decide (1 ≤ c ∧ c ≤ 4) && decide (ta = .bf16 ∨ ta = .e4m3 ∨ ta = .e5m2 ∨ ta = .e2m1)
  | .dmm _ tb ta st _ c _ _ _ => decide (1 ≤ c ∧ c ≤ 4) && typePair tb ta st
  | .qmm _ tb ta st _ _ _ _ => typePair tb ta st
  | .rot _ d a b n => disjointOrEqual a d (2 * n) && !(decide (d ≤ b) && decide (b < d + 2 * n))
  | .cred _ m _ _ _ => decide (m ≠ 0)
  | .csrr _ _ k => decide (k ≤ 8)
  | .csrw _ k _ => decide (k = 3)
  | .tlbinv _ kind _ _ _ => decide (kind ≤ 2)
  | .bflip _ _ size _ _ | .pgcopy _ size _ _ _ => decide (size ≤ 2)
  | .vaddSweep _ _ _ _ n | .vsubSweep _ _ _ _ n | .vaddsSweep _ _ _ _ _ n | .vsubsSweep _ _ _ _ _ n
  | .vmulSweep _ _ _ _ n | .vmulhSweep _ _ _ _ n | .vmulhuSweep _ _ _ _ n | .vmadSweep _ _ _ _ n | .vandSweep _ _ _ _ n
  | .vorSweep _ _ _ _ n | .vxorSweep _ _ _ _ n | .vandnSweep _ _ _ _ n | .vshlSweep _ _ _ _ n | .vshrSweep _ _ _ _ n
  | .vsraSweep _ _ _ _ n | .vminSweep _ _ _ _ n | .vmaxSweep _ _ _ _ n | .vminuSweep _ _ _ _ n | .vmaxuSweep _ _ _ _ n
  | .vabsSweep _ _ _ _ n | .vselSweep _ _ _ _ n | .vbfxSweep _ _ _ _ n | .vbfiSweep _ _ _ _ n | .vfshSweep _ _ _ _ n
  | .vclzSweep _ _ _ _ n | .vpopcSweep _ _ _ _ n | .vbrevSweep _ _ _ _ n | .vmovSweep _ _ _ _ n | .faddSweep _ _ _ _ n
  | .fsubSweep _ _ _ _ n | .fmulSweep _ _ _ _ n | .ffmaSweep _ _ _ _ n | .fminSweep _ _ _ _ n | .fmaxSweep _ _ _ _ n
  | .hadd2Sweep _ _ _ _ n | .hmul2Sweep _ _ _ _ n | .hfma2Sweep _ _ _ _ n | .q8addSweep _ _ _ _ n
  | .q8mulSweep _ _ _ _ n => decide (n ≠ 0)

/-- The fields of a half fit their places in the word, and a field marked 0 is 0 (02 R62, R63). -/
def Half.shape (x : Half) : Bool :=
  decide (x.hs < 256 ∧ x.hd < 256 ∧ x.hi < 16) && (x.op.usesHI || x.hi == 0)
    && (decide (x.op ≠ .nop) || (x.hs == 0 && x.hd == 0 && x.hg == 12))

/-- Numbers that are not register numbers fit their places in the word (02 R57, R61 and the entries). -/
def Instr.shape : Instr → Bool
  | .sadd _ _ _ _ | .ssub _ _ _ _ | .smul _ _ _ _ | .smulh _ _ _ _ | .smulhu _ _ _ _ | .sand _ _ _ _ | .sor _ _ _ _
  | .sxor _ _ _ _ | .sandn _ _ _ _ | .sshl _ _ _ _ | .sshr _ _ _ _ | .ssra _ _ _ _ | .smin _ _ _ _ | .smax _ _ _ _
  | .sminu _ _ _ _ | .smaxu _ _ _ _ | .sset _ _ _ _ _ | .ssel _ _ _ _ _ | .smov _ _ _ | .sli _ _ _ | .slih _ _ _
  | .sclz _ _ _ | .spopc _ _ _ | .swc _ _ | .br _ _ | .brIndirect _ _ | .bz _ _ _ | .bnz _ _ _ | .bany _ _ _
  | .ball _ _ _ | .brd _ _ _ | .join _ | .call _ _ _ | .callIndirect _ _ _ | .ret _ _ | .exit _ | .yield _ | .brk _ _
  | .tret _ | .nop _ | .vadd _ _ _ _ _ | .vsub _ _ _ _ _ | .vadds _ _ _ _ _ _ | .vsubs _ _ _ _ _ _ | .vmul _ _ _ _ _
  | .vmulh _ _ _ _ _ | .vmulhu _ _ _ _ _ | .vmad _ _ _ _ _ | .vand _ _ _ _ | .vor _ _ _ _ | .vxor _ _ _ _
  | .vandn _ _ _ _ | .vshl _ _ _ _ _ | .vshr _ _ _ _ _ | .vsra _ _ _ _ _ | .vmin _ _ _ _ _ | .vmax _ _ _ _ _
  | .vminu _ _ _ _ _ | .vmaxu _ _ _ _ _ | .vabs _ _ _ _ _ | .vsel _ _ _ _ _ | .vcmp _ _ _ _ _ | .vbfx _ _ _ _ _
  | .vbfi _ _ _ _ | .vfsh _ _ _ _ _ | .vclz _ _ _ _ | .vpopc _ _ _ _ | .vbrev _ _ _ _ | .vmov _ _ _ | .vli _ _ _
  | .vdp4 _ _ _ _ _ _ _ | .fadd _ _ _ _ _ _ | .fsub _ _ _ _ _ _ | .fmul _ _ _ _ _ _ | .ffma _ _ _ _ _ _ _
  | .fmin _ _ _ _ | .fmax _ _ _ _ | .fcmp _ _ _ _ _ | .frcp _ _ _ | .frsq _ _ _ | .fex2 _ _ _ | .flg2 _ _ _
  | .fcvt _ _ _ _ _ _ _ | .vhad _ _ _ _ | .hadd2 _ _ _ _ _ _ | .hmul2 _ _ _ _ _ _ | .hfma2 _ _ _ _ _ _ _
  | .q8add _ _ _ _ _ _ _ | .q8mul _ _ _ _ _ _ _ | .vperm _ _ _ _ | .vpush _ _ _ _ | .vbcastScalar _ _ _ | .vred _ _ _ _
  | .vredVector _ _ _ _ | .vscan _ _ _ _ | .vscanExcl _ _ _ _ | .vballot _ _ _ | .vfirst _ _ _ | .pand _ _ _ _
  | .por _ _ _ _ | .pxor _ _ _ _ | .pnot _ _ _ | .pmov _ _ _ | .pset _ _ _ | .psetImm _ _ _ | .lds _ _ _ _
  | .sts _ _ _ _ | .ldg _ _ _ _ | .stg _ _ _ _ | .ldr _ _ _ _ | .ldc _ _ _ _ | .stc _ _ _ _ | .atom _ _ _ _ _ _
  | .atoms _ _ _ _ _ _ | .red _ _ _ _ _ | .fence _ _ _ | .fenceAsync _ | .rinv _ _ | .pf _ _ _ _ _ _ | .phinit _ _ _
  | .phwait _ _ _ | .twait _ _ _ _ | .twaitY _ _ _ _ _ | .ttest _ _ _ _ | .rsb _ | .rse _ | .gsync _ _ | .dfree _ _ _
  | .tqpush _ _ _ _ _ _ | .tqpop _ _ _ _ _ | .tqclose _ _ _ | .tqcloseOpen _ _ _ | .cpy _ _ _ | .cpym _ _ _
  | .gath _ _ _ | .scat _ _ _ | .xsect _ _ _ | .sfmt _ _ | .sfmtSwap _ _ _ | .enc _ _ _ _ _ | .dec _ _ _ _ _
  | .tzero _ _ | .tld _ _ _ _ _ | .tst _ _ _ _ _ _ | .tmov _ _ _ _ | .tmovToTile _ _ _ | .tscl _ _ _ | .tstat _ _ _ _
  | .rset _ _ | .kvld _ _ _ | .kvapp _ _ _ | .kvwr _ _ _ | .kvtrim _ _ _ | .kvsplice _ _ _ | .kvshift _ _ _
  | .btinv _ _ _ | .smaxSoftmax _ _ _ | .dbgr _ _ _ _ | .dbgw _ _ _ _ | .rtiResume _ _ | .rtiEnd _ _ | .rtiAbort _ _
  | .sysc _ _ | .halt _ _ | .ctxsv _ _ _ _ | .ctxld _ _ _ _ | .sweepIteration _ _ | .issueSelect _ _
  | .ldResultWrite _ _ _ | .xResultWrite _ _ _ | .tileWordPerform _ _ _ | .engineAccept _ _ | .engineDelivery _ _ _
  | .engineCommandEnd _ | .kvLockAcquire _ | .kvLockTimeout _ | .streamFetch _ _ | .graceSweep _ | .colourArrival _
  | .watchdogExpiry _ | .launchAdmit _ | .teamPlace _ _ _ _ _ | .noRoomTimeout _ _ _ | .classPreemptTimeout _ _ _
  | .preemptStop _ | .saveComplete _ | .teamRestore _ _ _ | .groupRestore _ _ _ | .faultRecordSend _ _ | .replyProcess _
  | .dataFrame _ | .ack _ | .nak _ | .ackTimer | .resyncRequest _ | .hello _ | .close _ | .sessionTimeout | .launch _
  | .wrap _ | .write _ | .read _ | .marker _ | .pcreate | .pdestroy | .qcfg | .qreset | .cancel | .rack | .attest
  | .dreset | .info | .peers | .dieReset _ | .linkTimeout _ | .meshTimeout _ | .responseArrival _ _ | .powerGood _
  | .powerLimit | .limitClear | .powerLoss | .remoteRequest _ | .accessPerformed _ _ => true
  | .sbfx _ _ _ pos len _ => decide (pos < 64 ∧ len < 256)
  | .srd _ _ idx | .srdVector _ _ idx | .swr _ idx _ => decide (idx < 256)
  | .fpk _ _ _ _ k _ _ _ | .csrr _ _ k | .csrw _ k _ => decide (k < 256)
  | .funpk _ _ j _ _ => decide (j < 256)
  | .vshfx _ _ _ m | .vshfu _ _ _ m | .vshfd _ _ _ m => decide (m < 64)
  | .vbcast _ _ _ k => decide (k < 64)
  | .wcnt _ _ n => decide (n < 128)
  | .phreg _ k _ _ | .phdrop _ k | .pharr _ _ _ k | .pharw _ _ _ k => decide (k < 8)
  | .sstr _ k _ | .spop _ _ k | .spopPred _ _ k _ | .sdrop _ k => decide (k < 4)
  | .smm _ _ _ c _ _ _ | .smms _ _ _ c _ _ _ | .pmm _ _ _ c _ _ _ | .dmm _ _ _ _ _ c _ _ _ => decide (c < 256)
  | .qmm _ _ _ _ tag _ _ _ => decide (tag < 256)
  | .rot _ _ _ _ n => decide (1 ≤ n ∧ n ≤ 128)
  | .cred _ m _ _ _ => decide (m < 4096)
  | .tlbinv _ kind _ _ _ => decide (kind < 4)
  | .bflip _ _ size _ _ | .pgcopy _ size _ _ _ => decide (size < 4)
  | .pairedWord _ h0 h1 => h0.shape && h1.shape
  | .vaddSweep _ _ _ _ n | .vsubSweep _ _ _ _ n | .vaddsSweep _ _ _ _ _ n | .vsubsSweep _ _ _ _ _ n
  | .vmulSweep _ _ _ _ n | .vmulhSweep _ _ _ _ n | .vmulhuSweep _ _ _ _ n | .vmadSweep _ _ _ _ n | .vandSweep _ _ _ _ n
  | .vorSweep _ _ _ _ n | .vxorSweep _ _ _ _ n | .vandnSweep _ _ _ _ n | .vshlSweep _ _ _ _ n | .vshrSweep _ _ _ _ n
  | .vsraSweep _ _ _ _ n | .vminSweep _ _ _ _ n | .vmaxSweep _ _ _ _ n | .vminuSweep _ _ _ _ n | .vmaxuSweep _ _ _ _ n
  | .vselSweep _ _ _ _ n | .vbfxSweep _ _ _ _ n | .vbfiSweep _ _ _ _ n | .vfshSweep _ _ _ _ n | .faddSweep _ _ _ _ n
  | .fsubSweep _ _ _ _ n | .fmulSweep _ _ _ _ n | .ffmaSweep _ _ _ _ n | .fminSweep _ _ _ _ n | .fmaxSweep _ _ _ _ n
  | .hadd2Sweep _ _ _ _ n | .hmul2Sweep _ _ _ _ n | .hfma2Sweep _ _ _ _ n | .q8addSweep _ _ _ _ n
  | .q8mulSweep _ _ _ _ n => decide (n < 4096)
  | .vabsSweep _ _ _ b n | .vclzSweep _ _ _ b n | .vpopcSweep _ _ _ b n | .vbrevSweep _ _ _ b n | .vmovSweep _ _ _ b n =>
    decide (n < 4096 ∧ b = 0)

/-- The guard of a word, for the words that have one (02 R59). -/
def Instr.hdr? : Instr → Option Hdr
  | .sadd _ _ _ _ | .ssub _ _ _ _ | .smul _ _ _ _ | .smulh _ _ _ _ | .smulhu _ _ _ _ | .sand _ _ _ _ | .sor _ _ _ _
  | .sxor _ _ _ _ | .sandn _ _ _ _ | .sshl _ _ _ _ | .sshr _ _ _ _ | .ssra _ _ _ _ | .smin _ _ _ _ | .smax _ _ _ _
  | .sminu _ _ _ _ | .smaxu _ _ _ _ | .sset _ _ _ _ _ | .ssel _ _ _ _ _ | .smov _ _ _ | .sli _ _ _ | .slih _ _ _
  | .sbfx _ _ _ _ _ _ | .sclz _ _ _ | .spopc _ _ _ | .srd _ _ _ | .srdVector _ _ _ | .swr _ _ _ | .swc _ _ | .br _ _
  | .brIndirect _ _ | .bz _ _ _ | .bnz _ _ _ | .bany _ _ _ | .ball _ _ _ | .brd _ _ _ | .join _ | .call _ _ _
  | .callIndirect _ _ _ | .ret _ _ | .exit _ | .yield _ | .brk _ _ | .tret _ | .nop _ | .fence _ _ _ | .fenceAsync _
  | .rinv _ _ | .wcnt _ _ _ | .rsb _ | .rse _ | .gsync _ _ | .pairedWord _ _ _ | .sweepIteration _ _ | .issueSelect _ _
  | .ldResultWrite _ _ _ | .xResultWrite _ _ _ | .tileWordPerform _ _ _ | .engineAccept _ _ | .engineDelivery _ _ _
  | .engineCommandEnd _ | .kvLockAcquire _ | .kvLockTimeout _ | .streamFetch _ _ | .graceSweep _ | .colourArrival _
  | .watchdogExpiry _ | .launchAdmit _ | .teamPlace _ _ _ _ _ | .noRoomTimeout _ _ _ | .classPreemptTimeout _ _ _
  | .preemptStop _ | .saveComplete _ | .teamRestore _ _ _ | .groupRestore _ _ _ | .faultRecordSend _ _ | .replyProcess _
  | .dataFrame _ | .ack _ | .nak _ | .ackTimer | .resyncRequest _ | .hello _ | .close _ | .sessionTimeout | .launch _
  | .wrap _ | .write _ | .read _ | .marker _ | .pcreate | .pdestroy | .qcfg | .qreset | .cancel | .rack | .attest
  | .dreset | .info | .peers | .dieReset _ | .linkTimeout _ | .meshTimeout _ | .responseArrival _ _ | .powerGood _
  | .powerLimit | .limitClear | .powerLoss | .remoteRequest _ | .accessPerformed _ _ => none
  | .vadd h _ _ _ _ | .vsub h _ _ _ _ | .vadds h _ _ _ _ _ | .vsubs h _ _ _ _ _ | .vmul h _ _ _ _ | .vmulh h _ _ _ _
  | .vmulhu h _ _ _ _ | .vmad h _ _ _ _ | .vand h _ _ _ | .vor h _ _ _ | .vxor h _ _ _ | .vandn h _ _ _
  | .vshl h _ _ _ _ | .vshr h _ _ _ _ | .vsra h _ _ _ _ | .vmin h _ _ _ _ | .vmax h _ _ _ _ | .vminu h _ _ _ _
  | .vmaxu h _ _ _ _ | .vabs h _ _ _ _ | .vsel h _ _ _ _ | .vcmp h _ _ _ _ | .vbfx h _ _ _ _ | .vbfi h _ _ _
  | .vfsh h _ _ _ _ | .vclz h _ _ _ | .vpopc h _ _ _ | .vbrev h _ _ _ | .vmov h _ _ | .vli h _ _ | .vdp4 h _ _ _ _ _ _
  | .fadd h _ _ _ _ _ | .fsub h _ _ _ _ _ | .fmul h _ _ _ _ _ | .ffma h _ _ _ _ _ _ | .fmin h _ _ _ | .fmax h _ _ _
  | .fcmp h _ _ _ _ | .frcp h _ _ | .frsq h _ _ | .fex2 h _ _ | .flg2 h _ _ | .fcvt h _ _ _ _ _ _ | .fpk h _ _ _ _ _ _ _
  | .funpk h _ _ _ _ | .vhad h _ _ _ | .hadd2 h _ _ _ _ _ | .hmul2 h _ _ _ _ _ | .hfma2 h _ _ _ _ _ _
  | .q8add h _ _ _ _ _ _ | .q8mul h _ _ _ _ _ _ | .vperm h _ _ _ | .vpush h _ _ _ | .vshfx h _ _ _ | .vshfu h _ _ _
  | .vshfd h _ _ _ | .vbcast h _ _ _ | .vbcastScalar h _ _ | .vred h _ _ _ | .vredVector h _ _ _ | .vscan h _ _ _
  | .vscanExcl h _ _ _ | .vballot h _ _ | .vfirst h _ _ | .pand h _ _ _ | .por h _ _ _ | .pxor h _ _ _ | .pnot h _ _
  | .pmov h _ _ | .pset h _ _ | .psetImm h _ _ | .lds h _ _ _ | .sts h _ _ _ | .ldg h _ _ _ | .stg h _ _ _
  | .ldr h _ _ _ | .ldc h _ _ _ | .stc h _ _ _ | .atom h _ _ _ _ _ | .atoms h _ _ _ _ _ | .red h _ _ _ _
  | .pf h _ _ _ _ _ | .phinit h _ _ | .phreg h _ _ _ | .phdrop h _ | .pharr h _ _ _ | .phwait h _ _ | .pharw h _ _ _
  | .twait h _ _ _ | .twaitY h _ _ _ _ | .ttest h _ _ _ | .dfree h _ _ | .tqpush h _ _ _ _ _ | .tqpop h _ _ _ _
  | .tqclose h _ _ | .tqcloseOpen h _ _ | .cpy h _ _ | .cpym h _ _ | .gath h _ _ | .scat h _ _ | .xsect h _ _
  | .sstr h _ _ | .spop h _ _ | .spopPred h _ _ _ | .sdrop h _ | .sfmt h _ | .sfmtSwap h _ _ | .enc h _ _ _ _
  | .dec h _ _ _ _ | .smm h _ _ _ _ _ _ | .smms h _ _ _ _ _ _ | .pmm h _ _ _ _ _ _ | .dmm h _ _ _ _ _ _ _ _
  | .qmm h _ _ _ _ _ _ _ | .tzero h _ | .tld h _ _ _ _ | .tst h _ _ _ _ _ | .tmov h _ _ _ | .tmovToTile h _ _
  | .tscl h _ _ | .tstat h _ _ _ | .rset h _ | .rot h _ _ _ _ | .kvld h _ _ | .kvapp h _ _ | .kvwr h _ _ | .kvtrim h _ _
  | .kvsplice h _ _ | .kvshift h _ _ | .btinv h _ _ | .smaxSoftmax h _ _ | .cred h _ _ _ _ | .csrr h _ _ | .csrw h _ _
  | .dbgr h _ _ _ | .dbgw h _ _ _ | .rtiResume h _ | .rtiEnd h _ | .rtiAbort h _ | .sysc h _ | .halt h _
  | .ctxsv h _ _ _ | .ctxld h _ _ _ | .tlbinv h _ _ _ _ | .bflip h _ _ _ _ | .pgcopy h _ _ _ _ | .vaddSweep h _ _ _ _
  | .vsubSweep h _ _ _ _ | .vaddsSweep h _ _ _ _ _ | .vsubsSweep h _ _ _ _ _ | .vmulSweep h _ _ _ _
  | .vmulhSweep h _ _ _ _ | .vmulhuSweep h _ _ _ _ | .vmadSweep h _ _ _ _ | .vandSweep h _ _ _ _ | .vorSweep h _ _ _ _
  | .vxorSweep h _ _ _ _ | .vandnSweep h _ _ _ _ | .vshlSweep h _ _ _ _ | .vshrSweep h _ _ _ _ | .vsraSweep h _ _ _ _
  | .vminSweep h _ _ _ _ | .vmaxSweep h _ _ _ _ | .vminuSweep h _ _ _ _ | .vmaxuSweep h _ _ _ _ | .vabsSweep h _ _ _ _
  | .vselSweep h _ _ _ _ | .vbfxSweep h _ _ _ _ | .vbfiSweep h _ _ _ _ | .vfshSweep h _ _ _ _ | .vclzSweep h _ _ _ _
  | .vpopcSweep h _ _ _ _ | .vbrevSweep h _ _ _ _ | .vmovSweep h _ _ _ _ | .faddSweep h _ _ _ _ | .fsubSweep h _ _ _ _
  | .fmulSweep h _ _ _ _ | .ffmaSweep h _ _ _ _ | .fminSweep h _ _ _ _ | .fmaxSweep h _ _ _ _ | .hadd2Sweep h _ _ _ _
  | .hmul2Sweep h _ _ _ _ | .hfma2Sweep h _ _ _ _ | .q8addSweep h _ _ _ _ | .q8mulSweep h _ _ _ _ => some h

/-- The park marker PK of a word (02 R57, R75). -/
def Instr.pk : Instr → Bool
  | .sadd pk _ _ _ | .ssub pk _ _ _ | .smul pk _ _ _ | .smulh pk _ _ _ | .smulhu pk _ _ _ | .sand pk _ _ _
  | .sor pk _ _ _ | .sxor pk _ _ _ | .sandn pk _ _ _ | .sshl pk _ _ _ | .sshr pk _ _ _ | .ssra pk _ _ _ | .smin pk _ _ _
  | .smax pk _ _ _ | .sminu pk _ _ _ | .smaxu pk _ _ _ | .sset pk _ _ _ _ | .ssel pk _ _ _ _ | .smov pk _ _
  | .sli pk _ _ | .slih pk _ _ | .sbfx pk _ _ _ _ _ | .sclz pk _ _ | .spopc pk _ _ | .srd pk _ _ | .srdVector pk _ _
  | .swr pk _ _ | .swc pk _ | .br pk _ | .brIndirect pk _ | .bz pk _ _ | .bnz pk _ _ | .bany pk _ _ | .ball pk _ _
  | .brd pk _ _ | .join pk | .call pk _ _ | .callIndirect pk _ _ | .ret pk _ | .exit pk | .yield pk | .brk pk _
  | .tret pk | .nop pk | .fence pk _ _ | .fenceAsync pk | .rinv pk _ | .wcnt pk _ _ | .rsb pk | .rse pk | .gsync pk _
  | .pairedWord pk _ _ => pk
  | .vadd h _ _ _ _ | .vsub h _ _ _ _ | .vadds h _ _ _ _ _ | .vsubs h _ _ _ _ _ | .vmul h _ _ _ _ | .vmulh h _ _ _ _
  | .vmulhu h _ _ _ _ | .vmad h _ _ _ _ | .vand h _ _ _ | .vor h _ _ _ | .vxor h _ _ _ | .vandn h _ _ _
  | .vshl h _ _ _ _ | .vshr h _ _ _ _ | .vsra h _ _ _ _ | .vmin h _ _ _ _ | .vmax h _ _ _ _ | .vminu h _ _ _ _
  | .vmaxu h _ _ _ _ | .vabs h _ _ _ _ | .vsel h _ _ _ _ | .vcmp h _ _ _ _ | .vbfx h _ _ _ _ | .vbfi h _ _ _
  | .vfsh h _ _ _ _ | .vclz h _ _ _ | .vpopc h _ _ _ | .vbrev h _ _ _ | .vmov h _ _ | .vli h _ _ | .vdp4 h _ _ _ _ _ _
  | .fadd h _ _ _ _ _ | .fsub h _ _ _ _ _ | .fmul h _ _ _ _ _ | .ffma h _ _ _ _ _ _ | .fmin h _ _ _ | .fmax h _ _ _
  | .fcmp h _ _ _ _ | .frcp h _ _ | .frsq h _ _ | .fex2 h _ _ | .flg2 h _ _ | .fcvt h _ _ _ _ _ _ | .fpk h _ _ _ _ _ _ _
  | .funpk h _ _ _ _ | .vhad h _ _ _ | .hadd2 h _ _ _ _ _ | .hmul2 h _ _ _ _ _ | .hfma2 h _ _ _ _ _ _
  | .q8add h _ _ _ _ _ _ | .q8mul h _ _ _ _ _ _ | .vperm h _ _ _ | .vpush h _ _ _ | .vshfx h _ _ _ | .vshfu h _ _ _
  | .vshfd h _ _ _ | .vbcast h _ _ _ | .vbcastScalar h _ _ | .vred h _ _ _ | .vredVector h _ _ _ | .vscan h _ _ _
  | .vscanExcl h _ _ _ | .vballot h _ _ | .vfirst h _ _ | .pand h _ _ _ | .por h _ _ _ | .pxor h _ _ _ | .pnot h _ _
  | .pmov h _ _ | .pset h _ _ | .psetImm h _ _ | .lds h _ _ _ | .sts h _ _ _ | .ldg h _ _ _ | .stg h _ _ _
  | .ldr h _ _ _ | .ldc h _ _ _ | .stc h _ _ _ | .atom h _ _ _ _ _ | .atoms h _ _ _ _ _ | .red h _ _ _ _
  | .pf h _ _ _ _ _ | .phinit h _ _ | .phreg h _ _ _ | .phdrop h _ | .pharr h _ _ _ | .phwait h _ _ | .pharw h _ _ _
  | .twait h _ _ _ | .twaitY h _ _ _ _ | .ttest h _ _ _ | .dfree h _ _ | .tqpush h _ _ _ _ _ | .tqpop h _ _ _ _
  | .tqclose h _ _ | .tqcloseOpen h _ _ | .cpy h _ _ | .cpym h _ _ | .gath h _ _ | .scat h _ _ | .xsect h _ _
  | .sstr h _ _ | .spop h _ _ | .spopPred h _ _ _ | .sdrop h _ | .sfmt h _ | .sfmtSwap h _ _ | .enc h _ _ _ _
  | .dec h _ _ _ _ | .smm h _ _ _ _ _ _ | .smms h _ _ _ _ _ _ | .pmm h _ _ _ _ _ _ | .dmm h _ _ _ _ _ _ _ _
  | .qmm h _ _ _ _ _ _ _ | .tzero h _ | .tld h _ _ _ _ | .tst h _ _ _ _ _ | .tmov h _ _ _ | .tmovToTile h _ _
  | .tscl h _ _ | .tstat h _ _ _ | .rset h _ | .rot h _ _ _ _ | .kvld h _ _ | .kvapp h _ _ | .kvwr h _ _ | .kvtrim h _ _
  | .kvsplice h _ _ | .kvshift h _ _ | .btinv h _ _ | .smaxSoftmax h _ _ | .cred h _ _ _ _ | .csrr h _ _ | .csrw h _ _
  | .dbgr h _ _ _ | .dbgw h _ _ _ | .rtiResume h _ | .rtiEnd h _ | .rtiAbort h _ | .sysc h _ | .halt h _
  | .ctxsv h _ _ _ | .ctxld h _ _ _ | .tlbinv h _ _ _ _ | .bflip h _ _ _ _ | .pgcopy h _ _ _ _ | .vaddSweep h _ _ _ _
  | .vsubSweep h _ _ _ _ | .vaddsSweep h _ _ _ _ _ | .vsubsSweep h _ _ _ _ _ | .vmulSweep h _ _ _ _
  | .vmulhSweep h _ _ _ _ | .vmulhuSweep h _ _ _ _ | .vmadSweep h _ _ _ _ | .vandSweep h _ _ _ _ | .vorSweep h _ _ _ _
  | .vxorSweep h _ _ _ _ | .vandnSweep h _ _ _ _ | .vshlSweep h _ _ _ _ | .vshrSweep h _ _ _ _ | .vsraSweep h _ _ _ _
  | .vminSweep h _ _ _ _ | .vmaxSweep h _ _ _ _ | .vminuSweep h _ _ _ _ | .vmaxuSweep h _ _ _ _ | .vabsSweep h _ _ _ _
  | .vselSweep h _ _ _ _ | .vbfxSweep h _ _ _ _ | .vbfiSweep h _ _ _ _ | .vfshSweep h _ _ _ _ | .vclzSweep h _ _ _ _
  | .vpopcSweep h _ _ _ _ | .vbrevSweep h _ _ _ _ | .vmovSweep h _ _ _ _ | .faddSweep h _ _ _ _ | .fsubSweep h _ _ _ _
  | .fmulSweep h _ _ _ _ | .ffmaSweep h _ _ _ _ | .fminSweep h _ _ _ _ | .fmaxSweep h _ _ _ _ | .hadd2Sweep h _ _ _ _
  | .hmul2Sweep h _ _ _ _ | .hfma2Sweep h _ _ _ _ | .q8addSweep h _ _ _ _ | .q8mulSweep h _ _ _ _ => h.pk
  | .sweepIteration _ _ | .issueSelect _ _ | .ldResultWrite _ _ _ | .xResultWrite _ _ _ | .tileWordPerform _ _ _
  | .engineAccept _ _ | .engineDelivery _ _ _ | .engineCommandEnd _ | .kvLockAcquire _ | .kvLockTimeout _
  | .streamFetch _ _ | .graceSweep _ | .colourArrival _ | .watchdogExpiry _ | .launchAdmit _ | .teamPlace _ _ _ _ _
  | .noRoomTimeout _ _ _ | .classPreemptTimeout _ _ _ | .preemptStop _ | .saveComplete _ | .teamRestore _ _ _
  | .groupRestore _ _ _ | .faultRecordSend _ _ | .replyProcess _ | .dataFrame _ | .ack _ | .nak _ | .ackTimer
  | .resyncRequest _ | .hello _ | .close _ | .sessionTimeout | .launch _ | .wrap _ | .write _ | .read _ | .marker _
  | .pcreate | .pdestroy | .qcfg | .qreset | .cancel | .rack | .attest | .dreset | .info | .peers | .dieReset _
  | .linkTimeout _ | .meshTimeout _ | .responseArrival _ _ | .powerGood _ | .powerLimit | .limitClear | .powerLoss
  | .remoteRequest _ | .accessPerformed _ _ => false

/-- The legality rules of a paired word that name both halves (02 R64): reasons 4, 6, 7, 8 and 9, the lowest first. -/
def pairReasons (h0 h1 : Half) : List Nat :=
  (if h0.hg > 12 || h1.hg > 12 then [4] else [])
    ++ (if h0.op.isMem && h1.op.isMem then [6] else [])
    ++ (if h0.writes.any (h1.writes.contains ·) then [7] else [])
    ++ (if h0.op.readsHS && h1.op.readsHS && h0.op.file = h1.op.file && h0.hs % 4 = h1.hs % 4 then [8] else [])
    ++ (if (h0.op.isClass0 && h0.hg ≠ 12) || (h1.op.isClass0 && h1.hg ≠ 12) then [9] else [])

/-- A register number lies within its file (02 R50, R51, R76 reason 10). Vector registers have 256 numbers. -/
def inFile : RF × Nat → Bool
  | (.s, n) => decide (n < 128)
  | (.v, n) => decide (n < 256)
  | (.p, n) => decide (n < 12)
  | (.t, n) => decide (n < 16)

/-- The registers of a word that reason 10 counts: every register of its fields, and every register of a class-6 range
(08 R258, 10 R319). The second register of a pair (07 R220, R221) and the range of `vhad` (06 R199) count for reason 11 only. -/
def Instr.fileRegs (i : Instr) : List (RF × Nat) :=
  match i with
  | .vhad h _ d a => [(.v, a), (.v, d)] ++ h.reads
  | .lds h m d a | .ldg h m d a | .ldr h m d a | .ldc h m d a =>
    addrRegs false m.am a ++ h.reads ++ dataRegs m.am .w d
  | .sts h m d a | .stg h m d a | .stc h m d a => addrRegs false m.am a ++ dataRegs m.am .w d ++ h.reads
  | .atom h m op d a b | .atoms h m op d a b =>
    addrRegs false m.am a ++ dataRegs m.am .w b ++ (if op = .cas then dataRegs m.am .w d else []) ++ h.reads ++ dataRegs m.am .w d
  | .red h m _ a b => addrRegs false m.am a ++ dataRegs m.am .w b ++ h.reads
  | .pf h _ am _ _ a => addrRegs false am a ++ h.reads
  | i => i.uses.r ++ i.uses.w

/-- Every register a word names lies within its file (02 R76 reason 10). -/
def Instr.regsOk (i : Instr) : Bool := i.fileRegs.all inFile

/-- An event (a row of the table that is no instruction word). -/
def Instr.isEvent : Instr → Bool
  | .sadd _ _ _ _ | .ssub _ _ _ _ | .smul _ _ _ _ | .smulh _ _ _ _ | .smulhu _ _ _ _ | .sand _ _ _ _ | .sor _ _ _ _
  | .sxor _ _ _ _ | .sandn _ _ _ _ | .sshl _ _ _ _ | .sshr _ _ _ _ | .ssra _ _ _ _ | .smin _ _ _ _ | .smax _ _ _ _
  | .sminu _ _ _ _ | .smaxu _ _ _ _ | .sset _ _ _ _ _ | .ssel _ _ _ _ _ | .smov _ _ _ | .sli _ _ _ | .slih _ _ _
  | .sbfx _ _ _ _ _ _ | .sclz _ _ _ | .spopc _ _ _ | .srd _ _ _ | .srdVector _ _ _ | .swr _ _ _ | .swc _ _ | .br _ _
  | .brIndirect _ _ | .bz _ _ _ | .bnz _ _ _ | .bany _ _ _ | .ball _ _ _ | .brd _ _ _ | .join _ | .call _ _ _
  | .callIndirect _ _ _ | .ret _ _ | .exit _ | .yield _ | .brk _ _ | .tret _ | .nop _ | .vadd _ _ _ _ _
  | .vsub _ _ _ _ _ | .vadds _ _ _ _ _ _ | .vsubs _ _ _ _ _ _ | .vmul _ _ _ _ _ | .vmulh _ _ _ _ _ | .vmulhu _ _ _ _ _
  | .vmad _ _ _ _ _ | .vand _ _ _ _ | .vor _ _ _ _ | .vxor _ _ _ _ | .vandn _ _ _ _ | .vshl _ _ _ _ _ | .vshr _ _ _ _ _
  | .vsra _ _ _ _ _ | .vmin _ _ _ _ _ | .vmax _ _ _ _ _ | .vminu _ _ _ _ _ | .vmaxu _ _ _ _ _ | .vabs _ _ _ _ _
  | .vsel _ _ _ _ _ | .vcmp _ _ _ _ _ | .vbfx _ _ _ _ _ | .vbfi _ _ _ _ | .vfsh _ _ _ _ _ | .vclz _ _ _ _
  | .vpopc _ _ _ _ | .vbrev _ _ _ _ | .vmov _ _ _ | .vli _ _ _ | .vdp4 _ _ _ _ _ _ _ | .fadd _ _ _ _ _ _
  | .fsub _ _ _ _ _ _ | .fmul _ _ _ _ _ _ | .ffma _ _ _ _ _ _ _ | .fmin _ _ _ _ | .fmax _ _ _ _ | .fcmp _ _ _ _ _
  | .frcp _ _ _ | .frsq _ _ _ | .fex2 _ _ _ | .flg2 _ _ _ | .fcvt _ _ _ _ _ _ _ | .fpk _ _ _ _ _ _ _ _
  | .funpk _ _ _ _ _ | .vhad _ _ _ _ | .hadd2 _ _ _ _ _ _ | .hmul2 _ _ _ _ _ _ | .hfma2 _ _ _ _ _ _ _
  | .q8add _ _ _ _ _ _ _ | .q8mul _ _ _ _ _ _ _ | .vperm _ _ _ _ | .vpush _ _ _ _ | .vshfx _ _ _ _ | .vshfu _ _ _ _
  | .vshfd _ _ _ _ | .vbcast _ _ _ _ | .vbcastScalar _ _ _ | .vred _ _ _ _ | .vredVector _ _ _ _ | .vscan _ _ _ _
  | .vscanExcl _ _ _ _ | .vballot _ _ _ | .vfirst _ _ _ | .pand _ _ _ _ | .por _ _ _ _ | .pxor _ _ _ _ | .pnot _ _ _
  | .pmov _ _ _ | .pset _ _ _ | .psetImm _ _ _ | .lds _ _ _ _ | .sts _ _ _ _ | .ldg _ _ _ _ | .stg _ _ _ _
  | .ldr _ _ _ _ | .ldc _ _ _ _ | .stc _ _ _ _ | .atom _ _ _ _ _ _ | .atoms _ _ _ _ _ _ | .red _ _ _ _ _ | .fence _ _ _
  | .fenceAsync _ | .rinv _ _ | .pf _ _ _ _ _ _ | .wcnt _ _ _ | .phinit _ _ _ | .phreg _ _ _ _ | .phdrop _ _
  | .pharr _ _ _ _ | .phwait _ _ _ | .pharw _ _ _ _ | .twait _ _ _ _ | .twaitY _ _ _ _ _ | .ttest _ _ _ _ | .rsb _
  | .rse _ | .gsync _ _ | .dfree _ _ _ | .tqpush _ _ _ _ _ _ | .tqpop _ _ _ _ _ | .tqclose _ _ _ | .tqcloseOpen _ _ _
  | .cpy _ _ _ | .cpym _ _ _ | .gath _ _ _ | .scat _ _ _ | .xsect _ _ _ | .sstr _ _ _ | .spop _ _ _ | .spopPred _ _ _ _
  | .sdrop _ _ | .sfmt _ _ | .sfmtSwap _ _ _ | .enc _ _ _ _ _ | .dec _ _ _ _ _ | .smm _ _ _ _ _ _ _
  | .smms _ _ _ _ _ _ _ | .pmm _ _ _ _ _ _ _ | .dmm _ _ _ _ _ _ _ _ _ | .qmm _ _ _ _ _ _ _ _ | .tzero _ _
  | .tld _ _ _ _ _ | .tst _ _ _ _ _ _ | .tmov _ _ _ _ | .tmovToTile _ _ _ | .tscl _ _ _ | .tstat _ _ _ _ | .rset _ _
  | .rot _ _ _ _ _ | .kvld _ _ _ | .kvapp _ _ _ | .kvwr _ _ _ | .kvtrim _ _ _ | .kvsplice _ _ _ | .kvshift _ _ _
  | .btinv _ _ _ | .smaxSoftmax _ _ _ | .cred _ _ _ _ _ | .csrr _ _ _ | .csrw _ _ _ | .dbgr _ _ _ _ | .dbgw _ _ _ _
  | .rtiResume _ _ | .rtiEnd _ _ | .rtiAbort _ _ | .sysc _ _ | .halt _ _ | .ctxsv _ _ _ _ | .ctxld _ _ _ _
  | .tlbinv _ _ _ _ _ | .bflip _ _ _ _ _ | .pgcopy _ _ _ _ _ | .pairedWord _ _ _ | .vaddSweep _ _ _ _ _
  | .vsubSweep _ _ _ _ _ | .vaddsSweep _ _ _ _ _ _ | .vsubsSweep _ _ _ _ _ _ | .vmulSweep _ _ _ _ _
  | .vmulhSweep _ _ _ _ _ | .vmulhuSweep _ _ _ _ _ | .vmadSweep _ _ _ _ _ | .vandSweep _ _ _ _ _ | .vorSweep _ _ _ _ _
  | .vxorSweep _ _ _ _ _ | .vandnSweep _ _ _ _ _ | .vshlSweep _ _ _ _ _ | .vshrSweep _ _ _ _ _ | .vsraSweep _ _ _ _ _
  | .vminSweep _ _ _ _ _ | .vmaxSweep _ _ _ _ _ | .vminuSweep _ _ _ _ _ | .vmaxuSweep _ _ _ _ _ | .vabsSweep _ _ _ _ _
  | .vselSweep _ _ _ _ _ | .vbfxSweep _ _ _ _ _ | .vbfiSweep _ _ _ _ _ | .vfshSweep _ _ _ _ _ | .vclzSweep _ _ _ _ _
  | .vpopcSweep _ _ _ _ _ | .vbrevSweep _ _ _ _ _ | .vmovSweep _ _ _ _ _ | .faddSweep _ _ _ _ _ | .fsubSweep _ _ _ _ _
  | .fmulSweep _ _ _ _ _ | .ffmaSweep _ _ _ _ _ | .fminSweep _ _ _ _ _ | .fmaxSweep _ _ _ _ _ | .hadd2Sweep _ _ _ _ _
  | .hmul2Sweep _ _ _ _ _ | .hfma2Sweep _ _ _ _ _ | .q8addSweep _ _ _ _ _ | .q8mulSweep _ _ _ _ _ => false
  | .sweepIteration _ _ | .issueSelect _ _ | .ldResultWrite _ _ _ | .xResultWrite _ _ _ | .tileWordPerform _ _ _
  | .engineAccept _ _ | .engineDelivery _ _ _ | .engineCommandEnd _ | .kvLockAcquire _ | .kvLockTimeout _
  | .streamFetch _ _ | .graceSweep _ | .colourArrival _ | .watchdogExpiry _ | .launchAdmit _ | .teamPlace _ _ _ _ _
  | .noRoomTimeout _ _ _ | .classPreemptTimeout _ _ _ | .preemptStop _ | .saveComplete _ | .teamRestore _ _ _
  | .groupRestore _ _ _ | .faultRecordSend _ _ | .replyProcess _ | .dataFrame _ | .ack _ | .nak _ | .ackTimer
  | .resyncRequest _ | .hello _ | .close _ | .sessionTimeout | .launch _ | .wrap _ | .write _ | .read _ | .marker _
  | .pcreate | .pdestroy | .qcfg | .qreset | .cancel | .rack | .attest | .dreset | .info | .peers | .dieReset _
  | .linkTimeout _ | .meshTimeout _ | .responseArrival _ _ | .powerGood _ | .powerLimit | .limitClear | .powerLoss
  | .remoteRequest _ | .accessPerformed _ _ => true

end Sys2Proof
end

