-- ==== Sys2Proof/WellFormed.lean ====
section
/-! DEFINITION. Well-formed instructions: those that some legal word of the spec encodes. Four checks: the numbers fit their
places (`shape`), the guard is no reserved one (02 R57), every register lies within its file (02 R50, R51, R76 reason 10), and
every operand value lies within the limits of the entry (reason 12). What depends on the group that issues the word (its
allocation, its width, its level) is checked when the word issues (02 R49, R76 reasons 11, 13, 14). -/

namespace Sys2Proof

/-- GP is 0 to 12 (02 R57, R76 reason 4). -/
def Instr.guardOk (i : Instr) : Bool :=
  match i.hdr? with
  | some h => decide (h.gp ≤ 12)
  | none => true

/-- The halves of a paired word keep the rules of 02 R64. -/
def Instr.pairOk : Instr → Bool
  | .pairedWord _ h0 h1 => (pairReasons h0 h1).isEmpty
  | _ => true

/-- A well-formed instruction. -/
def Instr.wf (i : Instr) : Bool :=
  !i.isEvent && i.shape && i.guardOk && i.regsOk && i.limits && i.pairOk

/-- A well-formed instruction, as a proposition. -/
abbrev WellFormed (i : Instr) : Prop := i.wf = true

end Sys2Proof
end

