-- ==== Sys2Proof/Decode.lean ====
section
/-! DEFINITION. The decoder, total on any word (02 R57 to R76), and the encoder written from the same tables. `decodeRow` gives
for each assigned opcode the instruction its fields name, whether a reserved field is set (reason 3), and whether a field
holds a code outside its column (reason 12); `decode` answers the instruction or the lowest reason of R76 that the word
alone decides. Reasons 11, 13 and 14 depend on the group that issues the word (Machine/Ops.lean). -/

namespace Sys2Proof

/-- The code of a `Width` in the word. -/
def Width.code : Width → Nat
  | .b => 0
  | .h => 1
  | .w => 2
  | .d => 3

/-- The `Width` of a code; a code without one is caught by the limit beside it. -/
def Width.ofCode : Nat → Width
  | 0 => .b
  | 1 => .h
  | 2 => .w
  | _ => .d

/-- The code of a `Rnd` in the word. -/
def Rnd.code : Rnd → Nat
  | .rne => 0
  | .rz => 1
  | .ru => 2
  | .rd => 3

/-- The `Rnd` of a code; a code without one is caught by the limit beside it. -/
def Rnd.ofCode : Nat → Rnd
  | 0 => .rne
  | 1 => .rz
  | 2 => .ru
  | _ => .rd

/-- The code of a `Scope` in the word. -/
def Scope.code : Scope → Nat
  | .ln => 0
  | .gp => 1
  | .tm => 2
  | .cl => 3
  | .die => 4
  | .dev => 5
  | .sys => 6

/-- The `Scope` of a code; a code without one is caught by the limit beside it. -/
def Scope.ofCode : Nat → Scope
  | 0 => .ln
  | 1 => .gp
  | 2 => .tm
  | 3 => .cl
  | 4 => .die
  | 5 => .dev
  | _ => .sys

/-- The code of a `Order` in the word. -/
def Order.code : Order → Nat
  | .rlx => 0
  | .acq => 1
  | .rel => 2
  | .ar => 3

/-- The `Order` of a code; a code without one is caught by the limit beside it. -/
def Order.ofCode : Nat → Order
  | 0 => .rlx
  | 1 => .acq
  | 2 => .rel
  | _ => .ar

/-- The code of a `Ty` in the word. -/
def Ty.code : Ty → Nat
  | .f32 => 0
  | .bf16 => 1
  | .e4m3 => 2
  | .e5m2 => 3
  | .e2m1 => 4
  | .l3 => 5
  | .l4 => 6
  | .i8 => 7
  | .i32 => 8

/-- The `Ty` of a code; a code without one is caught by the limit beside it. -/
def Ty.ofCode : Nat → Ty
  | 0 => .f32
  | 1 => .bf16
  | 2 => .e4m3
  | 3 => .e5m2
  | 4 => .e2m1
  | 5 => .l3
  | 6 => .l4
  | 7 => .i8
  | _ => .i32

/-- The code of a `AMode` in the word. -/
def AMode.code : AMode → Nat
  | .contig => 0
  | .lane => 1
  | .uniform => 2

/-- The `AMode` of a code. R220 gives AM = 3 no form: the limit beside it catches it, its register fields are those of the uniform form (log entry
101). -/
def AMode.ofCode : Nat → AMode
  | 0 => .contig
  | 1 => .lane
  | _ => .uniform

/-- The code of a `ICond` in the word. -/
def ICond.code : ICond → Nat
  | .eq => 0
  | .ne => 1
  | .lt => 2
  | .le => 3
  | .gt => 4
  | .ge => 5
  | .ltu => 6
  | .leu => 7
  | .gtu => 8
  | .geu => 9

/-- The `ICond` of a code; a code without one is caught by the limit beside it. -/
def ICond.ofCode : Nat → ICond
  | 0 => .eq
  | 1 => .ne
  | 2 => .lt
  | 3 => .le
  | 4 => .gt
  | 5 => .ge
  | 6 => .ltu
  | 7 => .leu
  | 8 => .gtu
  | _ => .geu

/-- The code of a `FCond` in the word. -/
def FCond.code : FCond → Nat
  | .eq => 0
  | .ne => 1
  | .lt => 2
  | .le => 3
  | .gt => 4
  | .ge => 5
  | .un => 6
  | .ord => 7

/-- The `FCond` of a code; a code without one is caught by the limit beside it. -/
def FCond.ofCode : Nat → FCond
  | 0 => .eq
  | 1 => .ne
  | 2 => .lt
  | 3 => .le
  | 4 => .gt
  | 5 => .ge
  | 6 => .un
  | _ => .ord

/-- The code of a `AOp` in the word. -/
def AOp.code : AOp → Nat
  | .add => 0
  | .min => 1
  | .max => 2
  | .minu => 3
  | .maxu => 4
  | .and => 5
  | .or => 6
  | .xor => 7
  | .exch => 8
  | .cas => 9
  | .fadd => 10
  | .fmin => 11
  | .fmax => 12

/-- The `AOp` of a code; a code without one is caught by the limit beside it. -/
def AOp.ofCode : Nat → AOp
  | 0 => .add
  | 1 => .min
  | 2 => .max
  | 3 => .minu
  | 4 => .maxu
  | 5 => .and
  | 6 => .or
  | 7 => .xor
  | 8 => .exch
  | 9 => .cas
  | 10 => .fadd
  | 11 => .fmin
  | _ => .fmax

/-- The code of a `ROp` in the word. -/
def ROp.code : ROp → Nat
  | .add => 0
  | .min => 1
  | .max => 2
  | .minu => 3
  | .maxu => 4
  | .and => 5
  | .or => 6
  | .xor => 7
  | .fadd => 8
  | .fmin => 9
  | .fmax => 10

/-- The `ROp` of a code; a code without one is caught by the limit beside it. -/
def ROp.ofCode : Nat → ROp
  | 0 => .add
  | 1 => .min
  | 2 => .max
  | 3 => .minu
  | 4 => .maxu
  | 5 => .and
  | 6 => .or
  | 7 => .xor
  | 8 => .fadd
  | 9 => .fmin
  | _ => .fmax

/-- The code of a `RCls` in the word. -/
def RCls.code : RCls → Nat
  | .ld => 0
  | .tile => 1
  | .x => 2

/-- The `RCls` of a code; a code without one is caught by the limit beside it. -/
def RCls.ofCode : Nat → RCls
  | 0 => .ld
  | 1 => .tile
  | _ => .x

/-- The code of a `PhMode` in the word. -/
def PhMode.code : PhMode → Nat
  | .sig => 0
  | .wait => 1
  | .sigwait => 2

/-- The `PhMode` of a code; a code without one is caught by the limit beside it. -/
def PhMode.ofCode : Nat → PhMode
  | 0 => .sig
  | 1 => .wait
  | _ => .sigwait

/-- The code of a half operation (02 R63). -/
def HOp.code : HOp → Nat
  | .nop => 0x00
  | .sadd => 0x01
  | .ssub => 0x02
  | .sand => 0x03
  | .sor => 0x04
  | .sxor => 0x05
  | .sshl => 0x06
  | .sshr => 0x07
  | .smov => 0x08
  | .sli => 0x09
  | .saddi => 0x0a
  | .vadd => 0x10
  | .vsub => 0x11
  | .vand => 0x12
  | .vor => 0x13
  | .vxor => 0x14
  | .vmin => 0x15
  | .vmax => 0x16
  | .vmov => 0x17
  | .vshl => 0x18
  | .vshr => 0x19
  | .vsra => 0x1a
  | .vli => 0x1b
  | .vaddi => 0x1c
  | .fadd => 0x20
  | .fsub => 0x21
  | .fmul => 0x22
  | .fmin => 0x23
  | .fmax => 0x24
  | .hadd2 => 0x25
  | .hmul2 => 0x26
  | .pand => 0x30
  | .por => 0x31
  | .pxor => 0x32
  | .pnot => 0x33
  | .pmov => 0x34
  | .lds => 0x40
  | .sts => 0x41

/-- The half operation of a code, none where the code is unassigned (02 R63). -/
def HOp.ofCode : Nat → Option HOp
  | 0x00 => some .nop
  | 0x01 => some .sadd
  | 0x02 => some .ssub
  | 0x03 => some .sand
  | 0x04 => some .sor
  | 0x05 => some .sxor
  | 0x06 => some .sshl
  | 0x07 => some .sshr
  | 0x08 => some .smov
  | 0x09 => some .sli
  | 0x0a => some .saddi
  | 0x10 => some .vadd
  | 0x11 => some .vsub
  | 0x12 => some .vand
  | 0x13 => some .vor
  | 0x14 => some .vxor
  | 0x15 => some .vmin
  | 0x16 => some .vmax
  | 0x17 => some .vmov
  | 0x18 => some .vshl
  | 0x19 => some .vshr
  | 0x1a => some .vsra
  | 0x1b => some .vli
  | 0x1c => some .vaddi
  | 0x20 => some .fadd
  | 0x21 => some .fsub
  | 0x22 => some .fmul
  | 0x23 => some .fmin
  | 0x24 => some .fmax
  | 0x25 => some .hadd2
  | 0x26 => some .hmul2
  | 0x30 => some .pand
  | 0x31 => some .por
  | 0x32 => some .pxor
  | 0x33 => some .pnot
  | 0x34 => some .pmov
  | 0x40 => some .lds
  | 0x41 => some .sts
  | _ => none

/-- The fields of a full-form word (02 R57). -/
structure Fields where
  x : Nat
  b : Nat
  a : Nat
  d : Nat
  gp : Nat
  gn : Bool
  opc : Nat
  pk : Bool
  deriving DecidableEq, Repr

/-- The fields of a word whose DU is 0 (02 R57). -/
def unpack (w : Nat) : Fields :=
  { x := bits w 0 24, b := bits w 24 8, a := bits w 32 8, d := bits w 40 8, gp := bits w 48 4, gn := bit w 52,
    opc := bits w 53 9, pk := bit w 63 }

/-- The word of a field record (02 R57), DU = 0. -/
def pack (f : Fields) : Nat :=
  f.x + 2 ^ 24 * f.b + 2 ^ 32 * f.a + 2 ^ 40 * f.d + 2 ^ 48 * f.gp + 2 ^ 52 * b2n f.gn + 2 ^ 53 * f.opc + 2 ^ 63 * b2n f.pk

namespace Fields
/-- Guard and park marker. -/
def hdr (f : Fields) : Hdr := ⟨f.gp, f.gn, f.pk⟩
/-- C, X bits 0 to 7 (02 R61). -/
def C (f : Fields) : Nat := bits f.x 0 8
/-- WD (02 R61). -/
def WD (f : Fields) : Width := .ofCode (bits f.x 8 2)
/-- WD is not `.w`. -/
def notW (f : Fields) : Bool := bits f.x 8 2 != 2
/-- SX (02 R61). -/
def SX (f : Fields) : Bool := bit f.x 10
/-- ST (02 R61). -/
def ST (f : Fields) : Bool := bit f.x 11
/-- RM (02 R61). -/
def RM (f : Fields) : Nat := bits f.x 12 2
/-- RM as a rounding mode. -/
def rnd (f : Fields) : Rnd := .ofCode f.RM
/-- SCP (02 R61). -/
def SCP (f : Fields) : Nat := bits f.x 14 3
/-- SCP as a scope. -/
def scope (f : Fields) : Scope := .ofCode f.SCP
/-- SCP 7 is no scope (02 R61, R76 reason 12). -/
def scp7 (f : Fields) : Bool := f.SCP == 7
/-- ORD (02 R61). -/
def ORD (f : Fields) : Nat := bits f.x 17 2
/-- ORD as an order. -/
def order (f : Fields) : Order := .ofCode f.ORD
/-- TY (02 R61). -/
def TY (f : Fields) : Nat := bits f.x 19 4
/-- TY as a type. -/
def ty (f : Fields) : Ty := .ofCode f.TY
/-- TA of class 6 (08 R257). -/
def TA (f : Fields) : Nat := bits f.x 12 4
/-- X bit 23: G, IM, VD and others, per entry. -/
def G (f : Fields) : Bool := bit f.x 23
/-- A branch offset, X bits 0 to 22 (06 R177). -/
def off (f : Fields) : BitVec 23 := .ofNat 23 f.x
/-- AM (07 R219). -/
def AM (f : Fields) : Nat := bits f.x 11 2
/-- AM as an address mode. -/
def amode (f : Fields) : AMode := .ofCode f.AM
/-- The X and B subfields of a load or store (07 R219). -/
def mem (f : Fields) : Mem := ⟨f.WD, f.SX, f.amode, f.scope, f.order, .ofNat 16 (f.b * 256 + f.C)⟩
/-- The X subfields of an atomic (07 R229). -/
def amo (f : Fields) : Amo := ⟨f.WD, f.amode, f.scope, f.order⟩
/-- Reserved bits of class 1 (06 R169). -/
def rsv1 (f : Fields) : Bool := bits f.x 12 11 != 0
/-- Reserved bits of class 2 (06 R170). -/
def rsv2 (f : Fields) : Bool := bits f.x 8 3 != 0 || bits f.x 14 5 != 0 || f.G
/-- Reserved bits of the loads, stores and atomics (07 R219). -/
def rsv4 (f : Fields) : Bool := bit f.x 13 || bits f.x 19 5 != 0
/-- Reserved bits of class 6 (08 R257). -/
def rsv6 (f : Fields) : Bool := bits f.x 8 3 != 0 || bits f.x 16 3 != 0
/-- Any guard but GP = 12 and GN = 0 (06 R172, 07 R227, R228, R233). -/
def guarded (f : Fields) : Bool := f.gp != 12 || f.gn
end Fields

/-- What the fields of an assigned opcode say: a reserved field set, a code outside its column, the instruction named. -/
structure Row where
  rsv : Bool
  lim : Bool
  instr : Instr
  deriving DecidableEq, Repr

/-- The scalar ALU words (06 R172). -/
def rowAlu (f : Fields) (k : SSrc → Instr) : Option Row :=
  if f.G then some ⟨f.b != 0 || bits f.x 19 4 != 0, false, k (.imm (.ofNat 19 f.x))⟩
  else some ⟨bits f.x 0 23 != 0, false, k (.reg f.b)⟩

/-- The class-1 words with a register and an immediate form (06 R169); `lim`: an unused modifier is set. -/
def rowV (f : Fields) (lim : Bool) (k : VSrc → Instr) : Option Row :=
  if f.G then some ⟨f.rsv1 || f.b != 0, lim, k (.imm (.ofNat 8 f.C))⟩
  else some ⟨f.rsv1 || f.C != 0, lim, k (.reg f.b)⟩

/-- Opcodes of class 0 (02 R69), by OPC bits 0 to 5. -/
def rowClass0 (f : Fields) (k : Nat) : Option Row :=
  match k with
  | 0x00 => rowAlu f (.sadd f.pk f.d f.a)
  | 0x01 => rowAlu f (.ssub f.pk f.d f.a)
  | 0x02 => rowAlu f (.smul f.pk f.d f.a)
  | 0x03 => rowAlu f (.smulh f.pk f.d f.a)
  | 0x04 => rowAlu f (.smulhu f.pk f.d f.a)
  | 0x05 => rowAlu f (.sand f.pk f.d f.a)
  | 0x06 => rowAlu f (.sor f.pk f.d f.a)
  | 0x07 => rowAlu f (.sxor f.pk f.d f.a)
  | 0x08 => rowAlu f (.sandn f.pk f.d f.a)
  | 0x09 => rowAlu f (.sshl f.pk f.d f.a)
  | 0x0a => rowAlu f (.sshr f.pk f.d f.a)
  | 0x0b => rowAlu f (.ssra f.pk f.d f.a)
  | 0x0c => rowAlu f (.smin f.pk f.d f.a)
  | 0x0d => rowAlu f (.smax f.pk f.d f.a)
  | 0x0e => rowAlu f (.sminu f.pk f.d f.a)
  | 0x0f => rowAlu f (.smaxu f.pk f.d f.a)
  | 0x10 => some ⟨bits f.x 4 20 != 0, 10 ≤ bits f.x 0 4, .sset f.pk f.d f.a f.b (.ofCode (bits f.x 0 4))⟩
  | 0x11 => some ⟨bits f.x 7 17 != 0, false, .ssel f.pk f.d f.a f.b (bits f.x 0 7)⟩
  | 0x12 => some ⟨f.b != 0 || f.x != 0, false, .smov f.pk f.d f.a⟩
  | 0x13 => some ⟨false, false, .sli f.pk f.d (.ofNat 40 (f.x + 2 ^ 24 * f.b + 2 ^ 32 * f.a))⟩
  | 0x14 => some ⟨f.a != 0, false, .slih f.pk f.d (.ofNat 32 (f.x + 2 ^ 24 * f.b))⟩
  | 0x15 => some ⟨bits f.x 6 4 != 0 || bits f.x 11 13 != 0, false, .sbfx f.pk f.d f.a (bits f.x 0 6) f.b (bit f.x 10)⟩
  | 0x16 => some ⟨f.b != 0 || f.x != 0, false, .sclz f.pk f.d f.a⟩
  | 0x17 => some ⟨f.b != 0 || f.x != 0, false, .spopc f.pk f.d f.a⟩
  | 0x18 =>
    some ⟨f.a != 0 || f.b != 0 || bits f.x 9 15 != 0, false, if bit f.x 8 then .srdVector f.pk f.d f.C else .srd f.pk f.d f.C⟩
  | 0x19 => some ⟨f.d != 0 || f.b != 0 || bits f.x 8 16 != 0, false, .swr f.pk f.C f.a⟩
  | 0x1a => some ⟨f.d != 0 || f.b != 0 || f.x != 0, false, .swc f.pk f.a⟩
  | 0x20 =>
    if f.G then some ⟨f.d != 0 || f.b != 0 || bits f.x 0 23 != 0, false, .brIndirect f.pk f.a⟩ else some ⟨f.d != 0 || f.a != 0 || f.b != 0, false, .br f.pk f.off⟩
  | 0x21 => some ⟨f.d != 0 || f.b != 0 || f.G, false, .bz f.pk f.a f.off⟩
  | 0x22 => some ⟨f.d != 0 || f.b != 0 || f.G, false, .bnz f.pk f.a f.off⟩
  | 0x23 => some ⟨f.d != 0 || f.b != 0 || f.G, false, .bany f.pk f.a f.off⟩
  | 0x24 => some ⟨f.d != 0 || f.b != 0 || f.G, false, .ball f.pk f.a f.off⟩
  | 0x25 => some ⟨f.d != 0 || f.b != 0 || f.G, false, .brd f.pk f.a f.off⟩
  | 0x26 => some ⟨f.d != 0 || f.a != 0 || f.b != 0 || f.x != 0, false, .join f.pk⟩
  | 0x27 =>
    if f.G then some ⟨f.b != 0 || bits f.x 0 23 != 0, false, .callIndirect f.pk f.d f.a⟩ else some ⟨f.a != 0 || f.b != 0, false, .call f.pk f.d f.off⟩
  | 0x28 => some ⟨f.d != 0 || f.b != 0 || f.x != 0, false, .ret f.pk f.a⟩
  | 0x29 => some ⟨f.d != 0 || f.a != 0 || f.b != 0 || f.x != 0, false, .exit f.pk⟩
  | 0x2a => some ⟨f.d != 0 || f.a != 0 || f.b != 0 || f.x != 0, false, .yield f.pk⟩
  | 0x2b => some ⟨f.d != 0 || f.a != 0 || f.b != 0 || bits f.x 16 8 != 0, false, .brk f.pk (.ofNat 16 f.x)⟩
  | 0x2c => some ⟨f.d != 0 || f.a != 0 || f.b != 0 || f.x != 0, false, .tret f.pk⟩
  | 0x2d => some ⟨f.d != 0 || f.a != 0 || f.b != 0 || f.x != 0, false, .nop f.pk⟩
  | _ => none

/-- Opcodes of class 1 (02 R69, R71), by OPC bits 0 to 5. -/
def rowClass1 (f : Fields) (k : Nat) : Option Row :=
  match k with
  | 0x00 => rowV f (f.SX || f.ST) (.vadd f.hdr f.WD f.d f.a)
  | 0x01 => rowV f (f.SX || f.ST) (.vsub f.hdr f.WD f.d f.a)
  | 0x02 => rowV f f.ST (.vadds f.hdr f.WD f.SX f.d f.a)
  | 0x03 => rowV f f.ST (.vsubs f.hdr f.WD f.SX f.d f.a)
  | 0x04 => rowV f (f.SX || f.ST) (.vmul f.hdr f.WD f.d f.a)
  | 0x05 => rowV f (f.SX || f.ST) (.vmulh f.hdr f.WD f.d f.a)
  | 0x06 => rowV f (f.SX || f.ST) (.vmulhu f.hdr f.WD f.d f.a)
  | 0x07 => some ⟨f.rsv1 || f.G, f.SX || f.ST || f.notW, .vmad f.hdr f.d f.a f.b f.C⟩
  | 0x08 => rowV f (f.SX || f.ST || f.notW) (.vand f.hdr f.d f.a)
  | 0x09 => rowV f (f.SX || f.ST || f.notW) (.vor f.hdr f.d f.a)
  | 0x0a => rowV f (f.SX || f.ST || f.notW) (.vxor f.hdr f.d f.a)
  | 0x0b => rowV f (f.SX || f.ST || f.notW) (.vandn f.hdr f.d f.a)
  | 0x0c => rowV f (f.SX || f.ST) (.vshl f.hdr f.WD f.d f.a)
  | 0x0d => rowV f (f.SX || f.ST) (.vshr f.hdr f.WD f.d f.a)
  | 0x0e => rowV f (f.SX || f.ST) (.vsra f.hdr f.WD f.d f.a)
  | 0x0f => rowV f (f.SX || f.ST) (.vmin f.hdr f.WD f.d f.a)
  | 0x10 => rowV f (f.SX || f.ST) (.vmax f.hdr f.WD f.d f.a)
  | 0x11 => rowV f (f.SX || f.ST) (.vminu f.hdr f.WD f.d f.a)
  | 0x12 => rowV f (f.SX || f.ST) (.vmaxu f.hdr f.WD f.d f.a)
  | 0x13 => some ⟨f.rsv1 || f.G || f.b != 0 || f.C != 0, f.SX, .vabs f.hdr f.WD f.ST f.d f.a⟩
  | 0x14 => some ⟨f.rsv1 || f.G, f.SX || f.ST || f.notW, .vsel f.hdr f.d f.a f.b f.C⟩
  | 0x15 =>
    some ⟨f.rsv1 || f.G || bits f.x 4 4 != 0, f.SX || f.ST || f.notW || 10 ≤ bits f.x 0 4, .vcmp f.hdr f.d f.a f.b (.ofCode (bits f.x 0 4))⟩
  | 0x16 => some ⟨f.rsv1 || f.G || f.C != 0, f.ST || f.notW, .vbfx f.hdr f.SX f.d f.a f.b⟩
  | 0x17 => some ⟨f.rsv1 || f.G || f.C != 0, f.SX || f.ST || f.notW, .vbfi f.hdr f.d f.a f.b⟩
  | 0x18 => some ⟨f.rsv1 || f.G, f.SX || f.ST || f.notW, .vfsh f.hdr f.d f.a f.b f.C⟩
  | 0x19 => some ⟨f.rsv1 || f.G || f.b != 0 || f.C != 0, f.SX || f.ST, .vclz f.hdr f.WD f.d f.a⟩
  | 0x1a => some ⟨f.rsv1 || f.G || f.b != 0 || f.C != 0, f.SX || f.ST, .vpopc f.hdr f.WD f.d f.a⟩
  | 0x1b => some ⟨f.rsv1 || f.G || f.b != 0 || f.C != 0, f.SX || f.ST, .vbrev f.hdr f.WD f.d f.a⟩
  | 0x1c => some ⟨f.rsv1 || f.G || f.b != 0 || f.C != 0, f.SX || f.ST || f.notW, .vmov f.hdr f.d f.a⟩
  | 0x1d => some ⟨f.a != 0, false, .vli f.hdr f.d (.ofNat 32 (f.x + 2 ^ 24 * f.b))⟩
  | 0x1e => some ⟨f.rsv1 || f.G, f.notW, .vdp4 f.hdr f.SX f.ST f.d f.a f.b f.C⟩
  | 0x20 => some ⟨bits f.x 12 12 != 0, false, .vaddSweep f.hdr f.d f.a f.b (bits f.x 0 12)⟩
  | 0x21 => some ⟨bits f.x 12 12 != 0, false, .vsubSweep f.hdr f.d f.a f.b (bits f.x 0 12)⟩
  | 0x22 => some ⟨bits f.x 12 11 != 0, false, .vaddsSweep f.hdr f.G f.d f.a f.b (bits f.x 0 12)⟩
  | 0x23 => some ⟨bits f.x 12 11 != 0, false, .vsubsSweep f.hdr f.G f.d f.a f.b (bits f.x 0 12)⟩
  | 0x24 => some ⟨bits f.x 12 12 != 0, false, .vmulSweep f.hdr f.d f.a f.b (bits f.x 0 12)⟩
  | 0x25 => some ⟨bits f.x 12 12 != 0, false, .vmulhSweep f.hdr f.d f.a f.b (bits f.x 0 12)⟩
  | 0x26 => some ⟨bits f.x 12 12 != 0, false, .vmulhuSweep f.hdr f.d f.a f.b (bits f.x 0 12)⟩
  | 0x27 => some ⟨bits f.x 12 12 != 0, false, .vmadSweep f.hdr f.d f.a f.b (bits f.x 0 12)⟩
  | 0x28 => some ⟨bits f.x 12 12 != 0, false, .vandSweep f.hdr f.d f.a f.b (bits f.x 0 12)⟩
  | 0x29 => some ⟨bits f.x 12 12 != 0, false, .vorSweep f.hdr f.d f.a f.b (bits f.x 0 12)⟩
  | 0x2a => some ⟨bits f.x 12 12 != 0, false, .vxorSweep f.hdr f.d f.a f.b (bits f.x 0 12)⟩
  | 0x2b => some ⟨bits f.x 12 12 != 0, false, .vandnSweep f.hdr f.d f.a f.b (bits f.x 0 12)⟩
  | 0x2c => some ⟨bits f.x 12 12 != 0, false, .vshlSweep f.hdr f.d f.a f.b (bits f.x 0 12)⟩
  | 0x2d => some ⟨bits f.x 12 12 != 0, false, .vshrSweep f.hdr f.d f.a f.b (bits f.x 0 12)⟩
  | 0x2e => some ⟨bits f.x 12 12 != 0, false, .vsraSweep f.hdr f.d f.a f.b (bits f.x 0 12)⟩
  | 0x2f => some ⟨bits f.x 12 12 != 0, false, .vminSweep f.hdr f.d f.a f.b (bits f.x 0 12)⟩
  | 0x30 => some ⟨bits f.x 12 12 != 0, false, .vmaxSweep f.hdr f.d f.a f.b (bits f.x 0 12)⟩
  | 0x31 => some ⟨bits f.x 12 12 != 0, false, .vminuSweep f.hdr f.d f.a f.b (bits f.x 0 12)⟩
  | 0x32 => some ⟨bits f.x 12 12 != 0, false, .vmaxuSweep f.hdr f.d f.a f.b (bits f.x 0 12)⟩
  | 0x33 => some ⟨f.b != 0 || bits f.x 12 12 != 0, false, .vabsSweep f.hdr f.d f.a f.b (bits f.x 0 12)⟩
  | 0x34 => some ⟨bits f.x 12 12 != 0, false, .vselSweep f.hdr f.d f.a f.b (bits f.x 0 12)⟩
  | 0x36 => some ⟨bits f.x 12 12 != 0, false, .vbfxSweep f.hdr f.d f.a f.b (bits f.x 0 12)⟩
  | 0x37 => some ⟨bits f.x 12 12 != 0, false, .vbfiSweep f.hdr f.d f.a f.b (bits f.x 0 12)⟩
  | 0x38 => some ⟨bits f.x 12 12 != 0, false, .vfshSweep f.hdr f.d f.a f.b (bits f.x 0 12)⟩
  | 0x39 => some ⟨f.b != 0 || bits f.x 12 12 != 0, false, .vclzSweep f.hdr f.d f.a f.b (bits f.x 0 12)⟩
  | 0x3a => some ⟨f.b != 0 || bits f.x 12 12 != 0, false, .vpopcSweep f.hdr f.d f.a f.b (bits f.x 0 12)⟩
  | 0x3b => some ⟨f.b != 0 || bits f.x 12 12 != 0, false, .vbrevSweep f.hdr f.d f.a f.b (bits f.x 0 12)⟩
  | 0x3c => some ⟨f.b != 0 || bits f.x 12 12 != 0, false, .vmovSweep f.hdr f.d f.a f.b (bits f.x 0 12)⟩
  | _ => none

/-- Opcodes of class 2 (02 R69, R71), by OPC bits 0 to 5. A nonzero ST, RM or TY of `frcp`, `frsq`, `fex2` and `flg2` has reason 12 (log entry 109). -/
def rowClass2 (f : Fields) (k : Nat) : Option Row :=
  match k with
  | 0x00 => some ⟨f.rsv2 || f.C != 0, f.TY != 0, .fadd f.hdr f.ST f.rnd f.d f.a f.b⟩
  | 0x01 => some ⟨f.rsv2 || f.C != 0, f.TY != 0, .fsub f.hdr f.ST f.rnd f.d f.a f.b⟩
  | 0x02 => some ⟨f.rsv2 || f.C != 0, f.TY != 0, .fmul f.hdr f.ST f.rnd f.d f.a f.b⟩
  | 0x03 => some ⟨f.rsv2, f.TY != 0, .ffma f.hdr f.ST f.rnd f.d f.a f.b f.C⟩
  | 0x04 => some ⟨f.rsv2 || f.C != 0, f.ST || f.RM != 0 || f.TY != 0, .fmin f.hdr f.d f.a f.b⟩
  | 0x05 => some ⟨f.rsv2 || f.C != 0, f.ST || f.RM != 0 || f.TY != 0, .fmax f.hdr f.d f.a f.b⟩
  | 0x06 =>
    some ⟨f.rsv2 || bits f.x 4 4 != 0, f.ST || f.RM != 0 || f.TY != 0 || 8 ≤ bits f.x 0 4, .fcmp f.hdr f.d f.a f.b (.ofCode (bits f.x 0 4))⟩
  | 0x08 => some ⟨f.rsv2 || f.C != 0 || f.b != 0, f.ST || f.RM != 0 || f.TY != 0, .frcp f.hdr f.d f.a⟩
  | 0x09 => some ⟨f.rsv2 || f.C != 0 || f.b != 0, f.ST || f.RM != 0 || f.TY != 0, .frsq f.hdr f.d f.a⟩
  | 0x0a => some ⟨f.rsv2 || f.C != 0 || f.b != 0, f.ST || f.RM != 0 || f.TY != 0, .fex2 f.hdr f.d f.a⟩
  | 0x0b => some ⟨f.rsv2 || f.C != 0 || f.b != 0, f.ST || f.RM != 0 || f.TY != 0, .flg2 f.hdr f.d f.a⟩
  | 0x0c =>
    some ⟨f.rsv2 || f.b != 0 || bits f.x 4 4 != 0, 9 ≤ f.TY || 9 ≤ bits f.x 0 4, .fcvt f.hdr f.ST f.rnd f.ty (.ofCode (bits f.x 0 4)) f.d f.a⟩
  | 0x0d => some ⟨f.rsv2, 9 ≤ f.TY, .fpk f.hdr f.ST f.rnd f.ty f.C f.d f.a f.b⟩
  | 0x0e => some ⟨f.rsv2 || f.b != 0, f.ST || f.RM != 0 || 9 ≤ f.TY, .funpk f.hdr f.ty f.C f.d f.a⟩
  | 0x0f => some ⟨f.rsv2 || f.b != 0, f.ST || f.RM != 0 || f.TY != 0 || 2 ≤ f.C, .vhad f.hdr (f.C == 1) f.d f.a⟩
  | 0x10 => some ⟨f.rsv2 || f.C != 0, f.TY != 0, .hadd2 f.hdr f.ST f.rnd f.d f.a f.b⟩
  | 0x11 => some ⟨f.rsv2 || f.C != 0, f.TY != 0, .hmul2 f.hdr f.ST f.rnd f.d f.a f.b⟩
  | 0x12 => some ⟨f.rsv2, f.TY != 0, .hfma2 f.hdr f.ST f.rnd f.d f.a f.b f.C⟩
  | 0x13 => some ⟨f.rsv2 || f.C != 0, f.TY != 2 && f.TY != 3, .q8add f.hdr f.ST f.rnd (f.TY == 3) f.d f.a f.b⟩
  | 0x14 => some ⟨f.rsv2 || f.C != 0, f.TY != 2 && f.TY != 3, .q8mul f.hdr f.ST f.rnd (f.TY == 3) f.d f.a f.b⟩
  | 0x20 => some ⟨bits f.x 12 12 != 0, false, .faddSweep f.hdr f.d f.a f.b (bits f.x 0 12)⟩
  | 0x21 => some ⟨bits f.x 12 12 != 0, false, .fsubSweep f.hdr f.d f.a f.b (bits f.x 0 12)⟩
  | 0x22 => some ⟨bits f.x 12 12 != 0, false, .fmulSweep f.hdr f.d f.a f.b (bits f.x 0 12)⟩
  | 0x23 => some ⟨bits f.x 12 12 != 0, false, .ffmaSweep f.hdr f.d f.a f.b (bits f.x 0 12)⟩
  | 0x24 => some ⟨bits f.x 12 12 != 0, false, .fminSweep f.hdr f.d f.a f.b (bits f.x 0 12)⟩
  | 0x25 => some ⟨bits f.x 12 12 != 0, false, .fmaxSweep f.hdr f.d f.a f.b (bits f.x 0 12)⟩
  | 0x30 => some ⟨bits f.x 12 12 != 0, false, .hadd2Sweep f.hdr f.d f.a f.b (bits f.x 0 12)⟩
  | 0x31 => some ⟨bits f.x 12 12 != 0, false, .hmul2Sweep f.hdr f.d f.a f.b (bits f.x 0 12)⟩
  | 0x32 => some ⟨bits f.x 12 12 != 0, false, .hfma2Sweep f.hdr f.d f.a f.b (bits f.x 0 12)⟩
  | 0x33 => some ⟨bits f.x 12 12 != 0, false, .q8addSweep f.hdr f.d f.a f.b (bits f.x 0 12)⟩
  | 0x34 => some ⟨bits f.x 12 12 != 0, false, .q8mulSweep f.hdr f.d f.a f.b (bits f.x 0 12)⟩
  | _ => none

/-- Opcodes of class 3 (02 R69), by OPC bits 0 to 5. -/
def rowClass3 (f : Fields) (k : Nat) : Option Row :=
  match k with
  | 0x00 => some ⟨f.x != 0, false, .vperm f.hdr f.d f.a f.b⟩
  | 0x01 => some ⟨f.x != 0, false, .vpush f.hdr f.d f.a f.b⟩
  | 0x02 => some ⟨f.b != 0 || bits f.x 6 18 != 0, false, .vshfx f.hdr f.d f.a (bits f.x 0 6)⟩
  | 0x03 => some ⟨f.b != 0 || bits f.x 6 18 != 0, false, .vshfu f.hdr f.d f.a (bits f.x 0 6)⟩
  | 0x04 => some ⟨f.b != 0 || bits f.x 6 18 != 0, false, .vshfd f.hdr f.d f.a (bits f.x 0 6)⟩
  | 0x05 =>
    some ⟨f.b != 0 || bits f.x 6 17 != 0 || (f.G && f.x != 2 ^ 23), false, if f.G then .vbcastScalar f.hdr f.d f.a else .vbcast f.hdr f.d f.a (bits f.x 0 6)⟩
  | 0x06 =>
    some ⟨f.b != 0 || bits f.x 8 15 != 0, 11 ≤ f.C, if f.G then .vredVector f.hdr f.d f.a (.ofCode f.C) else .vred f.hdr f.d f.a (.ofCode f.C)⟩
  | 0x07 =>
    some ⟨f.b != 0 || bits f.x 8 15 != 0, 11 ≤ f.C, if f.G then .vscanExcl f.hdr f.d f.a (.ofCode f.C) else .vscan f.hdr f.d f.a (.ofCode f.C)⟩
  | 0x08 => some ⟨f.b != 0 || f.x != 0, false, .vballot f.hdr f.d f.a⟩
  | 0x09 => some ⟨f.b != 0 || f.x != 0, false, .vfirst f.hdr f.d f.a⟩
  | 0x0a => some ⟨f.x != 0, false, .pand f.hdr f.d f.a f.b⟩
  | 0x0b => some ⟨f.x != 0, false, .por f.hdr f.d f.a f.b⟩
  | 0x0c => some ⟨f.x != 0, false, .pxor f.hdr f.d f.a f.b⟩
  | 0x0d => some ⟨f.b != 0 || f.x != 0, false, .pnot f.hdr f.d f.a⟩
  | 0x0e => some ⟨f.b != 0 || f.x != 0, false, .pmov f.hdr f.d f.a⟩
  | 0x0f =>
    if f.G then some ⟨f.a != 0 || f.b != 0 || bits f.x 1 22 != 0, false, .psetImm f.hdr f.d (bit f.x 0)⟩ else some ⟨f.b != 0 || f.x != 0, false, .pset f.hdr f.d f.a⟩
  | _ => none

/-- Opcodes of class 4 (02 R69), by OPC bits 0 to 5. A guarded `fence` has reason 12, which R228 does not name (log entry 102). -/
def rowClass4 (f : Fields) (k : Nat) : Option Row :=
  match k with
  | 0x00 => some ⟨f.rsv4, f.scp7 || f.AM == 3, .lds f.hdr f.mem f.d f.a⟩
  | 0x01 => some ⟨f.rsv4, f.scp7 || f.AM == 3, .sts f.hdr f.mem f.d f.a⟩
  | 0x02 => some ⟨f.rsv4, f.scp7 || f.AM == 3, .ldg f.hdr f.mem f.d f.a⟩
  | 0x03 => some ⟨f.rsv4, f.scp7 || f.AM == 3, .stg f.hdr f.mem f.d f.a⟩
  | 0x04 => some ⟨f.rsv4, f.scp7 || f.AM == 3, .ldr f.hdr f.mem f.d f.a⟩
  | 0x05 => some ⟨f.rsv4, f.scp7 || f.AM == 3, .ldc f.hdr f.mem f.d f.a⟩
  | 0x06 => some ⟨f.rsv4, f.scp7 || f.AM == 3, .stc f.hdr f.mem f.d f.a⟩
  | 0x07 =>
    some ⟨f.rsv4 || bits f.x 4 4 != 0, f.scp7 || f.AM == 3 || f.SX || 13 ≤ bits f.x 0 4, .atom f.hdr f.amo (.ofCode (bits f.x 0 4)) f.d f.a f.b⟩
  | 0x08 =>
    some ⟨f.rsv4 || bits f.x 4 4 != 0, f.scp7 || f.AM == 3 || f.SX || 13 ≤ bits f.x 0 4, .atoms f.hdr f.amo (.ofCode (bits f.x 0 4)) f.d f.a f.b⟩
  | 0x09 =>
    some ⟨f.rsv4 || bits f.x 4 4 != 0 || f.d != 0, f.scp7 || f.AM == 3 || f.SX || 13 ≤ bits f.x 0 4, .red f.hdr f.amo (.ofCode (bits f.x 0 4)) f.a f.b⟩
  | 0x0a =>
    some ⟨f.d != 0 || f.a != 0 || f.b != 0 || bits f.x 0 14 != 0 || bits f.x 19 4 != 0, f.guarded || f.scp7 || (f.G && (f.SCP != 0 || f.ORD != 0)), if f.G then .fenceAsync f.pk else .fence f.pk f.scope f.order⟩
  | 0x0b =>
    some ⟨f.d != 0 || f.a != 0 || f.b != 0 || bits f.x 0 14 != 0 || bits f.x 17 7 != 0, f.guarded || f.scp7, .rinv f.pk f.scope⟩
  | 0x0c =>
    some ⟨f.d != 0 || bit f.x 13 || bits f.x 19 4 != 0, f.SX || f.SCP != 0 || f.ORD != 0 || f.AM == 3, .pf f.hdr f.WD f.amode f.G f.mem.off f.a⟩
  | _ => none

/-- Opcodes of class 5 (02 R69), by OPC bits 0 to 5. -/
def rowClass5 (f : Fields) (k : Nat) : Option Row :=
  match k with
  | 0x00 =>
    some ⟨f.d != 0 || f.a != 0 || f.b != 0 || bit f.x 7 || bits f.x 10 14 != 0, f.guarded || bits f.x 8 2 == 3, .wcnt f.pk (.ofCode (bits f.x 8 2)) (bits f.x 0 7)⟩
  | 0x01 => some ⟨f.d != 0 || f.x != 0, false, .phinit f.hdr f.a f.b⟩
  | 0x02 =>
    some ⟨f.d != 0 || f.b != 0 || bits f.x 5 19 != 0, bits f.x 3 2 == 3, .phreg f.hdr (bits f.x 0 3) f.a (.ofCode (bits f.x 3 2))⟩
  | 0x03 => some ⟨f.d != 0 || f.a != 0 || f.b != 0 || bits f.x 3 21 != 0, false, .phdrop f.hdr (bits f.x 0 3)⟩
  | 0x04 =>
    some ⟨f.a != 0 || f.b != 0 || bits f.x 3 11 != 0 || bits f.x 17 7 != 0, f.scp7, .pharr f.hdr f.scope f.d (bits f.x 0 3)⟩
  | 0x05 => some ⟨f.d != 0 || f.b != 0 || bits f.x 0 14 != 0 || bits f.x 17 7 != 0, f.scp7, .phwait f.hdr f.scope f.a⟩
  | 0x06 =>
    some ⟨f.a != 0 || f.b != 0 || bits f.x 3 11 != 0 || bits f.x 17 7 != 0, f.scp7, .pharw f.hdr f.scope f.d (bits f.x 0 3)⟩
  | 0x07 =>
    some ⟨f.b != 0 || bits f.x 17 6 != 0 || (!f.G && bits f.x 0 14 != 0), f.scp7, if f.G then .twaitY f.hdr f.scope f.d f.a (.ofNat 14 f.x) else .twait f.hdr f.scope f.d f.a⟩
  | 0x08 => some ⟨f.b != 0 || bits f.x 0 14 != 0 || bits f.x 17 7 != 0, f.scp7, .ttest f.hdr f.scope f.d f.a⟩
  | 0x09 => some ⟨f.d != 0 || f.a != 0 || f.b != 0 || f.x != 0, f.guarded, .rsb f.pk⟩
  | 0x0a => some ⟨f.d != 0 || f.a != 0 || f.b != 0 || f.x != 0, f.guarded, .rse f.pk⟩
  | 0x0b => some ⟨f.a != 0 || f.b != 0 || f.x != 0, f.guarded, .gsync f.pk f.d⟩
  | 0x0c => some ⟨f.d != 0 || f.x != 0, false, .dfree f.hdr f.a f.b⟩
  | 0x0d => some ⟨bits f.x 7 7 != 0 || bits f.x 17 7 != 0, f.scp7, .tqpush f.hdr f.scope f.d f.a f.b (bits f.x 0 7)⟩
  | 0x0e =>
    some ⟨f.b != 0 || bits f.x 7 7 != 0 || bits f.x 17 7 != 0, f.scp7, .tqpop f.hdr f.scope f.d f.a (bits f.x 0 7)⟩
  | 0x0f =>
    some ⟨f.d != 0 || f.b != 0 || bits f.x 0 14 != 0 || bits f.x 17 6 != 0, f.scp7, if f.G then .tqcloseOpen f.hdr f.scope f.a else .tqclose f.hdr f.scope f.a⟩
  | 0x10 => some ⟨f.b != 0 || f.x != 0, false, .cpy f.hdr f.d f.a⟩
  | 0x11 => some ⟨f.b != 0 || f.x != 0, false, .cpym f.hdr f.d f.a⟩
  | 0x12 => some ⟨f.b != 0 || f.x != 0, false, .gath f.hdr f.d f.a⟩
  | 0x13 => some ⟨f.b != 0 || f.x != 0, false, .scat f.hdr f.d f.a⟩
  | 0x14 => some ⟨f.b != 0 || f.x != 0, false, .xsect f.hdr f.d f.a⟩
  | 0x15 => some ⟨f.d != 0 || f.b != 0 || bits f.x 2 22 != 0, false, .sstr f.hdr (bits f.x 0 2) f.a⟩
  | 0x16 =>
    some ⟨f.a != 0 || bits f.x 2 21 != 0 || (!f.G && f.b != 0), false, if f.G then .spopPred f.hdr f.d (bits f.x 0 2) f.b else .spop f.hdr f.d (bits f.x 0 2)⟩
  | 0x17 => some ⟨f.d != 0 || f.a != 0 || f.b != 0 || bits f.x 2 22 != 0, false, .sdrop f.hdr (bits f.x 0 2)⟩
  | _ => none

/-- Opcodes of class 6 (02 R69), by OPC bits 0 to 5. A nonzero TY, TA or ST that a word leaves unused has reason 12, an unused C reason 3 (log entry
111). -/
def rowClass6 (f : Fields) (k : Nat) : Option Row :=
  match k with
  | 0x00 =>
    some ⟨f.rsv6 || f.b != 0 || f.C != 0 || (!f.G && f.d != 0), f.ST || f.TA != 0 || f.TY != 0, if f.G then .sfmtSwap f.hdr f.d f.a else .sfmt f.hdr f.a⟩
  | 0x01 => some ⟨f.rsv6 || f.b != 0 || f.C != 0, f.ST || f.TA != 0 || 2 ≤ f.TY, .enc f.hdr (f.TY == 1) f.G f.d f.a⟩
  | 0x02 => some ⟨f.rsv6 || f.b != 0 || f.C != 0, f.ST || f.TA != 0 || 2 ≤ f.TY, .dec f.hdr (f.TY == 1) f.G f.d f.a⟩
  | 0x03 => some ⟨f.rsv6, f.ST || f.TA != 0 || 9 ≤ f.TY, .smm f.hdr f.ty f.G f.C f.d f.a f.b⟩
  | 0x04 => some ⟨f.rsv6, f.ST || f.TA != 0 || 9 ≤ f.TY, .smms f.hdr f.ty f.G f.C f.d f.a f.b⟩
  | 0x05 => some ⟨f.rsv6, f.ST || f.TA != 0 || 9 ≤ f.TY, .pmm f.hdr f.ty f.G f.C f.d f.a f.b⟩
  | 0x06 => some ⟨f.rsv6, 9 ≤ f.TY || 9 ≤ f.TA, .dmm f.hdr f.ty (.ofCode f.TA) f.ST f.G f.C f.d f.a f.b⟩
  | 0x07 => some ⟨f.rsv6 || f.G, 9 ≤ f.TY || 9 ≤ f.TA, .qmm f.hdr f.ty (.ofCode f.TA) f.ST f.C f.d f.a f.b⟩
  | 0x08 => some ⟨f.rsv6 || f.a != 0 || f.b != 0 || f.C != 0 || f.G, f.ST || f.TA != 0 || f.TY != 0, .tzero f.hdr f.d⟩
  | 0x09 => some ⟨f.rsv6 || f.b != 0, f.ST || f.TA != 0 || f.TY != 0 || 2 ≤ f.C, .tld f.hdr (bit f.x 0) f.G f.d f.a⟩
  | 0x0a =>
    some ⟨f.rsv6 || f.b != 0, f.ST || f.TA != 0 || (f.TY != 0 && f.TY != 8) || 2 ≤ f.C, .tst f.hdr (f.TY == 8) (bit f.x 0) f.G f.d f.a⟩
  | 0x0b =>
    some ⟨f.rsv6 || f.b != 0 || f.G, f.ST || f.TA != 0 || (f.TY != 0 && (f.TY != 8 || bit f.x 0)) || 2 ≤ f.C, if bit f.x 0 then .tmovToTile f.hdr f.d f.a else .tmov f.hdr (f.TY == 8) f.d f.a⟩
  | 0x0c => some ⟨f.rsv6 || f.b != 0 || f.C != 0 || f.G, f.ST || f.TA != 0 || f.TY != 0, .tscl f.hdr f.d f.a⟩
  | 0x0d =>
    some ⟨f.rsv6 || f.b != 0 || f.G, f.ST || f.TA != 0 || f.TY != 0 || 2 ≤ f.C, .tstat f.hdr (bit f.x 0) f.d f.a⟩
  | 0x10 => some ⟨f.d != 0 || f.b != 0 || f.x != 0, false, .rset f.hdr f.a⟩
  | 0x11 => some ⟨bits f.x 7 17 != 0, false, .rot f.hdr f.d f.a f.b (bits f.x 0 7 + 1)⟩
  | 0x12 => some ⟨f.b != 0 || f.x != 0, false, .kvld f.hdr f.d f.a⟩
  | 0x13 => some ⟨f.b != 0 || f.x != 0, false, .kvapp f.hdr f.d f.a⟩
  | 0x14 => some ⟨f.b != 0 || f.x != 0, false, .kvwr f.hdr f.d f.a⟩
  | 0x15 => some ⟨f.b != 0 || f.x != 0, false, .kvtrim f.hdr f.d f.a⟩
  | 0x16 => some ⟨f.b != 0 || f.x != 0, false, .kvsplice f.hdr f.d f.a⟩
  | 0x17 => some ⟨f.b != 0 || f.x != 0, false, .kvshift f.hdr f.d f.a⟩
  | 0x18 => some ⟨f.d != 0 || f.b != 0 || bits f.x 0 14 != 0 || bits f.x 17 7 != 0, f.scp7, .btinv f.hdr f.scope f.a⟩
  | 0x19 => some ⟨f.b != 0 || f.x != 0, false, .smaxSoftmax f.hdr f.d f.a⟩
  | 0x1a => some ⟨bits f.x 12 12 != 0, false, .cred f.hdr (bits f.x 0 12) f.d f.a f.b⟩
  | _ => none

/-- Opcodes of class 7 (02 R69), by OPC bits 0 to 5. -/
def rowClass7 (f : Fields) (k : Nat) : Option Row :=
  match k with
  | 0x00 => some ⟨f.a != 0 || f.b != 0 || bits f.x 8 16 != 0, false, .csrr f.hdr f.d f.C⟩
  | 0x01 => some ⟨f.d != 0 || f.b != 0 || bits f.x 8 16 != 0, false, .csrw f.hdr f.C f.a⟩
  | 0x02 => some ⟨f.x != 0, false, .dbgr f.hdr f.d f.a f.b⟩
  | 0x03 => some ⟨f.x != 0, false, .dbgw f.hdr f.d f.a f.b⟩
  | 0x04 =>
    some ⟨f.d != 0 || f.b != 0 || bits f.x 2 22 != 0, f.x == 3, if f.x == 1 then .rtiEnd f.hdr f.a else if f.x == 2 then .rtiAbort f.hdr f.a else .rtiResume f.hdr f.a⟩
  | 0x05 => some ⟨f.d != 0 || f.a != 0 || f.b != 0 || bits f.x 16 8 != 0, false, .sysc f.hdr (.ofNat 16 f.x)⟩
  | 0x06 => some ⟨f.a != 0 || f.b != 0 || f.x != 0, false, .halt f.hdr f.d⟩
  | 0x07 => some ⟨f.d != 0 || bits f.x 1 23 != 0, false, .ctxsv f.hdr (bit f.x 0) f.a f.b⟩
  | 0x08 => some ⟨f.b != 0 || bits f.x 1 23 != 0, false, .ctxld f.hdr (bit f.x 0) f.d f.a⟩
  | 0x09 => some ⟨f.d != 0 || bits f.x 3 21 != 0, false, .tlbinv f.hdr (bits f.x 0 2) (bit f.x 2) f.a f.b⟩
  | 0x0a => some ⟨f.d != 0 || bits f.x 3 21 != 0, false, .bflip f.hdr (bit f.x 0) (bits f.x 1 2) f.a f.b⟩
  | 0x0b => some ⟨bits f.x 2 22 != 0, false, .pgcopy f.hdr (bits f.x 0 2) f.d f.a f.b⟩
  | _ => none

/-- The row of a full-form word; none where OPC is unassigned (02 R69, R71). -/
def decodeRow (f : Fields) : Option Row :=
  match f.opc / 64 with
  | 0 => rowClass0 f (f.opc % 64)
  | 1 => rowClass1 f (f.opc % 64)
  | 2 => rowClass2 f (f.opc % 64)
  | 3 => rowClass3 f (f.opc % 64)
  | 4 => rowClass4 f (f.opc % 64)
  | 5 => rowClass5 f (f.opc % 64)
  | 6 => rowClass6 f (f.opc % 64)
  | _ => rowClass7 f (f.opc % 64)

/-- A decoded word: an instruction, or the lowest reason of 02 R76 that the word alone decides, with the instruction its fields
name where the opcode is assigned (reason 11 may still be lower than reason 12). -/
inductive Decoded
  | ok (i : Instr)
  | bad (reason : Nat) (i : Option Instr)
  deriving DecidableEq, Repr

/-- A full-form word (02 R57 to R61, R76). -/
def decodeFull (f : Fields) : Decoded :=
  match decodeRow f with
  | none => .bad 1 none
  | some r =>
    if r.rsv then .bad 3 none
    else if f.gp > 12 then .bad 4 none
    else if f.opc < 64 && f.guarded then .bad 5 none
    else if !r.instr.regsOk then .bad 10 none
    else if r.lim || !r.instr.limits then .bad 12 (some r.instr)
    else .ok r.instr

/-- One half of a paired word, laid out from its own bit 0 (02 R62); none where HOP is unassigned. -/
def decodeHalf (w : Nat) : Option Half :=
  match HOp.ofCode (bits w 24 7) with
  | some op => some ⟨op, bits w 20 4, bits w 12 8, bits w 4 8, bits w 0 4⟩
  | none => none

/-- A paired word (02 R62 to R64, R76). -/
def decodePair (w : Nat) : Decoded :=
  match decodeHalf (bits w 31 31), decodeHalf (bits w 0 31) with
  | some h0, some h1 =>
    if !(h0.shape && h1.shape) then .bad 3 none
    else
      match pairReasons h0 h1 with
      | r :: _ => .bad r none
      | [] =>
        if !(Instr.pairedWord (bit w 63) h0 h1).regsOk then .bad 10 none
        else .ok (.pairedWord (bit w 63) h0 h1)
  | _, _ => .bad 2 none

/-- The decoder: total on any 64-bit word (02 R57, R62). -/
def decode (w : Nat) : Decoded := if bit w 62 then decodePair w else decodeFull (unpack w)

/-- X of a scalar second source (06 R172). -/
def SSrc.xField : SSrc → Nat
  | .reg _ => 0
  | .imm k => k.toNat + 2 ^ 23

/-- B of a scalar second source (06 R172). -/
def SSrc.bField : SSrc → Nat
  | .reg n => n
  | .imm _ => 0

/-- C of a class-1 second source (06 R169). -/
def VSrc.cField : VSrc → Nat
  | .reg _ => 0
  | .imm k => k.toNat

/-- B of a class-1 second source (06 R169). -/
def VSrc.bField : VSrc → Nat
  | .reg n => n
  | .imm _ => 0

/-- IM of a class-1 second source (06 R169). -/
def VSrc.im : VSrc → Nat
  | .reg _ => 0
  | .imm _ => 1

/-- X of a class-1 word (06 R169) without IM. -/
def x1 (wd : Width) (sx st : Bool) (c : Nat) : Nat := c + 2 ^ 8 * wd.code + 2 ^ 10 * b2n sx + 2 ^ 11 * b2n st

/-- X of a class-2 word (06 R170). -/
def x2 (st : Bool) (rm : Rnd) (ty : Ty) (c : Nat) : Nat := c + 2 ^ 11 * b2n st + 2 ^ 12 * rm.code + 2 ^ 19 * ty.code

/-- X of a load or store (07 R219). -/
def Mem.xField (m : Mem) : Nat :=
  m.off.toNat % 256 + 2 ^ 8 * m.wd.code + 2 ^ 10 * b2n m.sx + 2 ^ 11 * m.am.code + 2 ^ 14 * m.scp.code + 2 ^ 17 * m.ord.code

/-- B of a load or store (07 R219). -/
def Mem.bField (m : Mem) : Nat := m.off.toNat / 256

/-- X of an atomic without its operation (07 R229). -/
def Amo.xField (m : Amo) : Nat := 2 ^ 8 * m.wd.code + 2 ^ 11 * m.am.code + 2 ^ 14 * m.scp.code + 2 ^ 17 * m.ord.code

/-- A full-form word with a guard (02 R57). -/
def full (opc : Nat) (h : Hdr) (x b a d : Nat) : Nat := pack ⟨x, b, a, d, h.gp, h.gn, opc, h.pk⟩

/-- A full-form word whose guard is fixed at GP = 12 and GN = 0 (02 R60). -/
def full0 (opc : Nat) (pk : Bool) (x b a d : Nat) : Nat := pack ⟨x, b, a, d, 12, false, opc, pk⟩

/-- The bits of a half (02 R62). -/
def Half.encode (x : Half) : Nat := x.hi + 2 ^ 4 * x.hs + 2 ^ 12 * x.hd + 2 ^ 20 * x.hg + 2 ^ 24 * x.op.code

/-- A paired word (02 R62). -/
def pairWord (pk : Bool) (h0 h1 : Half) : Nat := h1.encode + 2 ^ 31 * h0.encode + 2 ^ 62 + 2 ^ 63 * b2n pk

/-- The word of a well-formed instruction, from the encoding tables of the entries (an event has no word; 0 stands there). -/
def encode : Instr → Nat
  | .sadd pk d a b => full0 0x000 pk b.xField b.bField a d
  | .ssub pk d a b => full0 0x001 pk b.xField b.bField a d
  | .smul pk d a b => full0 0x002 pk b.xField b.bField a d
  | .smulh pk d a b => full0 0x003 pk b.xField b.bField a d
  | .smulhu pk d a b => full0 0x004 pk b.xField b.bField a d
  | .sand pk d a b => full0 0x005 pk b.xField b.bField a d
  | .sor pk d a b => full0 0x006 pk b.xField b.bField a d
  | .sxor pk d a b => full0 0x007 pk b.xField b.bField a d
  | .sandn pk d a b => full0 0x008 pk b.xField b.bField a d
  | .sshl pk d a b => full0 0x009 pk b.xField b.bField a d
  | .sshr pk d a b => full0 0x00a pk b.xField b.bField a d
  | .ssra pk d a b => full0 0x00b pk b.xField b.bField a d
  | .smin pk d a b => full0 0x00c pk b.xField b.bField a d
  | .smax pk d a b => full0 0x00d pk b.xField b.bField a d
  | .sminu pk d a b => full0 0x00e pk b.xField b.bField a d
  | .smaxu pk d a b => full0 0x00f pk b.xField b.bField a d
  | .sset pk d a b cc => full0 0x010 pk cc.code b a d
  | .ssel pk d a b c => full0 0x011 pk c b a d
  | .smov pk d a => full0 0x012 pk 0 0 a d
  | .sli pk d k => full0 0x013 pk (bits k.toNat 0 24) (bits k.toNat 24 8) (bits k.toNat 32 8) d
  | .slih pk d k => full0 0x014 pk (bits k.toNat 0 24) (bits k.toNat 24 8) 0 d
  | .sbfx pk d a pos len sx => full0 0x015 pk (pos + 2 ^ 10 * b2n sx) len a d
  | .sclz pk d a => full0 0x016 pk 0 0 a d
  | .spopc pk d a => full0 0x017 pk 0 0 a d
  | .srd pk d idx => full0 0x018 pk idx 0 0 d
  | .srdVector pk d idx => full0 0x018 pk (idx + 2 ^ 8) 0 0 d
  | .swr pk idx a => full0 0x019 pk idx 0 a 0
  | .swc pk a => full0 0x01a pk 0 0 a 0
  | .br pk off => full0 0x020 pk off.toNat 0 0 0
  | .brIndirect pk a => full0 0x020 pk (2 ^ 23) 0 a 0
  | .bz pk a off => full0 0x021 pk off.toNat 0 a 0
  | .bnz pk a off => full0 0x022 pk off.toNat 0 a 0
  | .bany pk p off => full0 0x023 pk off.toNat 0 p 0
  | .ball pk p off => full0 0x024 pk off.toNat 0 p 0
  | .brd pk p off => full0 0x025 pk off.toNat 0 p 0
  | .join pk => full0 0x026 pk 0 0 0 0
  | .call pk d off => full0 0x027 pk off.toNat 0 0 d
  | .callIndirect pk d a => full0 0x027 pk (2 ^ 23) 0 a d
  | .ret pk a => full0 0x028 pk 0 0 a 0
  | .exit pk => full0 0x029 pk 0 0 0 0
  | .yield pk => full0 0x02a pk 0 0 0 0
  | .brk pk k => full0 0x02b pk k.toNat 0 0 0
  | .tret pk => full0 0x02c pk 0 0 0 0
  | .nop pk => full0 0x02d pk 0 0 0 0
  | .vadd h wd d a b => full 0x040 h (x1 wd false false b.cField + 2 ^ 23 * b.im) b.bField a d
  | .vsub h wd d a b => full 0x041 h (x1 wd false false b.cField + 2 ^ 23 * b.im) b.bField a d
  | .vadds h wd sx d a b => full 0x042 h (x1 wd sx false b.cField + 2 ^ 23 * b.im) b.bField a d
  | .vsubs h wd sx d a b => full 0x043 h (x1 wd sx false b.cField + 2 ^ 23 * b.im) b.bField a d
  | .vmul h wd d a b => full 0x044 h (x1 wd false false b.cField + 2 ^ 23 * b.im) b.bField a d
  | .vmulh h wd d a b => full 0x045 h (x1 wd false false b.cField + 2 ^ 23 * b.im) b.bField a d
  | .vmulhu h wd d a b => full 0x046 h (x1 wd false false b.cField + 2 ^ 23 * b.im) b.bField a d
  | .vmad h d a b c => full 0x047 h (x1 .w false false c) b a d
  | .vand h d a b => full 0x048 h (x1 .w false false b.cField + 2 ^ 23 * b.im) b.bField a d
  | .vor h d a b => full 0x049 h (x1 .w false false b.cField + 2 ^ 23 * b.im) b.bField a d
  | .vxor h d a b => full 0x04a h (x1 .w false false b.cField + 2 ^ 23 * b.im) b.bField a d
  | .vandn h d a b => full 0x04b h (x1 .w false false b.cField + 2 ^ 23 * b.im) b.bField a d
  | .vshl h wd d a b => full 0x04c h (x1 wd false false b.cField + 2 ^ 23 * b.im) b.bField a d
  | .vshr h wd d a b => full 0x04d h (x1 wd false false b.cField + 2 ^ 23 * b.im) b.bField a d
  | .vsra h wd d a b => full 0x04e h (x1 wd false false b.cField + 2 ^ 23 * b.im) b.bField a d
  | .vmin h wd d a b => full 0x04f h (x1 wd false false b.cField + 2 ^ 23 * b.im) b.bField a d
  | .vmax h wd d a b => full 0x050 h (x1 wd false false b.cField + 2 ^ 23 * b.im) b.bField a d
  | .vminu h wd d a b => full 0x051 h (x1 wd false false b.cField + 2 ^ 23 * b.im) b.bField a d
  | .vmaxu h wd d a b => full 0x052 h (x1 wd false false b.cField + 2 ^ 23 * b.im) b.bField a d
  | .vabs h wd st d a => full 0x053 h (x1 wd false st 0) 0 a d
  | .vsel h d a b p => full 0x054 h (x1 .w false false p) b a d
  | .vcmp h d a b cc => full 0x055 h (x1 .w false false cc.code) b a d
  | .vbfx h sx d a b => full 0x056 h (x1 .w sx false 0) b a d
  | .vbfi h d a b => full 0x057 h (x1 .w false false 0) b a d
  | .vfsh h d a b c => full 0x058 h (x1 .w false false c) b a d
  | .vclz h wd d a => full 0x059 h (x1 wd false false 0) 0 a d
  | .vpopc h wd d a => full 0x05a h (x1 wd false false 0) 0 a d
  | .vbrev h wd d a => full 0x05b h (x1 wd false false 0) 0 a d
  | .vmov h d a => full 0x05c h (x1 .w false false 0) 0 a d
  | .vli h d k => full 0x05d h (bits k.toNat 0 24) (bits k.toNat 24 8) 0 d
  | .vdp4 h sx st d a b c => full 0x05e h (x1 .w sx st c) b a d
  | .fadd h st rm d a b => full 0x080 h (x2 st rm .f32 0) b a d
  | .fsub h st rm d a b => full 0x081 h (x2 st rm .f32 0) b a d
  | .fmul h st rm d a b => full 0x082 h (x2 st rm .f32 0) b a d
  | .ffma h st rm d a b c => full 0x083 h (x2 st rm .f32 c) b a d
  | .fmin h d a b => full 0x084 h 0 b a d
  | .fmax h d a b => full 0x085 h 0 b a d
  | .fcmp h d a b cc => full 0x086 h cc.code b a d
  | .frcp h d a => full 0x088 h 0 0 a d
  | .frsq h d a => full 0x089 h 0 0 a d
  | .fex2 h d a => full 0x08a h 0 0 a d
  | .flg2 h d a => full 0x08b h 0 0 a d
  | .fcvt h st rm dty sty d a => full 0x08c h (x2 st rm dty sty.code) 0 a d
  | .fpk h st rm ty k d a b => full 0x08d h (x2 st rm ty k) b a d
  | .funpk h ty j d a => full 0x08e h (x2 false .rne ty j) 0 a d
  | .vhad h big d a => full 0x08f h (b2n big) 0 a d
  | .hadd2 h st rm d a b => full 0x090 h (x2 st rm .f32 0) b a d
  | .hmul2 h st rm d a b => full 0x091 h (x2 st rm .f32 0) b a d
  | .hfma2 h st rm d a b c => full 0x092 h (x2 st rm .f32 c) b a d
  | .q8add h st rm e5 d a b => full 0x093 h (x2 st rm (if e5 then .e5m2 else .e4m3) 0) b a d
  | .q8mul h st rm e5 d a b => full 0x094 h (x2 st rm (if e5 then .e5m2 else .e4m3) 0) b a d
  | .vperm h d a b => full 0x0c0 h 0 b a d
  | .vpush h d a b => full 0x0c1 h 0 b a d
  | .vshfx h d a m => full 0x0c2 h m 0 a d
  | .vshfu h d a m => full 0x0c3 h m 0 a d
  | .vshfd h d a m => full 0x0c4 h m 0 a d
  | .vbcast h d a k => full 0x0c5 h k 0 a d
  | .vbcastScalar h d a => full 0x0c5 h (2 ^ 23) 0 a d
  | .vred h d a op => full 0x0c6 h op.code 0 a d
  | .vredVector h d a op => full 0x0c6 h (op.code + 2 ^ 23) 0 a d
  | .vscan h d a op => full 0x0c7 h op.code 0 a d
  | .vscanExcl h d a op => full 0x0c7 h (op.code + 2 ^ 23) 0 a d
  | .vballot h d a => full 0x0c8 h 0 0 a d
  | .vfirst h d a => full 0x0c9 h 0 0 a d
  | .pand h d a b => full 0x0ca h 0 b a d
  | .por h d a b => full 0x0cb h 0 b a d
  | .pxor h d a b => full 0x0cc h 0 b a d
  | .pnot h d a => full 0x0cd h 0 0 a d
  | .pmov h d a => full 0x0ce h 0 0 a d
  | .pset h d a => full 0x0cf h 0 0 a d
  | .psetImm h d k => full 0x0cf h (b2n k + 2 ^ 23) 0 0 d
  | .lds h m d a => full 0x100 h m.xField m.bField a d
  | .sts h m d a => full 0x101 h m.xField m.bField a d
  | .ldg h m d a => full 0x102 h m.xField m.bField a d
  | .stg h m d a => full 0x103 h m.xField m.bField a d
  | .ldr h m d a => full 0x104 h m.xField m.bField a d
  | .ldc h m d a => full 0x105 h m.xField m.bField a d
  | .stc h m d a => full 0x106 h m.xField m.bField a d
  | .atom h m op d a b => full 0x107 h (m.xField + op.code) b a d
  | .atoms h m op d a b => full 0x108 h (m.xField + op.code) b a d
  | .red h m op a b => full 0x109 h (m.xField + op.code) b a 0
  | .fence pk scp ord => full0 0x10a pk (2 ^ 14 * scp.code + 2 ^ 17 * ord.code) 0 0 0
  | .fenceAsync pk => full0 0x10a pk (2 ^ 23) 0 0 0
  | .rinv pk scp => full0 0x10b pk (2 ^ 14 * scp.code) 0 0 0
  | .pf h wd am l2 off a => full 0x10c h (off.toNat % 256 + 2 ^ 8 * wd.code + 2 ^ 11 * am.code + 2 ^ 23 * b2n l2) (off.toNat / 256) a 0
  | .wcnt pk cl n => full0 0x140 pk (n + 2 ^ 8 * cl.code) 0 0 0
  | .phinit h a b => full 0x141 h 0 b a 0
  | .phreg h k a mode => full 0x142 h (k + 2 ^ 3 * mode.code) 0 a 0
  | .phdrop h k => full 0x143 h k 0 0 0
  | .pharr h scp d k => full 0x144 h (k + 2 ^ 14 * scp.code) 0 0 d
  | .phwait h scp a => full 0x145 h (2 ^ 14 * scp.code) 0 a 0
  | .pharw h scp d k => full 0x146 h (k + 2 ^ 14 * scp.code) 0 0 d
  | .twait h scp d a => full 0x147 h (2 ^ 14 * scp.code) 0 a d
  | .twaitY h scp d a off => full 0x147 h (off.toNat + 2 ^ 14 * scp.code + 2 ^ 23) 0 a d
  | .ttest h scp d a => full 0x148 h (2 ^ 14 * scp.code) 0 a d
  | .rsb pk => full0 0x149 pk 0 0 0 0
  | .rse pk => full0 0x14a pk 0 0 0 0
  | .gsync pk d => full0 0x14b pk 0 0 0 d
  | .dfree h a b => full 0x14c h 0 b a 0
  | .tqpush h scp d a b c => full 0x14d h (c + 2 ^ 14 * scp.code) b a d
  | .tqpop h scp d a c => full 0x14e h (c + 2 ^ 14 * scp.code) 0 a d
  | .tqclose h scp a => full 0x14f h (2 ^ 14 * scp.code) 0 a 0
  | .tqcloseOpen h scp a => full 0x14f h (2 ^ 14 * scp.code + 2 ^ 23) 0 a 0
  | .cpy h d a => full 0x150 h 0 0 a d
  | .cpym h d a => full 0x151 h 0 0 a d
  | .gath h d a => full 0x152 h 0 0 a d
  | .scat h d a => full 0x153 h 0 0 a d
  | .xsect h d a => full 0x154 h 0 0 a d
  | .sstr h k a => full 0x155 h k 0 a 0
  | .spop h d k => full 0x156 h k 0 0 d
  | .spopPred h d k p => full 0x156 h (k + 2 ^ 23) p 0 d
  | .sdrop h k => full 0x157 h k 0 0 0
  | .sfmt h a => full 0x180 h 0 0 a 0
  | .sfmtSwap h d a => full 0x180 h (2 ^ 23) 0 a d
  | .enc h bf g d a => full 0x181 h (2 ^ 19 * b2n bf + 2 ^ 23 * b2n g) 0 a d
  | .dec h bf g d a => full 0x182 h (2 ^ 19 * b2n bf + 2 ^ 23 * b2n g) 0 a d
  | .smm h ta g c d a b => full 0x183 h (c + 2 ^ 19 * ta.code + 2 ^ 23 * b2n g) b a d
  | .smms h ta g c d a b => full 0x184 h (c + 2 ^ 19 * ta.code + 2 ^ 23 * b2n g) b a d
  | .pmm h ta g c d a b => full 0x185 h (c + 2 ^ 19 * ta.code + 2 ^ 23 * b2n g) b a d
  | .dmm h tb ta st g c d a b => full 0x186 h (c + 2 ^ 11 * b2n st + 2 ^ 12 * ta.code + 2 ^ 19 * tb.code + 2 ^ 23 * b2n g) b a d
  | .qmm h tb ta st tag d a b => full 0x187 h (tag + 2 ^ 11 * b2n st + 2 ^ 12 * ta.code + 2 ^ 19 * tb.code) b a d
  | .tzero h d => full 0x188 h 0 0 0 d
  | .tld h full_ g d a => full 0x189 h (b2n full_ + 2 ^ 23 * b2n g) 0 a d
  | .tst h i32 full_ g d a => full 0x18a h (b2n full_ + 2 ^ 22 * b2n i32 + 2 ^ 23 * b2n g) 0 a d
  | .tmov h i32 d a => full 0x18b h (2 ^ 22 * b2n i32) 0 a d
  | .tmovToTile h d a => full 0x18b h 1 0 a d
  | .tscl h d a => full 0x18c h 0 0 a d
  | .tstat h clr d a => full 0x18d h (b2n clr) 0 a d
  | .rset h a => full 0x190 h 0 0 a 0
  | .rot h d a b n => full 0x191 h (n - 1) b a d
  | .kvld h d a => full 0x192 h 0 0 a d
  | .kvapp h d a => full 0x193 h 0 0 a d
  | .kvwr h d a => full 0x194 h 0 0 a d
  | .kvtrim h d a => full 0x195 h 0 0 a d
  | .kvsplice h d a => full 0x196 h 0 0 a d
  | .kvshift h d a => full 0x197 h 0 0 a d
  | .btinv h scp a => full 0x198 h (2 ^ 14 * scp.code) 0 a 0
  | .smaxSoftmax h d a => full 0x199 h 0 0 a d
  | .cred h m d a b => full 0x19a h m b a d
  | .csrr h d k => full 0x1c0 h k 0 0 d
  | .csrw h k a => full 0x1c1 h k 0 a 0
  | .dbgr h d a b => full 0x1c2 h 0 b a d
  | .dbgw h d a b => full 0x1c3 h 0 b a d
  | .rtiResume h a => full 0x1c4 h 0 0 a 0
  | .rtiEnd h a => full 0x1c4 h 1 0 a 0
  | .rtiAbort h a => full 0x1c4 h 2 0 a 0
  | .sysc h k => full 0x1c5 h k.toNat 0 0 0
  | .halt h d => full 0x1c6 h 0 0 0 d
  | .ctxsv h team a b => full 0x1c7 h (b2n team) b a 0
  | .ctxld h team d a => full 0x1c8 h (b2n team) 0 a d
  | .tlbinv h kind all a b => full 0x1c9 h (kind + 2 ^ 2 * b2n all) b a 0
  | .bflip h dev size a b => full 0x1ca h (b2n dev + 2 * size) b a 0
  | .pgcopy h size d a b => full 0x1cb h size b a d
  | .pairedWord pk h0 h1 => pairWord pk h0 h1
  | .vaddSweep h d a b n => full 0x060 h n b a d
  | .vsubSweep h d a b n => full 0x061 h n b a d
  | .vaddsSweep h sx d a b n => full 0x062 h (n + 2 ^ 23 * b2n sx) b a d
  | .vsubsSweep h sx d a b n => full 0x063 h (n + 2 ^ 23 * b2n sx) b a d
  | .vmulSweep h d a b n => full 0x064 h n b a d
  | .vmulhSweep h d a b n => full 0x065 h n b a d
  | .vmulhuSweep h d a b n => full 0x066 h n b a d
  | .vmadSweep h d a b n => full 0x067 h n b a d
  | .vandSweep h d a b n => full 0x068 h n b a d
  | .vorSweep h d a b n => full 0x069 h n b a d
  | .vxorSweep h d a b n => full 0x06a h n b a d
  | .vandnSweep h d a b n => full 0x06b h n b a d
  | .vshlSweep h d a b n => full 0x06c h n b a d
  | .vshrSweep h d a b n => full 0x06d h n b a d
  | .vsraSweep h d a b n => full 0x06e h n b a d
  | .vminSweep h d a b n => full 0x06f h n b a d
  | .vmaxSweep h d a b n => full 0x070 h n b a d
  | .vminuSweep h d a b n => full 0x071 h n b a d
  | .vmaxuSweep h d a b n => full 0x072 h n b a d
  | .vabsSweep h d a b n => full 0x073 h n b a d
  | .vselSweep h d a b n => full 0x074 h n b a d
  | .vbfxSweep h d a b n => full 0x076 h n b a d
  | .vbfiSweep h d a b n => full 0x077 h n b a d
  | .vfshSweep h d a b n => full 0x078 h n b a d
  | .vclzSweep h d a b n => full 0x079 h n b a d
  | .vpopcSweep h d a b n => full 0x07a h n b a d
  | .vbrevSweep h d a b n => full 0x07b h n b a d
  | .vmovSweep h d a b n => full 0x07c h n b a d
  | .faddSweep h d a b n => full 0x0a0 h n b a d
  | .fsubSweep h d a b n => full 0x0a1 h n b a d
  | .fmulSweep h d a b n => full 0x0a2 h n b a d
  | .ffmaSweep h d a b n => full 0x0a3 h n b a d
  | .fminSweep h d a b n => full 0x0a4 h n b a d
  | .fmaxSweep h d a b n => full 0x0a5 h n b a d
  | .hadd2Sweep h d a b n => full 0x0b0 h n b a d
  | .hmul2Sweep h d a b n => full 0x0b1 h n b a d
  | .hfma2Sweep h d a b n => full 0x0b2 h n b a d
  | .q8addSweep h d a b n => full 0x0b3 h n b a d
  | .q8mulSweep h d a b n => full 0x0b4 h n b a d
  | .sweepIteration _ _ | .issueSelect _ _ | .ldResultWrite _ _ _ | .xResultWrite _ _ _ | .tileWordPerform _ _ _
  | .engineAccept _ _ | .engineDelivery _ _ _ | .engineCommandEnd _ | .kvLockAcquire _ | .kvLockTimeout _
  | .streamFetch _ _ | .graceSweep _ | .colourArrival _ | .watchdogExpiry _ | .launchAdmit _ | .teamPlace _ _ _ _ _
  | .noRoomTimeout _ _ _ | .classPreemptTimeout _ _ _ | .preemptStop _ | .saveComplete _ | .teamRestore _ _ _
  | .groupRestore _ _ _ | .faultRecordSend _ _ | .replyProcess _ | .dataFrame _ | .ack _ | .nak _ | .ackTimer
  | .resyncRequest _ | .hello _ | .close _ | .sessionTimeout | .launch _ | .wrap _ | .write _ | .read _ | .marker _
  | .pcreate | .pdestroy | .qcfg | .qreset | .cancel | .rack | .attest | .dreset | .info | .peers | .dieReset _
  | .linkTimeout _ | .meshTimeout _ | .responseArrival _ _ | .powerGood _ | .powerLimit | .limitClear | .powerLoss
  | .remoteRequest _ | .accessPerformed _ _ => 0

/-- The instruction that the decoder reads from a word of the table's numbering: bit 0 is the least significant bit of the
word, which is 64 bits long (02 R57); bits above `nbits` are 0. -/
def decodeTableWord (nbits w : Nat) : Option Instr :=
  match decode (w % 2 ^ min nbits 64) with
  | .ok i => some i
  | .bad _ _ => none

end Sys2Proof
end

