-- ==== Sys2Proof/Config.lean ====
section
/-! DEFINITION. What one implementation fixes and the spec does not state: uninterpreted constants (no body), applied to
plain data, and the sizes that the spec states once. A claim that holds of the model holds whatever these constants are. -/

namespace Sys2Proof.Config

/-- Whether a register read finds the outstanding variable-latency result already written: the choice of 02 R73.
Arguments: the value of `State.fresh`, the register's code and the lane (0 for a scalar register). Log entry 6. -/
opaque landed : Nat → Nat → Nat → Bool

/-- Which of the values that 05 R142 lets a read return it returns, where there is more than one. Arguments: the value of `State.fresh` and a
number of the read within its word. Log entry 5. -/
opaque older : Nat → Nat → Nat

/-- Whether replacement has dropped a read-only line of the L1 (04 R121), or a cached block-table entry (10 R318). Arguments: the value of
`State.fresh` and the line, or the entry's address. Log entries 92 and 107. -/
opaque dropped : Nat → Nat → Bool

/-- Whether the request of a lane is among those of a load that get no answer (16 R476). Arguments: the value of `State.fresh` and the lane. Log entry
106. -/
opaque lost : Nat → Nat → Bool

/-- The cycle-counter value that `srd` of CYC returns lies between issue and result (02 R54): how many clk after issue. Log entry 7. -/
opaque cycDelay : Nat → Nat

/-- Whether the verifier of firmware images tests the equation of RFC 8032 5.1.7 times 8, or as it stands: the RFC allows both. Log entry 30. -/
opaque edCofactor : Bool

/-- The private key of the module identity, derived inside the module at first bring-up (16 R482). Log entry 30. -/
opaque identitySeed : List Byte

/-- Where the control-group program of a firmware image starts (16 R480 step 6 states no entry point). Log entry 31. -/
opaque controlEntry : List Byte → Nat

/-- What the program of the image leaves in physical memory when bring-up loads it (16 R480 step 6). Log entry 31. -/
opaque controlImage : List Byte → List (Nat × Byte)

/-- The 64-bit value a peer module's device or memory answers is the byte the module's own table holds; a byte of a peer that
this module has never written is a free value (16 R475). Log entry 9. -/
opaque peerByte : Nat → Byte

/-- What TPC, WORD, PS and INFO1 of a trap record hold where the group stops between two words, with no trapping word and no second
information word (13 R374, R375): log entry 58. -/
opaque stopTpc : Nat → W64
/-- WORD of such a record. -/
opaque stopWord : Nat → W64
/-- PS of such a record. -/
opaque stopPath : Nat → Nat
/-- INFO1 of such a record. -/
opaque stopInfo : Nat → W64

/-- The station that a remote write takes (16 R475: station choice changes latency only): log entry 62. -/
opaque station : Nat → Nat
/-- The link-level retries that a station has counted since the last LINK event (16 R472), by `State.fresh` and the station: log entry 62. -/
opaque linkRetries : Nat → Nat → Nat
/-- Its uncorrectable flit errors since then. -/
opaque flitErrors : Nat → Nat → Nat

/-- The vendor's certificate for the module identity key, and where it stands in the firmware region (16 R482): log entry 30. -/
opaque certificate : Nat × List Byte

/-- Number of compute dies (00 R1). -/
def nDies : Nat := 8
/-- Core sites of a die (16 R457). -/
def nSites : Nat := 88
/-- Slots of a core in the model's numbering: 64 user slots (13 R379) and the control group's (01 R15). -/
def nSlots : Nat := 65

end Sys2Proof.Config
end

