-- ==== Sys2Proof/Machine/State.lean ====
section
/-! DEFINITION. The state of the module as plain data: every piece of state the spec names (INVENTORY.md, "State"), the model's
own bookkeeping fields (agenda, chosen, focus, fpath, fresh), the faults and refusals, and the state after reset.

Keys: a core is die × 88 + site (16 R457); a group's slot is core × 65 + slot, slot 64 being the control group's (01 R15,
13 R379); an engine slot is (core × 2 + engine) × 64 + slot (09 R287); teams, clusters and launches have numbers of their own. -/

namespace Sys2Proof.Machine

/-- A sparse table: keys strictly rising, no entry equal to the table's default. -/
abbrev Tab (α : Type) := List (Nat × α)

/-- Why the machine stops. No meaning raises one: every trap of the spec is a next state. -/
inductive Fault
  /-- Raised by no step; the type is closed. Safe. -/
  | never
  deriving DecidableEq, Repr

/-- Why an instruction has no meaning here. -/
inductive Refusal
  /-- An instruction that the model gives no meaning yet, by its mnemonic. Safe. -/
  | notModelled (mnemonic : String)
  deriving DecidableEq, Repr

/-- A byte location at its point of coherence (05 R134): physical memory, a team's scratchpad. A core's
control group has a team of its own, number 2^32 + core, for its control scratchpad (13 R370). -/
inductive Loc
  | gpa (pa : Nat)
  | sp (team off : Nat)
  deriving DecidableEq, Repr

/-- A trap record (13 R374). -/
structure TrapRec where
  cause : Nat
  reason : Nat
  ps : Nat
  fetch : Bool
  wr : Bool
  ucause : Nat
  lane : Nat
  tpc : W64
  word : W64
  addr : W64
  info0 : W64
  info1 : W64
  cyc : W64
  deriving DecidableEq, Repr

/-- One entry of a reconvergence stack (01 R33). -/
structure StackEnt where
  rpc : W64
  rmask : Mask
  full : Mask
  jpc : Option W64
  second : Bool
  deriving DecidableEq, Repr

/-- STATE of a path slot (13 R382). -/
inductive PSt | free | ready | waiting | parked deriving DecidableEq, Repr

/-- The register result of an outstanding write: the register and its new value in each lane written (02 R72); `q`: the register of a result that
step `n` of the tile unit is to give (08 R263). -/
inductive PRes
  | s (d : Nat) (v : W64)
  | v (d : Nat) (lanes : List (Nat × W32))
  | p (d : Nat) (lanes vals : Mask)
  | t (d : Nat)
  | q (n : Nat) (f : RF) (d : Nat)
  deriving DecidableEq, Repr

/-- An outstanding variable-latency result (02 R72): its class, its result, the word that asked for it, for a load of global memory the
lanes with the addresses that they wait for (16 R476, R477), and what the value depends on (05 R143, `Group.depOf`). -/
structure Pend where
  cls : RCls
  res : PRes
  tpc : W64
  word : W64
  remote : List (Nat × Nat)
  dep : Nat
  deriving DecidableEq, Repr

/-- What a waiting path records (13 R382): kind, values, the destination registers, the location it is registered at, the scope of its word (05
R152 to R154), and, of an arrival at `.sys`, the word, for the trap that reports a lost write (16 R476), else 0. -/
structure Wait where
  wk : Nat
  wv1 : W64
  wv2 : W64
  d : Nat
  c : Nat
  loc : Option Loc
  scp : Scope
  word : W64
  deriving DecidableEq, Repr

/-- A sweep in progress (06 R205, R207): the word, its operands read at issue, when it issued, the flags of each lane so far. -/
structure Sweep where
  i : Instr
  em : Mask
  sc : W64
  pr : Mask
  ad : Nat
  aa : Nat
  ab : Nat
  n : Nat
  at_ : Nat
  flags : List (Nat × BitVec 6)
  deriving DecidableEq, Repr

/-- A path slot (01 R33, 13 R382). -/
structure Path where
  pc : W64
  mask : Mask
  owned : Mask
  jpc : W64
  st : PSt
  stack : List StackEnt
  held : Bool
  park : Bool
  pend : List Pend
  wait : Option Wait
  sweep : Option Sweep
  swi : Nat
  lastCyc : Nat
  deriving DecidableEq, Repr

/-- One pending store of a group (07 R228): one indivisible access of one word (05 R133), its bytes in order, the lanes that make it
(05 R132), whether it is a release word's, and the scopes at which it acts as a release, those of earlier release fences too (05 R139). -/
structure Access where
  rel : Bool
  scps : List Scope
  lanes : Mask
  cells : List (Loc × Byte)
  deriving DecidableEq, Repr

/-- An agent of the consistency model that is a group (05 R131, R137): partition, launch and whether it is die-confined, cluster, team, group. -/
structure Who where
  part : Nat
  lid : Nat
  dc : Bool
  cluster : Nat
  team : Nat
  gid : Nat
  deriving DecidableEq, Repr

/-- A release at a location (05 R139, R140): who made it at which scope, the stamp of its write, the stamp of the first later write there
that is not an RMW's, and whether a read of any order that returns it acquires (05 R159). -/
structure Rel where
  loc : Loc
  who : Who
  scp : Scope
  start : Nat
  till : Option Nat
  plain : Bool
  deriving DecidableEq, Repr

/-- What a wait, a pop or a `ttest` takes from what it waited for (05 R147, R148, R152 to R154), as of a stamp: releases, by agent and scope, and
the locations that a command has written. -/
structure Sync where
  rels : List (Who × Scope)
  locs : List Loc
  at_ : Nat
  deriving DecidableEq, Repr

/-- An arrival that is counted in a phase of the phaser at a location (05 R152). -/
structure Arrival where
  loc : Loc
  phase : Nat
  sync : Sync
  deriving DecidableEq, Repr

/-- A value that a location held until the write of a stamp (05 R134): what a read may still return (05 R142). -/
structure Past where
  loc : Loc
  byte : Byte
  till : Nat
  deriving DecidableEq, Repr

/-- What a group has observed (05 R134, R140 to R143), in stamps of `State.now`: `base` when its grid began; `floor`, the writes that happen before
its next read; `seen`, the locations where it has seen more; `heard`, the releases that its reads have returned; `dep`, what the values of
registers depend on, by `regCode`; `fenced`, the scopes of its release fences (05 R139); `afence` at its last `fence.async` (05 R146); `rofloor`,
what its `ldr` must see, and `rinv`, whether an `rinv` awaits an acquire (05 R156). -/
structure Obs where
  base : Nat
  floor : Nat
  seen : List (List Loc × Nat)
  heard : List Rel
  dep : Tab Nat
  fenced : List Scope
  afence : Nat
  rofloor : Nat
  rinv : Bool
  deriving DecidableEq, Repr

/-- A full fence (05 R144): who executed it at which scope, and the stamp. -/
structure FullFence where
  who : Who
  scp : Scope
  at_ : Nat
  deriving DecidableEq, Repr

/-- A phaser registration slot (07 R240, 13 R380). -/
structure RegSlot where
  h : W64
  mode : PhMode
  free : Bool
  ever : Bool
  mp : Nat
  deriving DecidableEq, Repr

/-- A fault held back for one lane of a stream round (09 R310): the lane and the address. -/
structure StreamFault where
  lane : Nat
  addr : W64
  deriving DecidableEq, Repr

/-- One fetched round of a stream (09 R310). -/
structure StreamRound where
  vals : List (Nat × W64)
  faults : List StreamFault
  deriving DecidableEq, Repr

/-- A stream (09 R307 to R311, 13 R380): CFG, descriptor as read, round counter, fetched rounds, a suspending
fault record, the 64 KiB ranges that were declared unresolvable (15 R449), and the member that its next round waits for (01 R30). -/
structure Stream where
  cfg : Bool
  desc : List Byte
  rnd : Nat
  rounds : List StreamRound
  susp : Option Nat
  bad : List Nat
  stall : Option Nat
  deriving DecidableEq, Repr

/-- A read section whose end waits for accesses (05 R157): how many pending accesses, the streams whose reads are not all performed (09 R310),
its colour, its section number. -/
structure SecEnd where
  n : Nat
  strm : List Nat
  col : Bool
  sec : Nat
  deriving DecidableEq, Repr

/-- Why a stopped or saved group cannot go on by itself (14 R415, 15 R444). -/
inductive Hold
  | none
  | page
  | ctl
  | saved
  deriving DecidableEq, Repr

/-- What a tile word does to its group's tiles, with its register and memory operands as read at issue (08 R263 to R270, R277 to R279; 10 R339,
R341): an ill-formed block; a split product of blocks, a dense product of bytes; zeroing; loaded elements; scaling; storing rows; reading rows;
the status word; `smax`; the merged rows of `cred` with their log-sums, status words and flags. -/
inductive TOp
  | bad (d why : Nat)
  | merge (d : Nat) (em : Mask) (ta : Ty) (body hsm : Bool) (regs : List (Nat × List W32)) (blocks : List (List (List Byte)))
  | dense (d : Nat) (em : Mask) (tb ta : Ty) (st : Bool) (c : Nat) (regs : List (Nat × List W32)) (bytes : List Byte)
  | zero (d : Nat)
  | load (d : Nat) (full : Bool) (vals : List (Nat × Nat × W32))
  | scale (d : Nat) (vals : List (Nat × W32))
  | store (i32 : Bool) (d : Nat) (em : Mask) (rows : List (Nat × List Loc))
  | read (i32 : Bool) (d a : Nat) (em : Mask)
  | stat (clr : Bool) (d a : Nat)
  | smax (d a : Nat) (rows : List (Nat × W32 × W32 × Nat))
  | cred (d a : Nat) (rows : List (Nat × List W32 × W32 × W32)) (f : BitVec 6)
  deriving DecidableEq, Repr

/-- A tile word that waits in the tile unit behind a `qmm` (08 R263), and its number. -/
structure TStep where
  n : Nat
  op : TOp
  deriving DecidableEq, Repr

/-- A resident group (01 R14 to R41, 02 R48 to R56, 13 R380 to R382). Vector registers: key reg × 64 + lane. Tile elements: key
tile × 1024 + row × 16 + column.
`tileq`: the tile words that wait in the tile unit. `wds`: the last read section that the watchdog stopped (13 R390). `deaf`: the next read of a
peer, or for `true` of another die, by a class-6 word, a fetch or a `red` gets no answer (16 R476, R477). -/
structure Group where
  ctl : Bool
  lid : Nat
  part : Nat
  asid : Nat
  team : Nat
  core : Nat
  gid : Nat
  rank : Nat
  w : Nat
  nv : Nat
  nt : Nat
  octet : Nat
  hpc : W64
  pri : Nat
  cx : Nat
  cy : Nat
  cz : Nat
  gsh0 : W64
  gsh1 : W64
  vreg : Tab W32
  sreg : Tab W64
  preg : Tab Mask
  tile : Tab W32
  tstat : Tab W32
  tileq : List TStep
  fm : W64
  sc : W64
  fps : W64
  rsd : Nat
  col : Bool
  wdt : Nat
  wds : Option Nat
  sec : Nat
  ends : List SecEnd
  fq : Tab W32
  slots : Tab RegSlot
  streams : Tab Stream
  p0 : Path
  p1 : Path
  orph : List Pend
  uhc : Nat
  hpath : Nat
  qrc : Nat
  stopped : Bool
  hold : Hold
  preempt : Bool
  trap : Option TrapRec
  flt : List Nat
  fltBad : Bool
  sbuf : List Access
  obs : Obs
  deaf : Option Bool
  lostRemote : Option Nat
  age : Nat
  idle : Nat
  lastPath : Nat
  deriving DecidableEq, Repr

/-- A member's part of a quad rendezvous (08 R280): its group and path, the word's operands read at issue; `void` where a mismatch stopped the
word, which is to be reissued in this place (08 R281). -/
structure QArr where
  g : Nat
  gk : Nat
  path : Nat
  tag : Nat
  tb : Ty
  ta : Ty
  st : Bool
  d : Nat
  em : Mask
  pk : Bool
  quarter : List W32
  aregs : List (Nat × List W32)
  word : W64
  void : Bool
  deriving DecidableEq, Repr

/-- A command queue of a team (09 R288, R296): halted, the halt handed out (13 R397), commands issued and not accepted. -/
structure Queue where
  halted : Bool
  handed : Bool
  cmds : List Nat
  deriving DecidableEq, Repr

/-- A team (01 R14, R21, R22, R26): its scratchpad bytes (unlisted: 0), phaser offsets, queues, rendezvous and whereabouts. -/
structure Team where
  lid : Nat
  cluster : Nat
  rank : Nat
  core : Nat
  part : Nat
  sps : Nat
  spb : Nat
  tg : Nat
  spm : List Host.Cell
  phasers : List Nat
  cq : Queue
  gq : Queue
  quads : List QArr
  ended : List Nat
  past : Bool
  saved : Bool
  tfa : Nat
  deriving DecidableEq, Repr

/-- A cluster whose first member has started (01 R28, R29): its cores by rank, the ranks started and ended. -/
structure Cluster where
  lid : Nat
  idx : Nat
  cores : List Nat
  started : List Nat
  ended : List Nat
  deriving DecidableEq, Repr

/-- The fields of a launch record (01 R17, R18). -/
structure LRec where
  entry : Nat
  hpc : Nat
  gx : Nat
  gy : Nat
  gz : Nat
  cw : Nat
  ch : Nat
  tg : Nat
  gw : Nat
  vr : Nat
  nt : Nat
  sps : Nat
  pri : Nat
  dc : Bool
  part : Nat
  spb : Nat
  param : Nat
  tag : Nat
  nd : Nat
  deps : List (Nat × Nat × Nat × Nat)
  deriving DecidableEq, Repr

/-- An admitted launch (14 R407, R409): its record, queue, sequence number, address space, progress and end status; and the stamp of `State.now`
at its admission, since when its `ldr` may return what a location held (04 R121). -/
structure Launch where
  lr : LRec
  lq : Nat
  rseq : Nat
  asid : Nat
  next : Nat
  teams : Nat
  die : Option Nat
  unpl : Bool
  abort : Option Nat
  began : Nat
  deriving DecidableEq, Repr

/-- A launch queue (14 R408, 16 R462 to R469): its ring with the bytes in use and a record that it cannot hold; the launch that waits for
admission (RSEQ, record, ring offset); the clk until the next record may be taken (TST); MARKERs that wait, each with RSEQ, TAG and the first
launch number that is not earlier; cancelled RSEQs; the RSEQs of finished records; the least RSEQ that QRESET allows; the fault records that hold
a host access, and whether one was declared unresolvable. -/
structure LQueue where
  part : Option Nat
  next : Nat
  halt : Bool
  depw : Bool
  base : Nat
  size : Nat
  woff : Nat
  coff : Nat
  used : Nat
  stuck : Option (List Byte)
  tst : Nat
  gap : Nat
  head : Option (Nat × LRec × Nat)
  markers : List (Nat × Nat × Nat)
  cancels : List Nat
  done : List Nat
  floor : Nat
  hold : List Nat
  bad : Bool
  eseq : Nat
  deriving DecidableEq, Repr

/-- A deferred-free entry (14 R428), and its place in the ring. -/
structure DfEnt where
  addr : Nat
  sc : Nat
  pool : Nat
  target : Nat
  idx : Nat
  deriving DecidableEq, Repr

/-- Who is attached to a fault record (15 R445, R449). -/
inductive Attached
  | group (lid team gid : Nat)
  | engine (slot : Nat)
  | stream (lid team gid k : Nat)
  | host (lq : Nat)
  deriving DecidableEq, Repr

/-- A fault record, to be sent or outstanding (15 R445, R446). -/
structure FaultRec where
  fid : Nat
  sent : Bool
  asid : Nat
  kind : Nat
  why : Nat
  va : Nat
  lvl : Nat
  src : Nat
  die : Nat
  site : Nat
  att : List Attached
  deriving DecidableEq, Repr

/-- A live partition (15 R433 to R435, 14 R404, R405, R423, R428); `gtick` is the clk since the last sweep. OC and KC: key core × 2 + colour. -/
structure Part where
  dies : Nat
  lsk : Nat
  rsk : Nat
  nas : Nat
  pcba : Nat
  ast : Nat
  fra : Nat
  frc : Nat
  rra : Nat
  rrc : Nat
  qasa : Nat
  lqmap : Nat
  rsz : List Nat
  gri : Nat
  gtick : Nat
  swd : Nat
  pth : Nat
  lkt : Nat
  npool : Nat
  pta : Nat
  dfqa : Nat
  dfqc : Nat
  fpa : Nat
  fpl : Nat
  gsq : Nat
  cc : Bool
  old : Bool
  drain : Bool
  pend : Bool
  oc : Tab Nat
  swc0 : Nat
  swc1 : Nat
  kc : Tab Nat
  dfq : List DfEnt
  dfn : Nat
  faults : List FaultRec
  fid : Nat
  frames : List (Nat × Nat)
  eseq : Nat
  deriving DecidableEq, Repr

/-- A waiting `tqpop` (07 R253, 14 R422): the group and path that wait. -/
structure TqWait where
  lid : Nat
  team : Nat
  gid : Nat
  path : Nat
  deriving DecidableEq, Repr

/-- A tile queue (07 R251, 14 R432): assigned, open, ring counters, waiting pops in order; and what pops acquire (05 R154): from the push of each
entry in the ring, and from the close. -/
structure TQueue where
  en : Bool
  closed : Bool
  head : Nat
  tail : Nat
  waits : List TqWait
  pushes : List Sync
  closing : Option Sync
  deriving DecidableEq, Repr

/-- What a phaser has counted of a command and not received (07 R245): its address as the engine accesses it. -/
structure Counted where
  glob : Bool
  addr : Nat
  left : Nat
  deriving DecidableEq, Repr

/-- Progress of a command in an engine slot (09 R288 to R294): in its queue, waiting for a descriptor's lock (10 R324), running,
stopped and not yet ended. -/
inductive CmdSt | queued | lockWait | active | done deriving DecidableEq, Repr

/-- A command (09 R285 to R306, 10 R322 to R337): its kind, block, token and issuer; its frequency table and read section; its
progress; the page it waits for and the 64 KiB ranges declared unresolvable; values read once (indices, or the attend bits of `kvld`);
source bytes of a 4-byte word read ahead of their delivery (05 R133); descriptors as read; how it ends; the clk it has waited for a lock;
and the stamps from which its reads of global memory and of scratchpad see every write (05 R146, R147).
`deaf`: its next read of a peer, or of another die, gets no answer (16 R476, R477). -/
structure Cmd where
  word : Nat
  blk : List Byte
  token : W64
  team : Nat
  gid : Nat
  lid : Nat
  part : Nat
  asid : Nat
  nt : Nat
  fq : Tab W32
  sec : Option (Nat × Bool)
  st : CmdSt
  pos : Nat
  delivered : Nat
  counted : List Counted
  served : Nat
  susp : Option Nat
  bad : List Nat
  idxs : List Nat
  ahead : List Byte
  desc : Nat
  sdesc : Nat
  descPa : Nat
  len : Nat
  npos : Nat
  rsn : Nat
  test : Nat
  faddr : Nat
  epos : Nat
  waited : Nat
  gfloor : Nat
  sfloor : Nat
  deaf : Option Bool
  deriving DecidableEq, Repr

/-- An engine slot (09 R286, R287): its sequence number, who holds it, status, observed, command; the locations that its command has written,
and what the completion of each of its commands gives those that observe it (05 R147, R148, R153), by sequence number. -/
structure EngSlot where
  seq : Nat
  used : Bool
  held : Bool
  status : Nat
  team : Nat
  gid : Nat
  lid : Nat
  cmd : Option Cmd
  wrote : List Loc
  past : List (Nat × Sync)
  deriving DecidableEq, Repr

/-- A cached translation (15 R441): partition, ASID, first address and size of the page, the leaf entry and where it was read. -/
structure TlbEnt where
  part : Nat
  asid : Nat
  base : Nat
  size : Nat
  pte : W64
  deriving DecidableEq, Repr

/-- A cached block-table entry (10 R318): ASID, address of the entry, descriptor it was read through, the 16 bytes. -/
structure BtEnt where
  asid : Nat
  va : Nat
  desc : Nat
  bytes : List Byte
  deriving DecidableEq, Repr

/-- An event that waits for `halt` (13 R396, R397): when it arose, the slot it names then, its kind, and for kind 2 the queue: team × 2 +
engine. -/
structure CoreEv where
  cyc : Nat
  slot : Nat
  kind : Nat
  queue : Nat
  deriving DecidableEq, Repr

/-- A read-only line (04 R121): its number, the stamp at which it was filled, its bytes. -/
structure RoLine where
  line : Nat
  at_ : Nat
  bytes : List Byte
  deriving DecidableEq, Repr

/-- A core (13 R370, R392, R396; 04 R116, R121; 10 R318; 14 R412, R424). -/
structure Core where
  sps : Nat
  faulted : Bool
  preq : Nat
  events : List CoreEv
  ro : List RoLine
  btc : List BtEnt
  colour : Bool
  resv : Option (Nat × Nat)
  deriving DecidableEq, Repr

/-- A die (16 R459, R477 to R479; 15 R441). -/
structure Die where
  cyc : Nat
  rgen : Nat
  stale : Nat
  cen : Nat
  sen : Nat
  part : Option Nat
  tlb : List TlbEnt
  resetting : Bool
  eseq : Nat
  deriving DecidableEq, Repr

/-- A saved group (13 R380, R387, R398): its frame in memory and what the scheduler keeps of it. -/
structure Saved where
  addr : Nat
  len : Nat
  parked : Bool
  team : Nat
  grp : Group
  deriving DecidableEq, Repr

/-- A peer-table entry (16 R467). -/
structure Peer where
  v : Bool
  psk : Nat
  paid : Nat
  pbase : Nat
  deriving DecidableEq, Repr

/-- A frame the module sends (16 R460): type, NAK reason, SSEQ, ASEQ, SID, payload. -/
structure OutFrame where
  typ : Nat
  flags : Nat
  sseq : Nat
  aseq : Nat
  sid : Nat
  payload : List Byte
  deriving DecidableEq, Repr

/-- The Swevos transport (16 R460 to R464). -/
structure Transport where
  live : Bool
  sid : Nat
  endpoint : Nat
  txNext : Nat
  rxNext : Nat
  acked : Nat
  kept : List (Nat × List Byte)
  backlog : List (List Byte)
  dropped : Nat
  unacked : Nat
  discarded : Nat
  rseq : Nat
  mgmt : List (List Byte)
  eseq : Nat
  out : List OutFrame
  deriving DecidableEq, Repr

/-- An open bias recall (15 R453, 16 R474): identifier, the control group that waits, partition, acknowledged, the first byte and the size of
the page. -/
structure Recall where
  id : Nat
  gk : Nat
  part : Nat
  acked : Bool
  base : Nat
  bytes : Nat
  deriving DecidableEq, Repr

/-- A UALink station's counters (16 R472). -/
structure Station where
  lost : Nat
  retries : Nat
  flits : Nat
  deriving DecidableEq, Repr

/-- A team, or a saved team, that finds no room (14 R414): its launch, cluster index and rank, and for how many clk. -/
structure Roomless where
  lid : Nat
  idx : Nat
  rank : Nat
  clk : Nat
  deriving DecidableEq, Repr

/-- An internal event that is due (log entry 4): each is one of the events of `Instr`, with its operands. -/
inductive Due
  | sweepIteration (gk p : Nat)
  | issueSelect (core q : Nat)
  | result (c : RCls) (gk p : Nat)
  | accessPerformed (gk : Nat)
  | engineAccept (team eng : Nat)
  | engineDelivery (slot : Nat)
  | engineCommandEnd (slot : Nat)
  | kvLockAcquire (slot : Nat)
  | streamFetch (gk k : Nat)
  | graceSweep (part : Nat)
  | colourArrival (core : Nat)
  | watchdogExpiry (gk : Nat)
  | launchAdmit (q : Nat)
  | teamPlace (lid cl rank core tg : Nat)
  | noRoomTimeout (lid cl : Nat) (slots : List Nat)
  | classPreempt (lid cl : Nat) (slots : List Nat)
  | kvLockTimeout (slot : Nat)
  | preemptStop (gk : Nat)
  | saveComplete (gk : Nat)
  | teamRestore (team core n : Nat)
  | groupRestore (idx core : Nat)
  | faultRecordSend (part idx : Nat)
  | replyProcess (part : Nat)
  | record (q code : Nat)
  | management (code : Nat)
  | ackTimer
  | dieReset (die : Nat)
  deriving DecidableEq, Repr

/-- The state of the module. `now` counts the writes performed so far, the stamp of the last one; `hist`, newest first, holds the values that
writes replaced, `rels` the releases, `fences` the full fences (05 R139 to R145) and `arrivals` those at phasers (05 R152). `poison` names the
128-byte lines of memory whose data carry an uncorrectable error (13 R375, R403): the memory's own state, which no step of the module changes (log
entry 51). -/
structure State where
  agenda : List Instr
  todo : List Due
  chosen : List Nat
  focus : Nat
  fpath : Nat
  fresh : Nat
  mem : List Host.Cell
  peerMem : List Host.Cell
  now : Nat
  hist : List Past
  rels : List Rel
  fences : List FullFence
  arrivals : List Arrival
  powered : Bool
  up : Bool
  mhz : Nat
  qta : Nat
  mra : Nat
  fwver : Nat
  serial : Nat
  skcap : List Nat
  image : Option Image
  rom : List Byte
  rollback : Nat
  confirmed : Bool
  dies : Tab Die
  cores : Tab Core
  groups : Tab Group
  teams : Tab Team
  nextTeam : Nat
  clusters : Tab Cluster
  nextCluster : Nat
  launches : Tab Launch
  nextLaunch : Nat
  roomless : List Roomless
  lqs : Tab LQueue
  parts : Tab Part
  tqs : Tab TQueue
  engs : Tab EngSlot
  saved : List Saved
  peers : Tab Peer
  tp : Transport
  recalls : List Recall
  nextRecall : Nat
  stations : Tab Station
  nextSec : Nat
  poison : List Nat
  deriving DecidableEq, Repr

/-- The transport at power-on (16 R463): no session, all counts 0. -/
def Transport.init : Transport :=
  { live := false, sid := 0, endpoint := 0, txNext := 0, rxNext := 0, acked := 0, kept := [], backlog := [], dropped := 0,
    unacked := 0, discarded := 0, rseq := 0, mgmt := [], eseq := 0, out := [] }

/-- The module before power-good (16 R480): nothing is enabled, no partition, no group, no session; memory lists nothing. -/
def State.reset : State :=
  { agenda := [], todo := [], chosen := [], focus := 0, fpath := 0, fresh := 0, mem := [], peerMem := [], now := 0, hist := [],
    rels := [], fences := [], arrivals := [], powered := true, up := false,
    mhz := 600, qta := 0, mra := 0, fwver := 0, serial := 0, skcap := [], image := none, rom := [], rollback := 0,
    confirmed := false, dies := [], cores := [], groups := [], teams := [], nextTeam := 0, clusters := [], nextCluster := 0,
    launches := [], nextLaunch := 0, roomless := [], lqs := [], parts := [], tqs := [], engs := [], saved := [], peers := [],
    tp := Transport.init, recalls := [], nextRecall := 0, stations := [], nextSec := 0, poison := [] }

end Sys2Proof.Machine
end

