-- ==== Sys2Proof/Machine/Tab.lean ====
section
/-! DEFINITION. Sparse tables and memory: reading, writing, and the canonical form (keys strictly rising, no entry equal to the
default). Memory is the table whose default is the byte that nothing has written, 0 (log entry 1). -/

namespace Sys2Proof.Machine

/-- The entry at `k`, if the table lists one (the keys compared by `Nat.beq`, which a kernel evaluates at once). -/
def tfind? {α : Type} : Tab α → Nat → Option α
  | [], _ => none
  | (k', v) :: r, k => bif Nat.beq k' k then some v else tfind? r k

/-- The value at `k`: the default where nothing is listed. -/
def tget {α : Type} (dflt : α) (t : Tab α) (k : Nat) : α := (tfind? t k).getD dflt

/-- Lists `v` at `k`, in place of an older entry. -/
def tput {α : Type} (t : Tab α) (k : Nat) (v : α) : Tab α :=
  match t with
  | [] => [(k, v)]
  | (k', v') :: r => if k < k' then (k, v) :: (k', v') :: r else if k' = k then (k, v) :: r else (k', v') :: tput r k v

/-- Removes what is listed at `k`. -/
def tdel {α : Type} (t : Tab α) (k : Nat) : Tab α :=
  match t with
  | [] => []
  | (k', v') :: r => if k' = k then tdel r k else (k', v') :: tdel r k

/-- Writes `v` at `k`, keeping the canonical form: the default is never listed. -/
def tset {α : Type} [DecidableEq α] (dflt : α) (t : Tab α) (k : Nat) (v : α) : Tab α :=
  if v = dflt then tdel t k else tput t k v

/-- Applies `f` to the entry at `k`, if there is one. -/
def tmod {α : Type} (t : Tab α) (k : Nat) (f : α → α) : Tab α :=
  match t with
  | [] => []
  | (k', v') :: r => if k' = k then (k', f v') :: r else (k', v') :: tmod r k f

/-- Keys strictly rising. -/
def tsorted {α : Type} : Tab α → Bool
  | [] => true
  | [_] => true
  | a :: b :: r => decide (a.1 < b.1) && tsorted (b :: r)

/-- The canonical form of a table. -/
def twf {α : Type} [DecidableEq α] (dflt : α) (t : Tab α) : Bool := tsorted t && t.all fun e => decide (e.2 ≠ dflt)

/-- What a byte of memory that nothing has written reads as. Log entry 1. -/
def unlisted : Byte := 0#8

/-- The canonical form of a memory. -/
def Memory.wf (m : List Host.Cell) : Bool := twf unlisted m

/-- The byte at an address. -/
def Memory.read (m : List Host.Cell) (a : Nat) : Byte := tget unlisted m a

/-- Writes one byte. -/
def Memory.write (m : List Host.Cell) (a : Nat) (b : Byte) : List Host.Cell := tset unlisted m a b

/-- Writes bytes at consecutive addresses. -/
def Memory.writes (m : List Host.Cell) (a : Nat) : List Byte → List Host.Cell
  | [] => m
  | b :: bs => Memory.writes (Memory.write m a b) (a + 1) bs

/-- `n` bytes from an address up. -/
def Memory.reads (m : List Host.Cell) (a n : Nat) : List Byte := (List.range n).map fun i => Memory.read m (a + i)

/-- The little-endian number of `n` bytes at an address (00 R6). -/
def Memory.num (m : List Host.Cell) (a n : Nat) : Nat := leNat (Memory.reads m a n)

/-- The elements that pass, of a list taken in order. -/
def dropIdx {α : Type} (l : List α) (i : Nat) : List α := l.take i ++ l.drop (i + 1)

/-- Replaces element `i`. -/
def setIdx {α : Type} (l : List α) (i : Nat) (f : α → α) : List α :=
  match l, i with
  | [], _ => []
  | x :: r, 0 => f x :: r
  | x :: r, i + 1 => x :: setIdx r i f

/-- Bit `i` of a mask. -/
def mbit (m : Mask) (i : Nat) : Bool := m.getLsbD i

/-- The lanes of a mask, ascending. -/
def lanesOf (m : Mask) : List Nat := (List.range 64).filter fun i => m.getLsbD i

/-- The mask of a list of lanes. -/
def maskOf (l : List Nat) : Mask := l.foldl (fun m i => m ||| (1#64 <<< i)) 0#64

/-- The mask of lanes 0 to w − 1. -/
def fullMask (w : Nat) : Mask := BitVec.ofNat 64 (2 ^ w - 1)

end Sys2Proof.Machine
end

