-- ==== Sys2Proof/Machine/Flags.lean ====
section
/-! DEFINITION. The FP status word (02 R55, R56): raising flags, and the arithmetic trap of an enabled flag. Flags are bits NV, DZ, OF,
UF, NX, SAT from bit 0. -/

namespace Sys2Proof.Machine

/-- A set of flags of FPS. -/
abbrev FFlags := BitVec 6

/-- NV, invalid operation. -/
def fNV : FFlags := 1#6
/-- DZ, division by zero. -/
def fDZ : FFlags := 2#6
/-- OF, overflow. -/
def fOF : FFlags := 4#6
/-- UF, tiny and inexact. -/
def fUF : FFlags := 8#6
/-- NX, inexact. -/
def fNX : FFlags := 16#6
/-- SAT, a result was clamped. -/
def fSAT : FFlags := 32#6

/-- The union of flags. -/
def orFlags (l : List FFlags) : FFlags := l.foldl (· ||| ·) 0#6

/-- The flags whose enable bit is set (02 R55). -/
def Group.enabled (g : Group) (f : FFlags) : FFlags := f &&& BitVec.ofNat 6 (bits g.fps.toNat 8 6)

/-- ORs flags into FPS (02 R56). -/
def Group.raise (g : Group) (f : FFlags) : Group := { g with fps := g.fps ||| f.setWidth 64 }

/-- The lanes in which an enabled flag was raised (02 R56). -/
def Group.enabledLanes (g : Group) (l : List (Nat × FFlags)) : Mask :=
  maskOf ((l.filter fun e => g.enabled e.2 ≠ 0#6).map (·.1))

end Sys2Proof.Machine
end

