-- ==== Sys2Proof/Machine/Float.lean ====
section
/-! DEFINITION. Number formats and rounding (03 R82 to R92): exact values, decoding, one rounding, the exact sum and product, and
conversions to integers. -/

namespace Sys2Proof.Machine

/-- A decoded value (03 R85): a NaN with its sign, an infinity, or (−1)^s × m × 2^e; m = 0 is a zero with a sign. -/
inductive FV
  | nan (s : Bool)
  | inf (s : Bool)
  | fin (s : Bool) (m : Nat) (e : Int)
  deriving DecidableEq, Repr

/-- What a format's largest codes stand for (03 R82). -/
inductive FKind
  /-- Top exponent: infinities and NaNs. -/
  | ieee
  /-- E4M3: one NaN code, no infinity. -/
  | fn
  /-- E2M1: numbers only. -/
  | plain
  deriving DecidableEq, Repr

/-- A floating format: mantissa bits, exponent bits, bias, and its special codes (03 R82). -/
structure Fmt where
  f : Nat
  eb : Nat
  bias : Nat
  kind : FKind
  deriving DecidableEq, Repr

/-- FP32 (03 R82). -/
def fp32 : Fmt := ⟨23, 8, 127, .ieee⟩
/-- BF16 (03 R82). -/
def bf16 : Fmt := ⟨7, 8, 127, .ieee⟩
/-- E5M2 (03 R82). -/
def e5m2 : Fmt := ⟨2, 5, 15, .ieee⟩
/-- E4M3 (03 R82). -/
def e4m3 : Fmt := ⟨3, 4, 7, .fn⟩
/-- E2M1 (03 R82, R84). -/
def e2m1 : Fmt := ⟨1, 2, 1, .plain⟩

/-- Bits below the sign. -/
def Fmt.mag (t : Fmt) : Nat := t.f + t.eb

/-- Bits of a code. -/
def Fmt.width (t : Fmt) : Nat := t.mag + 1

/-- The magnitude code of the largest finite value (03 R82, R85). -/
def Fmt.maxCode (t : Fmt) : Nat :=
  match t.kind with
  | .ieee => 2 ^ t.mag - 2 ^ t.f - 1
  | .fn => 2 ^ t.mag - 2
  | .plain => 2 ^ t.mag - 1

/-- The exponent of the smallest quantum: 2^(1 − B − F) (03 R85). -/
def Fmt.qmin (t : Fmt) : Int := 1 - (t.bias : Int) - (t.f : Int)

/-- A code from a sign and a magnitude code. -/
def Fmt.code (t : Fmt) (s : Bool) (m : Nat) : Nat := b2n s * 2 ^ t.mag + m

/-- The canonical NaN with a sign (03 R86). E2M1 has none. -/
def Fmt.nanCode (t : Fmt) (s : Bool) : Nat :=
  match t.kind with
  | .ieee => t.code s (2 ^ t.mag - 2 ^ t.f + 2 ^ (t.f - 1))
  | .fn => t.code s (2 ^ t.mag - 1)
  | .plain => 0

/-- The value of a code (03 R84, R85). -/
def Fmt.dec (t : Fmt) (c : Nat) : FV :=
  let s := c.testBit t.mag
  let m := c % 2 ^ t.mag
  if m > t.maxCode then
    (match t.kind with
     | .ieee => if m % 2 ^ t.f = 0 then .inf s else .nan s
     | _ => .nan s)
  else
    let e := m / 2 ^ t.f
    if e = 0 then .fin s m t.qmin else .fin s (2 ^ t.f + m % 2 ^ t.f) (t.qmin + (e - 1 : Nat))

/-- Whether a magnitude is rounded up, away from zero: `q` is odd, `r` and `h` the remainder and half of the quantum (03 R88). -/
def roundUp (mode : Rnd) (s odd : Bool) (r h : Nat) : Bool :=
  match mode with
  | .rne => decide (r > h) || (r == h && odd)
  | .rz => false
  | .ru => r != 0 && !s
  | .rd => r != 0 && s

/-- m × 2^e as a multiple of 2^q, rounded (03 R88), and whether that is inexact. -/
def quantise (mode : Rnd) (s : Bool) (m : Nat) (e q : Int) : Nat × Bool :=
  if q ≤ e then (m * 2 ^ (e - q).toNat, false)
  else
    let k := (q - e).toNat
    let n := m / 2 ^ k
    let r := m % 2 ^ k
    (n + b2n (roundUp mode s (n % 2 == 1) r (2 ^ (k - 1))), r != 0)

/-- The direction of a rounding relative to the sign of the result (03 R90). -/
def awayFromZero (mode : Rnd) (s : Bool) : Bool :=
  match mode with
  | .rne => true
  | .rz => false
  | .ru => !s
  | .rd => s

/-- The result of an overflow (03 R90). -/
def Fmt.overflow (t : Fmt) (mode : Rnd) (sat s : Bool) : Nat × FFlags :=
  if awayFromZero mode s then
    if sat || t.kind = .plain then (t.code s t.maxCode, fSAT ||| fNX)
    else if t.kind = .fn then (t.nanCode s, fOF ||| fNX)
    else (t.code s (t.maxCode + 1), fOF ||| fNX)
  else (t.code s t.maxCode, fOF ||| fNX)

/-- `RND(x, fmt, mode)` with `.sat` (03 R88 to R90; for E2M1 06 R196): the code and the flags. -/
def Fmt.round (t : Fmt) (mode : Rnd) (sat : Bool) (x : FV) : Nat × FFlags :=
  match x with
  | .nan s => if t.kind = .plain then (0, fNV) else (t.nanCode s, 0#6)
  | .inf s =>
    (match t.kind with
     | .ieee => (t.code s (t.maxCode + 1), 0#6)
     | .fn => if sat then (t.code s t.maxCode, fSAT ||| fNX) else (t.nanCode s, fNV)
     | .plain => (t.code s t.maxCode, fSAT ||| fNX))
  | .fin s m e =>
    if m = 0 then (t.code s 0, 0#6)
    else
      let q := e + (m.log2 : Int) - t.f
      let u := max q t.qmin
      let (n, nx) := quantise mode s m e u
      let code := n + (u - t.qmin).toNat * 2 ^ t.f
      if code > t.maxCode then t.overflow mode sat s
      else
        let un := (quantise mode s m e q).1
        let tiny := decide (q < t.qmin) && (decide (q + 1 < t.qmin) || decide (un < 2 ^ (t.f + 1)))
        (t.code s code, if nx then (if tiny then fUF ||| fNX else fNX) else 0#6)

/-- The negation of a value; a NaN's sign is kept, for it is an operand's own (03 R86). -/
def FV.neg : FV → FV
  | .nan s => .nan s
  | .inf s => .inf !s
  | .fin s m e => .fin (!s) m e

/-- The sign of a value. -/
def FV.sign : FV → Bool
  | .nan s => s
  | .inf s => s
  | .fin s _ _ => s

/-- Whether a value is a NaN. -/
def FV.isNan : FV → Bool
  | .nan _ => true
  | _ => false

/-- Whether a value is a zero. -/
def FV.isZero : FV → Bool
  | .fin _ m _ => m == 0
  | _ => false

/-- Whether a value is an infinity. -/
def FV.isInf : FV → Bool
  | .inf _ => true
  | _ => false

/-- A signed integer times 2^e as a value; `z` is the sign of an exact zero. -/
def FV.ofInt (z : Bool) (i : Int) (e : Int) : FV := if i = 0 then .fin z 0 e else .fin (decide (i < 0)) i.natAbs e

/-- A finite value as an integer multiple of 2^q, for q at most its exponent. -/
def scaled (s : Bool) (m : Nat) (e q : Int) : Int :=
  let v : Int := (m * 2 ^ (e - q).toNat : Nat)
  if s then -v else v

/-- The exact sum (03 R88); the mode gives the sign of an exact zero (06 R193). NV for ∞ − ∞ (03 R92). -/
def FV.add (mode : Rnd) (x y : FV) : FV × FFlags :=
  match x, y with
  | .nan s, _ => (.nan s, 0#6)
  | _, .nan s => (.nan s, 0#6)
  | .inf s, .inf t => if s = t then (.inf s, 0#6) else (.nan false, fNV)
  | .inf s, _ => (.inf s, 0#6)
  | _, .inf s => (.inf s, 0#6)
  | .fin s m e, .fin t n f =>
    let q := min e f
    let z := if m = 0 && n = 0 && s = t then s else decide (mode = .rd)
    (FV.ofInt z (scaled s m e q + scaled t n f q) q, 0#6)

/-- The exact product (03 R88). NV for 0 × ∞ (03 R92). -/
def FV.mul (x y : FV) : FV × FFlags :=
  match x, y with
  | .nan s, _ => (.nan s, 0#6)
  | _, .nan s => (.nan s, 0#6)
  | .inf s, .inf t => (.inf (s != t), 0#6)
  | .inf s, .fin t n _ => if n = 0 then (.nan false, fNV) else (.inf (s != t), 0#6)
  | .fin s m _, .inf t => if m = 0 then (.nan false, fNV) else (.inf (s != t), 0#6)
  | .fin s m e, .fin t n f => (.fin (s != t) (m * n) (e + f), 0#6)

/-- The exact product and sum (03 R88): 0 × ∞ raises NV even if the addend is NaN, whose sign the result then has (03 R86, R92). -/
def FV.fma (mode : Rnd) (x y z : FV) : FV × FFlags :=
  let p := x.mul y
  if x.isNan || y.isNan then p
  else if z.isNan then (z, p.2)
  else if p.1.isNan then p
  else p.1.add mode z

/-- Rounds a result and joins its flags. -/
def Fmt.roundR (t : Fmt) (mode : Rnd) (sat : Bool) (x : FV × FFlags) : Nat × FFlags :=
  let r := t.round mode sat x.1
  (r.1, x.2 ||| r.2)

/-- An FP32 value. -/
def dec32 (x : W32) : FV := fp32.dec x.toNat

/-- An FP32 result. -/
def rnd32 (mode : Rnd) (sat : Bool) (x : FV × FFlags) : W32 × FFlags :=
  let r := fp32.roundR mode sat x
  (BitVec.ofNat 32 r.1, r.2)

/-- A value as an integer, rounded and clamped to n bits (03 R91): the code and NV or NX. -/
def toIntN (n : Nat) (mode : Rnd) (x : FV) : Nat × FFlags :=
  let lo : Int := -((2 ^ (n - 1) : Nat) : Int)
  let hi : Int := ((2 ^ (n - 1) : Nat) : Int) - 1
  match x with
  | .nan _ => (0, fNV)
  | .inf s => (modInt n (if s then lo else hi), fNV)
  | .fin s m e =>
    let (k, nx) := quantise mode s m e 0
    let v : Int := if s then -(k : Int) else k
    if v < lo then (modInt n lo, fNV) else if hi < v then (modInt n hi, fNV) else (modInt n v, if nx then fNX else 0#6)

/-- The integer of n bits as a value: an exact number, zero being +0. -/
def ofIntN (n v : Nat) : FV := FV.ofInt false (sxInt n v) 0

/-- The value of an L3 or L4 code (03 R83): `w` magnitude bits. -/
def lcode (w c : Nat) : FV :=
  let m := c % 2 ^ w
  .fin (c.testBit w) (if m = 0 then 0 else 2 ^ (m - 1)) 0

/-! ## FP32 steps with their flags: each operand carries the flags of the steps before it -/

/-- An FP32 value with the flags raised on the way to it. -/
abbrev Fl := W32 × FFlags

/-- A constant. -/
def flc (n : Nat) : Fl := (BitVec.ofNat 32 n, 0#6)

/-- `FMA(a, b, c)` (03 R88). -/
def flFma (a b c : Fl) : Fl :=
  let r := rnd32 .rne false ((dec32 a.1).fma .rne (dec32 b.1) (dec32 c.1))
  (r.1, a.2 ||| b.2 ||| c.2 ||| r.2)

/-- RNE32(a × b). -/
def flMul (a b : Fl) : Fl :=
  let r := rnd32 .rne false ((dec32 a.1).mul (dec32 b.1))
  (r.1, a.2 ||| b.2 ||| r.2)

/-- RNE32(a + b). -/
def flAdd (a b : Fl) : Fl :=
  let r := rnd32 .rne false ((dec32 a.1).add .rne (dec32 b.1))
  (r.1, a.2 ||| b.2 ||| r.2)

/-- RNE32(a − b): a NaN keeps its own sign. -/
def flSub (a b : Fl) : Fl :=
  let r := rnd32 .rne false ((dec32 a.1).add .rne (dec32 b.1).neg)
  (r.1, a.2 ||| b.2 ||| r.2)

/-- −a as an operand: the sign bit changes, a NaN's included (log entry 40). -/
def flNeg (a : Fl) : Fl := (a.1 ^^^ 0x80000000#32, a.2)

/-- A value times 2^n, exactly. -/
def FV.scale (x : FV) (n : Int) : FV :=
  match x with
  | .fin s m e => .fin s m (e + n)
  | y => y

/-- `SCALE(y, n)` (03 R88). -/
def flScale (y : Fl) (n : Int) : Fl :=
  let r := rnd32 .rne false ((dec32 y.1).scale n, 0#6)
  (r.1, y.2 ||| r.2)

/-- RNE32 of an exact value. -/
def flOf (x : FV) : Fl := rnd32 .rne false (x, 0#6)

/-! ## The Hadamard transform (03 R101) -/

/-- One butterfly stage at distance `h`. -/
def hadStage (h : Nat) (x : List Fl) : List Fl :=
  (List.range x.length).map fun i =>
    if i / h % 2 = 0 then flAdd (x.getD i (flc 0)) (x.getD (i + h) (flc 0))
    else flSub (x.getD (i - h) (flc 0)) (x.getD i (flc 0))

/-- `HT(x, n, sh)` for n = 2^k values (03 R101). -/
def hadamard (k sh : Nat) (x : List Fl) : List Fl :=
  ((List.range k).foldl (fun y i => hadStage (2 ^ i) y) x).map fun v => flScale v (-(sh : Int))

end Sys2Proof.Machine
end

