-- ==== Sys2Proof/Machine/Tables.lean ====
section
/-! DEFINITION. The tables of the transcendental and rotary instructions, computed from their formulas (03 R103 to R109), and the
algorithms of R104 to R107 and R109. A table entry is the rounding of a lower bound of the exact real with a sticky bit, or of a
fixed-point value whose error lies far below the distance to the nearest rounding boundary. -/

namespace Sys2Proof.Machine

/-- RNE32 of p / q: 64 more bits and a sticky bit (03 R103). -/
def ratio32 (p q : Nat) : W32 :=
  let n := p * 2 ^ 64
  (flOf (.fin false (2 * (n / q) + b2n (n % q != 0)) (-65))).1

/-- The largest r < 2^(k+1) with r^d ≤ n, bit by bit from bit k. -/
def rootFrom (d n : Nat) : Nat → Nat → Nat
  | 0, r => if (r + 1) ^ d ≤ n then r + 1 else r
  | k + 1, r => rootFrom d n k (if (r + 2 ^ (k + 1)) ^ d ≤ n then r + 2 ^ (k + 1) else r)

/-- RNE32 of the d-th root of p / q, for values between 1/2 and 2: 40 bits and a sticky bit (03 R103). -/
def root32 (d p q : Nat) : W32 :=
  let n := p * 2 ^ (40 * d) / q
  let r := rootFrom d n 41 0
  (flOf (.fin false (2 * r + b2n (r ^ d * q != p * 2 ^ (40 * d))) (-41))).1

/-- `T1(j)` (03 R104). -/
def tabRcp (j : Nat) : W32 := ratio32 256 (257 + 2 * j)

/-- `T2(j)` (03 R105): the square root of 128 / (2^q × (129 + 2i)). -/
def tabRsq (j : Nat) : W32 := root32 2 128 (2 ^ (j / 64) * (129 + 2 * (j % 64)))

/-- `T3(j)` (03 R106): the 64th root of 2^j. -/
def tabEx2 (j : Nat) : W32 := root32 64 (2 ^ j) 1

/-- `G(j)` (03 R107). -/
def tabG (j : Nat) : W32 := if j < 32 then ratio32 64 (64 + j) else ratio32 128 (65 + j)

/-- Fixed-point fraction bits of the series below. -/
def fx : Nat := 120

/-- The series z + z³/3 + z⁵/5 + … of `n` terms in fixed point: z = num / 2^fx, `pw` the current power. -/
def atanhSeries (z2 : Int) : Nat → Int → Int → Int
  | 0, _, _ => 0
  | n + 1, pw, k => pw / k + atanhSeries z2 n (pw * z2 / (2 ^ fx : Nat)) (k + 2)

/-- ln (a / b) in fixed point, for a / b near 1: twice the inverse hyperbolic tangent of (a − b) / (a + b). -/
def lnFx (a b : Nat) : Int :=
  let z := ((a : Int) - b) * (2 ^ fx : Nat) / (a + b : Nat)
  2 * atanhSeries (z * z / (2 ^ fx : Nat)) 60 z 1

/-- `L(j)` (03 R107): RNE32 of −log2 G(j). -/
def tabL (j : Nat) : W32 :=
  match dec32 (tabG j) with
  | .fin _ m e =>
    let v := if 0 ≤ e then -(lnFx (m * 2 ^ e.toNat) 1) else -(lnFx m (2 ^ (-e).toNat))
    (flOf (FV.ofInt false (v * (2 ^ 90 : Nat) / lnFx 2 1) (-90))).1
  | _ => 0

/-- π in fixed point, rounded down. -/
def piFx : Nat := 4175892906503776358826876457663557747

/-- A power series of the cosine or sine in fixed point: the term, and the number of the next factor. -/
def trigSeries (x2 : Int) : Nat → Int → Nat → Int
  | 0, _, _ => 0
  | n + 1, t, k => t + trigSeries x2 n (-(t * x2 / (2 ^ fx : Nat)) / ((k * (k + 1) : Nat) : Int)) (k + 2)

/-- The angle 2π i / 4096 in fixed point. -/
def angleFx (i : Nat) : Int := ((2 * piFx * i / 4096 : Nat) : Int)

/-- The cosine of 2π i / 4096 in fixed point, for i ≤ 512. -/
def cosFx (i : Nat) : Int := trigSeries (angleFx i * angleFx i / (2 ^ fx : Nat)) 20 (2 ^ fx : Nat) 1

/-- The sine of 2π i / 4096 in fixed point, for i ≤ 512. -/
def sinFx (i : Nat) : Int := trigSeries (angleFx i * angleFx i / (2 ^ fx : Nat)) 20 (angleFx i) 2

/-- `C(i)` (03 R109): RNE32 of cos (2π i / 4096), reduced to the first octant. -/
def tabCos (i : Nat) : W32 :=
  let i := i % 4096
  let h := if i > 2048 then 4096 - i else i
  let q := if h > 1024 then 2048 - h else h
  let v := if q ≤ 512 then cosFx q else sinFx (1024 - q)
  (flOf (FV.ofInt false (if h > 1024 then -v else v) (-(fx : Int)))).1

/-- `D(i)` (03 R109). -/
def tabCosD (i : Nat) : W32 := (flSub (tabCos ((i + 1) % 4096), 0#6) (tabCos i, 0#6)).1

/-- The cosine and sine of a phase (03 R109). -/
def rotary (theta : Nat) : Fl × Fl :=
  let j := bits theta 20 12
  let w := flOf (.fin false (bits theta 8 12) (-12))
  let js := (j + 3072) % 4096
  (flFma w (tabCosD j, 0#6) (tabCos j, 0#6), flFma w (tabCosD js, 0#6) (tabCos js, 0#6))

/-- A dimension pair rotated (03 R110). -/
def rotatePair (cs : Fl × Fl) (k0 k1 : Fl) : Fl × Fl :=
  (flFma (flNeg k1) cs.2 (flMul k0 cs.1), flFma k1 cs.1 (flMul k0 cs.2))

/-! ## Transcendentals -/

/-- A finite nonzero value as m × 2^ex with m in [1, 2) (03 R103): m's 23 fraction bits, and ex. -/
def normal (m : Nat) (e : Int) : Nat × Int := (m * 2 ^ 23 / 2 ^ m.log2 - 2 ^ 23, e + (m.log2 : Int))

/-- m in [1, 2) as an FP32 value, from its fraction bits. -/
def ofFrac (f : Nat) : Fl := flc (0x3f800000 + f)

/-- A result with a sign. -/
def withSign (s : Bool) (x : Fl) : Fl := (if s then x.1 ^^^ 0x80000000#32 else x.1, x.2)

/-- The FP32 infinity of a sign. -/
def inf32 (s : Bool) : W32 := if s then 0xff800000#32 else 0x7f800000#32

/-- The FP32 zero of a sign. -/
def zero32 (s : Bool) : W32 := if s then 0x80000000#32 else 0#32

/-- The canonical FP32 NaN (03 R86). -/
def nan32 (s : Bool) : W32 := if s then 0xffc00000#32 else 0x7fc00000#32

/-- `frcp` (03 R104). -/
def frcp32 (x : W32) : Fl :=
  match dec32 x with
  | .nan s => (nan32 s, 0#6)
  | .inf s => (zero32 s, 0#6)
  | .fin s m e =>
    if m = 0 then (inf32 s, fDZ)
    else
      let (f, ex) := normal m e
      let nm := flNeg (ofFrac f)
      let one := flc 0x3f800000
      let g0 : Fl := (tabRcp (f / 2 ^ 16), 0#6)
      let d := flFma nm g0 one
      let p := flFma d d d
      let g1 := flFma g0 p g0
      let d2 := flFma nm g1 one
      let y := flFma g1 d2 g1
      withSign s (flScale y (-ex))

/-- `frsq` (03 R105). -/
def frsq32 (x : W32) : Fl :=
  match dec32 x with
  | .nan s => (nan32 s, 0#6)
  | .inf s => if s then (nan32 false, fNV) else (0#32, 0#6)
  | .fin s m e =>
    if m = 0 then (inf32 s, fDZ)
    else if s then (nan32 false, fNV)
    else
      let (f, ex) := normal m e
      let q := ex % 2
      let u := flScale (ofFrac f) q
      let one := flc 0x3f800000
      let g0 : Fl := (tabRsq (64 * q.toNat + f / 2 ^ 17), 0#6)
      let h := flMul u g0
      let d := flFma (flNeg h) g0 one
      let p := flFma (flc 0x3ec00000) d (flc 0x3f000000)
      let p2 := flMul p d
      let g1 := flFma g0 p2 g0
      let h2 := flMul u g1
      let d2 := flFma (flNeg h2) g1 one
      let y := flFma (flMul (flc 0x3f000000) g1) d2 g1
      flScale y (-((ex - q) / 2))

/-- The integer nearest x × 64, ties to even (03 R106). -/
def nearest64 (s : Bool) (m : Nat) (e : Int) : Int :=
  let k : Int := ((quantise .rne s m (e + 6) 0).1 : Nat)
  if s then -k else k

/-- `fex2` (03 R106). -/
def fex232 (x : W32) : Fl :=
  match dec32 x with
  | .nan s => (nan32 s, 0#6)
  | .inf s => (if s then 0#32 else inf32 false, 0#6)
  | .fin s m e =>
    let mag (n : Nat) : Bool := decide (0 ≤ scaled false m e (min e 0) - ((n * 2 ^ (0 - min e 0).toNat : Nat) : Int))
    if !s && mag 128 then (inf32 false, fOF ||| fNX)
    else if s && mag 151 then (0#32, fUF ||| fNX)
    else
      let k := nearest64 s m e
      let n := k / 64
      let j := (k % 64).toNat
      let q := min e (-6)
      let f := flOf (FV.ofInt false (scaled s m e q - k * ((2 ^ (-6 - q).toNat : Nat) : Int)) q)
      let p := flFma (flc 0x3d635847) f (flc 0x3e75fdf0)
      let p2 := flFma p f (flc 0x3f317218)
      let p3 := flMul p2 f
      let t : Fl := (tabEx2 j, 0#6)
      flScale (flFma t p3 t) n

/-- `flg2` (03 R107). -/
def flg232 (x : W32) : Fl :=
  match dec32 x with
  | .nan s => (nan32 s, 0#6)
  | .inf s => if s then (nan32 false, fNV) else (inf32 false, 0#6)
  | .fin s m e =>
    if m = 0 then (inf32 true, fDZ)
    else if s then (nan32 false, fNV)
    else
      let (f, ex) := normal m e
      if f = 0 then flOf (FV.ofInt false ex 0)
      else
        let j := f / 2 ^ 17
        let m1 := if j < 32 then ofFrac f else flScale (ofFrac f) (-1)
        let e1 := if j < 32 then ex else ex + 1
        let t := flFma m1 (tabG j, 0#6) (flc 0xbf800000)
        let q := flFma (flc 0xbeb8aa3b) t (flc 0x3ef6384f)
        let q2 := flFma q t (flc 0xbf38aa3b)
        let q3 := flFma q2 t (flc 0x3fb8aa3b)
        let sb := flAdd (flOf (FV.ofInt false e1 0)) (tabL j, 0#6)
        flFma t q3 sb

end Sys2Proof.Machine
end

