-- ==== Sys2Proof/Machine/Lanes.lean ====
section
/-! DEFINITION. What the vector words compute in one lane: elements of a lane's register (06 R169), the integer operations of class 1 (06 R184 to
R191) and the float operations of class 2 (06 R193 to R201). The register forms, the sweep forms and the matrix words use the same functions. -/

namespace Sys2Proof.Machine

/-- Bits of an element of each width (06 R169). -/
def wbits : Width → Nat
  | .b => 8
  | .h => 16
  | .w => 32
  | .d => 64

/-- Element `j` of width `e` bits of a lane's register (06 R169). -/
def elem (e : Nat) (x : W32) (j : Nat) : Nat := x.toNat / 2 ^ (e * j) % 2 ^ e

/-- A lane's register from its elements of width `e` bits. -/
def ofElems (e : Nat) (f : Nat → Nat) : W32 :=
  BitVec.ofNat 32 ((List.range (32 / e)).foldl (fun acc j => acc + f j % 2 ^ e * 2 ^ (e * j)) 0)

/-! ## Operations on elements of width e -/

/-- The number of leading zero bits of an n-bit number (06 R175, R184). -/
def clz (n v : Nat) : Nat := if v % 2 ^ n = 0 then n else n - 1 - (v % 2 ^ n).log2

/-- The number of one bits among the low n bits (06 R175, R184). -/
def popc (n v : Nat) : Nat := ((List.range n).filter fun i => v.testBit i).length

/-- An element as a signed number. -/
def sgn (e a : Nat) : Int := sxInt e a

/-- Clamps an integer to a range; whether it was clamped. -/
def clampInt (lo hi v : Int) : Int × Bool := if v < lo then (lo, true) else if hi < v then (hi, true) else (v, false)

/-- Clamps to e bits, signed or unsigned (06 R185), as an element and SAT. -/
def clampElem (e : Nat) (sx : Bool) (v : Int) : Nat × Bool :=
  let r := if sx then clampInt (-((2 ^ (e - 1) : Nat) : Int)) ((2 ^ (e - 1) : Nat) - 1) v else clampInt 0 ((2 ^ e : Nat) - 1) v
  (modInt e r.1, r.2)

/-- `vadd` (06 R184). -/
def eAdd (e a b : Nat) : Nat := (a + b) % 2 ^ e
/-- `vsub` (06 R184). -/
def eSub (e a b : Nat) : Nat := (a + 2 ^ e - b) % 2 ^ e
/-- `vmul` (06 R184). -/
def eMul (e a b : Nat) : Nat := a * b % 2 ^ e
/-- `vmulh`: bits e to 2e − 1 of the signed product (06 R184). -/
def eMulh (e a b : Nat) : Nat := modInt e (sgn e a * sgn e b / (2 ^ e : Nat))
/-- `vmulhu` (06 R184). -/
def eMulhu (e a b : Nat) : Nat := a * b / 2 ^ e % 2 ^ e
/-- `vshl` (06 R184). -/
def eShl (e a b : Nat) : Nat := if b < e then a * 2 ^ b % 2 ^ e else 0
/-- `vshr` (06 R184). -/
def eShr (e a b : Nat) : Nat := if b < e then a / 2 ^ b else 0
/-- `vsra` (06 R184). -/
def eSra (e a b : Nat) : Nat := modInt e (sgn e a / (2 ^ min b e : Nat))
/-- `vmin` (06 R184). -/
def eMin (e a b : Nat) : Nat := if sgn e a ≤ sgn e b then a else b
/-- `vmax` (06 R184). -/
def eMax (e a b : Nat) : Nat := if sgn e a ≤ sgn e b then b else a
/-- `vminu` (06 R184). -/
def eMinu (_e a b : Nat) : Nat := min a b
/-- `vmaxu` (06 R184). -/
def eMaxu (_e a b : Nat) : Nat := max a b
/-- `vbrev`: bit i of the element moves to bit e − 1 − i (06 R184). -/
def eBrev (e a : Nat) : Nat := (List.range e).foldl (fun acc i => if a.testBit i then acc + 2 ^ (e - 1 - i) else acc) 0
/-- `vabs` (06 R185): the element and SAT. -/
def eAbs (e : Nat) (st : Bool) (a : Nat) : Nat × Bool :=
  if a = 2 ^ (e - 1) then (if st then (a - 1, true) else (a, false)) else ((sgn e a).natAbs, false)

/-! ## Operations on a lane's 32-bit values -/

/-- A lane operation of up to three sources, with the flags it raises. -/
abbrev LaneOp := W32 → W32 → W32 → W32 × FFlags

/-- SAT where something was clamped. -/
def satFlag (b : Bool) : FFlags := if b then fSAT else 0#6

/-- An element operation of two sources on a lane. -/
def lane2 (e : Nat) (f : Nat → Nat → Nat → Nat) : LaneOp := fun a b _ => (ofElems e fun j => f e (elem e a j) (elem e b j), 0#6)

/-- An element operation of one source on a lane. -/
def lane1 (e : Nat) (f : Nat → Nat → Nat) : LaneOp := fun a _ _ => (ofElems e fun j => f e (elem e a j), 0#6)

/-- An element operation that may clamp, on a lane: SAT is the union over the elements. -/
def laneSat (e : Nat) (f : Nat → Nat → Nat × Bool) : LaneOp := fun a b _ =>
  (ofElems e fun j => (f (elem e a j) (elem e b j)).1,
   satFlag ((List.range (32 / e)).any fun j => (f (elem e a j) (elem e b j)).2))

/-- A bitwise or whole-word operation on a lane. -/
def laneW (f : W32 → W32 → W32 → W32) : LaneOp := fun a b c => (f a b c, 0#6)

/-- `vadds` (06 R185). -/
def laneAdds (e : Nat) (sx : Bool) : LaneOp :=
  laneSat e fun a b => clampElem e sx (if sx then sgn e a + sgn e b else (a : Int) + (b : Int))
/-- `vsubs` (06 R185). -/
def laneSubs (e : Nat) (sx : Bool) : LaneOp :=
  laneSat e fun a b => clampElem e sx (if sx then sgn e a - sgn e b else (a : Int) - (b : Int))
/-- `vabs` (06 R185). -/
def laneAbs (e : Nat) (st : Bool) : LaneOp := laneSat e fun a _ => eAbs e st a
/-- `vmad` (06 R184). -/
def laneMad : LaneOp := laneW fun a b c => a * b + c
/-- `vandn` (06 R184). -/
def laneAndn : LaneOp := laneW fun a b _ => a &&& ~~~b

/-- Position and length of a bit field in a 32-bit value, from a control word (06 R188). -/
def bfPos (b : W32) : Nat := bits b.toNat 0 5
/-- The number of bits of the field (06 R188). -/
def bfLen (b : W32) : Nat := min (bits b.toNat 8 6) (32 - bfPos b)

/-- `vbfx` (06 R188). -/
def laneBfx (sx : Bool) : LaneOp := laneW fun a b _ =>
  let n := bfLen b
  let f := bits a.toNat (bfPos b) n
  if n = 0 then 0 else if sx then BitVec.ofNat 32 (modInt 32 (sxInt n f)) else BitVec.ofNat 32 f

/-- `vbfi`: the old destination is the third source (06 R188). -/
def laneBfi : LaneOp := laneW fun a b d =>
  let n := bfLen b
  let m : W32 := BitVec.ofNat 32 ((2 ^ n - 1) * 2 ^ bfPos b)
  (d &&& ~~~m) ||| ((a <<< bfPos b) &&& m)

/-- `vfsh` (06 R189). -/
def laneFsh : LaneOp := laneW fun a b c => BitVec.ofNat 32 ((a.toNat * 2 ^ 32 + b.toNat) / 2 ^ (c.toNat % 32))

/-- `vclz` (06 R184). -/
def laneClz (e : Nat) : LaneOp := lane1 e fun e a => clz e a
/-- `vpopc` (06 R184). -/
def lanePopc (e : Nat) : LaneOp := lane1 e fun e a => popc e a
/-- `vbrev` (06 R184). -/
def laneBrev (e : Nat) : LaneOp := lane1 e eBrev

/-- `vdp4` (06 R191). -/
def laneDp4 (sx st : Bool) : LaneOp := fun a b c =>
  let v (n : Nat) (x : W32) : Int := if sx then sxInt n x.toNat else (x.toNat % 2 ^ n : Nat)
  let t := (List.range 4).foldl (fun acc i => acc + v 8 (a >>> (8 * i)) * v 8 (b >>> (8 * i))) (v 32 c)
  if st then
    let r := clampElem 32 sx t
    (BitVec.ofNat 32 r.1, satFlag r.2)
  else (BitVec.ofNat 32 (modInt 32 t), 0#6)

/-! ## Float operations -/

/-- An FP32 lane operation of exact values, rounded once (06 R193). -/
def laneF (mode : Rnd) (st : Bool) (f : FV → FV → FV → FV × FFlags) : LaneOp := fun a b c =>
  rnd32 mode st (f (dec32 a) (dec32 b) (dec32 c))

/-- The exact sum (06 R193). -/
def fvAdd (mode : Rnd) (a b _c : FV) : FV × FFlags := a.add mode b
/-- The exact difference (06 R193). -/
def fvSub (mode : Rnd) (a b _c : FV) : FV × FFlags := a.add mode b.neg
/-- The exact product (06 R193). -/
def fvMul (a b _c : FV) : FV × FFlags := a.mul b
/-- The exact product and sum (06 R193). -/
def fvFma (mode : Rnd) (a b c : FV) : FV × FFlags := FV.fma mode a b c

/-- Orders the FP32 codes of numbers, −0 below +0 (06 R194). -/
def ordKey (x : W32) : Int := if x.msb then -(x.toNat % 2 ^ 31 : Nat) - 1 else (x.toNat : Int)

/-- The smaller or larger operand; the canonical NaN of the first NaN operand (06 R194). -/
def laneMinMax (mx : Bool) : LaneOp := fun a b _ =>
  let r := if (dec32 a).isNan then nan32 (dec32 a).sign
    else if (dec32 b).isNan then nan32 (dec32 b).sign
    else if (if mx then decide (ordKey b ≤ ordKey a) else decide (ordKey a ≤ ordKey b)) then a else b
  (r, 0#6)

/-- Compares two numbers: less, equal. -/
def fvLt (a b : FV) : Bool :=
  match a, b with
  | .inf s, .inf t => s && !t
  | .inf s, _ => s
  | _, .inf t => !t
  | .fin s m e, .fin t n f => decide (scaled s m e (min e f) < scaled t n f (min e f))
  | _, _ => false

/-- A condition of `fcmp` (06 R171). -/
def fcond (cc : FCond) (x y : W32) : Bool :=
  let a := dec32 x
  let b := dec32 y
  let un := a.isNan || b.isNan
  let eq := !un && !fvLt a b && !fvLt b a
  match cc with
  | .eq => eq
  | .ne => !eq
  | .lt => !un && fvLt a b
  | .le => !un && (fvLt a b || eq)
  | .gt => !un && fvLt b a
  | .ge => !un && (fvLt b a || eq)
  | .un => un
  | .ord => !un

/-- The format of a type code that is a float (02 R61). -/
def fmtOf : Ty → Fmt
  | .bf16 => bf16
  | .e4m3 => e4m3
  | .e5m2 => e5m2
  | .e2m1 => e2m1
  | _ => fp32

/-- Reads a source of `fcvt` from the low bits of a lane's value (06 R196). -/
def readTy (t : Ty) (a : Nat) : FV :=
  match t with
  | .l3 => lcode 2 (a % 8)
  | .l4 => lcode 3 (a % 16)
  | .i8 => ofIntN 8 a
  | .i32 => ofIntN 32 a
  | t => (fmtOf t).dec (a % 2 ^ (fmtOf t).width)

/-- Writes a destination of `fcvt` (06 R196): INT8 sign-extended, others zero-extended. -/
def writeTy (t : Ty) (mode : Rnd) (st : Bool) (x : FV) : W32 × FFlags :=
  match t with
  | .i8 =>
    let r := toIntN 8 mode x
    (BitVec.ofNat 32 (modInt 32 (sxInt 8 r.1)), r.2)
  | .i32 =>
    let r := toIntN 32 mode x
    (BitVec.ofNat 32 r.1, r.2)
  | t =>
    let r := (fmtOf t).round mode st x
    (BitVec.ofNat 32 r.1, r.2)

/-- `fcvt` (06 R196). -/
def laneCvt (st : Bool) (mode : Rnd) (dty sty : Ty) : LaneOp := fun a _ _ => writeTy dty mode st (readTy sty a.toNat)

/-- Bits of a packed slot (06 R197, R198). -/
def slotBits : Ty → Nat
  | .bf16 => 16
  | .e4m3 | .e5m2 | .i8 => 8
  | .e2m1 | .l4 => 4
  | _ => 32

/-- Puts a value of `w` bits into slot `k` of a lane's value. -/
def putSlot (w k v : Nat) (d : W32) : W32 :=
  (d &&& ~~~(BitVec.ofNat 32 ((2 ^ w - 1) * 2 ^ (w * k)))) ||| BitVec.ofNat 32 (v % 2 ^ w * 2 ^ (w * k))

/-- One converted value of `fpk` (06 R197). -/
def pack1 (st : Bool) (mode : Rnd) (ty : Ty) (x : W32) : Nat × FFlags :=
  match ty with
  | .i8 =>
    let r := clampElem 8 true (sxInt 32 x.toNat)
    (r.1, satFlag r.2)
  | t => (fmtOf t).round mode st (dec32 x)

/-- `fpk`: the old destination is the third source (06 R197). -/
def lanePk (st : Bool) (mode : Rnd) (ty : Ty) (k : Nat) : LaneOp := fun a b d =>
  let w := slotBits ty
  let p := pack1 st mode ty a
  let q := pack1 st mode ty b
  (putSlot w (2 * k + 1) q.1 (putSlot w (2 * k) p.1 d), p.2 ||| q.2)

/-- `funpk` (06 R198). -/
def laneUnpk (ty : Ty) (j : Nat) : LaneOp := fun a _ _ =>
  let w := slotBits ty
  let x := a.toNat / 2 ^ (w * j) % 2 ^ w
  match ty with
  | .i8 => (BitVec.ofNat 32 (modInt 32 (sxInt 8 x)), 0#6)
  | t => ((flOf (readTy t x)).1, 0#6)

/-- An operation on each of the sub-elements of a lane's value in a format, rounded once each (06 R200, R201). -/
def laneSub (t : Fmt) (mode : Rnd) (st : Bool) (f : FV → FV → FV → FV × FFlags) : LaneOp := fun a b c =>
  let w := t.width
  let r (j : Nat) : Nat × FFlags := t.roundR mode st (f (t.dec (elem w a j)) (t.dec (elem w b j)) (t.dec (elem w c j)))
  (ofElems w fun j => (r j).1, orFlags ((List.range (32 / w)).map fun j => (r j).2))

/-- The type of `q8add` and `q8mul` (06 R201). -/
def q8fmt (e5 : Bool) : Fmt := if e5 then e5m2 else e4m3

/-! ## The reduction tree -/

/-- One level of the tree: adjacent pairs (03 R99). -/
def treeLevel (f : Fl → Fl → Fl) : List Fl → List Fl
  | x :: y :: r => f x y :: treeLevel f r
  | l => l

/-- The pairwise tree of `n` levels (03 R99). -/
def tree (f : Fl → Fl → Fl) : Nat → List Fl → Fl
  | 0, l => l.headD (flc 0)
  | n + 1, l => tree f n (treeLevel f l)

end Sys2Proof.Machine
end

