-- ==== Sys2Proof/Machine/Split.lean ====
section
/-! DEFINITION. The split form: lines and blocks (04 R123 to R130), judging and decoding a block, and the format mode with the
encoder's arithmetic (08 R255, R271 to R275; 03 R93 to R95). -/

namespace Sys2Proof.Machine

/-- A line of a block: 128 bytes. -/
abbrev Line := List Byte

/-- A line header (04 R124). -/
structure LineHdr where
  bf : Nat
  ln : Nat
  lc : Bool
  nout : Nat
  cap : Nat
  hs : Nat
  rsv : Nat
  deriving DecidableEq, Repr

/-- The header of a line (04 R124). -/
def lineHdr (l : Line) : LineHdr :=
  let w := leNat (l.take 4)
  { bf := bits w 0 4, ln := bits w 4 3, lc := bit w 7, nout := bits w 8 8, cap := bits w 16 9, hs := bits w 25 2,
    rsv := bits w 27 5 }

/-- A header as its 32-bit word (04 R124). -/
def LineHdr.num (h : LineHdr) : Nat :=
  h.bf + h.ln * 2 ^ 4 + b2n h.lc * 2 ^ 7 + h.nout * 2 ^ 8 + h.cap * 2 ^ 16 + h.hs * 2 ^ 25 + h.rsv * 2 ^ 27

/-- The largest capacity of a body format (04 R125). -/
def maxCap : Nat → Nat
  | 0 => 328
  | 1 => 4
  | 2 | 3 => 34
  | 4 => 24
  | 5 => 14
  | 6 => 22
  | _ => 0

/-- The number of lines of a block (04 R125). -/
def blockLines (bf cap : Nat) : Nat :=
  match bf with
  | 0 => max 1 ((cap + 40) / 41)
  | 2 | 3 | 6 => 2
  | _ => 1

/-- Where the outlier slots of line `j` begin, and how many there are (04 R125). -/
def lineSlots (bf j : Nat) : Nat × Nat :=
  match bf with
  | 0 => (4, 41)
  | 1 => (116, 4)
  | 2 | 3 => if j = 0 then (128, 0) else (24, 34)
  | 4 => (52, 24)
  | 5 => (84, 14)
  | _ => if j = 0 then (128, 0) else (24, 22)

/-- Entries per column of a structured body (04 R127). -/
def entriesOf (bf : Nat) : Nat := if bf = 4 then 2 else if bf = 5 then 4 else if bf = 6 then 8 else 0

/-- Bytes of a body (04 R125). -/
def bodyBytes : Nat → Nat
  | 0 => 0
  | 1 => 96
  | 4 => 32
  | 5 => 64
  | _ => 128

/-- Body byte `i` of a block: from byte 20 of line 0, and after its 108th from byte 4 of line 1 (04 R126). -/
def bodyByte (ls : List Line) (i : Nat) : Nat :=
  if i < 108 then ((ls.getD 0 []).getD (20 + i) 0).toNat else ((ls.getD 1 []).getD (4 + (i - 108)) 0).toNat

/-- The coordinate bytes of the outliers of a line: the first `n` slots (04 R125, R128). -/
def lineCoords (bf j n : Nat) (l : Line) : List Nat := (List.range n).map fun i => (l.getD ((lineSlots bf j).1 + 3 * i) 0).toNat

/-- Whether numbers rise strictly from a start. -/
def rising (prev : Int) : List Nat → Bool
  | [] => true
  | x :: r => decide (prev < (x : Int)) && rising x r

/-- Whether a structured body breaks test 9 with the later entry in line `j` (04 R129). -/
def badEntry (bf : Nat) (ls : List Line) (j : Nat) : Bool :=
  let n := entriesOf bf
  (List.range (16 * n)).any fun i =>
    i % n ≠ 0 && decide (bodyByte ls i % 16 ≤ bodyByte ls (i - 1) % 16) && decide ((if i < 108 then 0 else 1) = j)

/-- How the range of an engine command bears on test 3 (09 R299): none for a class-6 word. -/
inductive RangeRule
  /-- The block may be no longer than this many lines. -/
  | atMost (n : Nat)
  /-- The block has exactly this many lines. -/
  | exact (n : Nat)
  /-- No range. -/
  | free
  deriving DecidableEq, Repr

/-- Whether line `j` fails test 3 (04 R129, 09 R299): `last` is the index R125 gives. -/
def test3 (r : RangeRule) (last j : Nat) (lc : Bool) : Bool :=
  lc != decide (j = last)
    || (match r with
        | .atMost n => decide (j + 1 = n) && decide (j < last)
        | .exact n => (decide (j + 1 = n) && decide (j < last)) || (decide (j = last) && decide (j + 1 < n))
        | .free => false)

/-- The lowest test that line `j` fails, 0 where it is well formed (04 R129). `ls` holds the lines up to `j`, `sum` the outliers and
`prev` the last coordinate of the earlier lines. -/
def lineTest (r : RangeRule) (ls : List Line) (j sum : Nat) (prev : Int) : Nat :=
  let l := ls.getD j []
  let h := lineHdr l
  let h0 := lineHdr (ls.getD 0 [])
  let past := decide (h.cap > maxCap h.bf)
  if h.bf ≥ 7 || h.hs = 3 || h.rsv ≠ 0 then 1
  else if h.ln ≠ j then 2
  else if !(j = 0 && past) && test3 r (blockLines h0.bf h0.cap - 1) j h.lc then 3
  else if h.bf ≠ h0.bf || h.cap ≠ h0.cap || h.hs ≠ h0.hs then 4
  else if past then 5
  else if h.nout > (lineSlots h.bf j).2 || h.nout > h.cap - sum then 6
  else if !rising prev (lineCoords h.bf j h.nout l) then 7
  else if j = 0 && h.bf ≠ 0 && ((l.drop 4).take 16).contains 0xff#8 then 8
  else if entriesOf h.bf ≠ 0 && badEntry h.bf ls j then 9
  else 0

/-- The first ill-formed line of a block and its test, if there is one (04 R129): `n` lines are left from line `j`. -/
def judgeFrom (r : RangeRule) (ls : List Line) : Nat → Nat → Nat → Int → Option (Nat × Nat)
  | 0, _, _, _ => none
  | n + 1, j, sum, prev =>
    let t := lineTest r ls j sum prev
    let h := lineHdr (ls.getD j [])
    if t ≠ 0 then some (j, t)
    else
      let cs := lineCoords h.bf j h.nout (ls.getD j [])
      judgeFrom r ls n (j + 1) (sum + h.nout) (match cs.getLast? with | some c => (c : Int) | none => prev)

/-- Judges the lines of a block (04 R129). -/
def judgeBlock (r : RangeRule) (ls : List Line) : Option (Nat × Nat) := judgeFrom r ls ls.length 0 0 (-1)

/-- Whether line 0 tells how many lines its block has: it passes tests 1 and 5 (08 R260). -/
def lineZeroOk (l : Line) : Bool :=
  let h := lineHdr l
  decide (h.bf < 7) && decide (h.hs ≠ 3) && decide (h.rsv = 0) && decide (h.cap ≤ maxCap h.bf)

/-- The value of body element (k, n), without its scale (04 R126, R127; 03 R83, R84). -/
def bodyCode (bf : Nat) (ls : List Line) (k n : Nat) : FV :=
  let code (b : Nat) : Nat :=
    let i := b * (16 * n + k)
    (bodyByte ls (i / 8) + bodyByte ls (i / 8 + 1) * 256) / 2 ^ (i % 8) % 2 ^ b
  match bf with
  | 0 => .fin false 0 0
  | 1 => lcode 2 (code 3)
  | 2 => lcode 3 (code 4)
  | 3 => e2m1.dec (code 4)
  | _ =>
    let e := entriesOf bf
    match (List.range e).find? fun i => bodyByte ls (e * n + i) % 16 = k with
    | some i => lcode 3 (bodyByte ls (e * n + i) / 16)
    | none => .fin false 0 0

/-- The scale exponent of column `n` (04 R125, 03 R82): the E8M0 byte less 127. -/
def scaleExp (ls : List Line) (n : Nat) : Int := (((ls.getD 0 []).getD (4 + n) 0).toNat : Int) - 127

/-- Body element (k, n) times its column's scale (04 R128). -/
def bodyValue (bf : Nat) (ls : List Line) (k n : Nat) : FV :=
  if bf = 0 then .fin false 0 0 else (bodyCode bf ls k n).scale (scaleExp ls n)

/-- The outliers of a block, in order: coordinate byte and value (04 R128). -/
def outliers (ls : List Line) : List (Nat × FV) :=
  (List.range ls.length).flatMap fun j =>
    let l := ls.getD j []
    let h := lineHdr l
    (List.range h.nout).map fun i =>
      let o := (lineSlots h.bf j).1 + 3 * i
      ((l.getD o 0).toNat, bf16.dec (leNat ((l.drop (o + 1)).take 2)))

/-! ## The format mode (08 R255, R256) -/

/-- TAU. -/
def fmTau (fm : W64) : Nat := bits fm.toNat 0 32
/-- EBF. -/
def fmEbf (fm : W64) : Nat := bits fm.toNat 32 4
/-- ECAP. -/
def fmEcap (fm : W64) : Nat := bits fm.toNat 36 9
/-- EHS. -/
def fmEhs (fm : W64) : Nat := bits fm.toNat 45 2
/-- SB. -/
def fmSb (fm : W64) : Nat := bits fm.toNat 47 3
/-- ILT. -/
def fmIlt (fm : W64) : Bool := bit fm.toNat 50
/-- AHT. -/
def fmAht (fm : W64) : Nat := bits fm.toNat 51 2

/-- Whether `sfmt` accepts a value (08 R256). -/
def fmOk (a : W64) : Bool :=
  bits a.toNat 53 11 == 0 && decide (fmEbf a < 7) && fmEhs a != 3 && fmAht a != 3 && decide (fmEcap a ≤ maxCap (fmEbf a))
    && !(dec32 (BitVec.ofNat 32 (fmTau a))).isNan

/-! ## Encoding (08 R272 to R274) -/

/-- The magnitude of an FP32 value as an ordered code; a NaN ranks above every number (08 R272). -/
def magKey (x : W32) : Nat := if (dec32 x).isNan then 2 ^ 31 else x.toNat % 2 ^ 31

/-- The magnitude test (08 R272). -/
def passes (fm : W64) (x : W32) : Bool :=
  decide (magKey x ≥ 0x7f800000) || (if fmTau fm < 2 ^ 31 then decide (magKey x > fmTau fm) else x != 0#32)

/-- Whether a candidate exceeds the spill bound (08 R272, R273). -/
def overSpill (fm : W64) (x : W32) : Bool :=
  decide (magKey x ≥ 0x7f800000)
    || (if fmTau fm < 2 ^ 31 then
          fvLt ((dec32 (BitVec.ofNat 32 (fmTau fm))).scale (fmSb fm)) (dec32 (x &&& 0x7fffffff#32))
        else decide (magKey x > 0))

/-- The elements of a block: index 16k + n. -/
abbrev Elems := List W32

/-- Element (k, n). -/
def at2 (x : Elems) (k n : Nat) : W32 := x.getD (16 * k + n) 0

/-- The coordinates of the candidates (08 R272). -/
def candidates (fm : W64) (x : Elems) : List Nat := (List.range 256).filter fun c => passes fm (x.getD c 0)

/-- Whether coordinate `a` ranks before `b` (08 R272). -/
def ranksBefore (x : Elems) (a b : Nat) : Bool :=
  let m := magKey (x.getD a 0)
  let n := magKey (x.getD b 0)
  decide (m > n) || (m == n && decide (a < b))

/-- The candidates that are kept, in ascending coordinate (08 R273). -/
def kept (fm : W64) (x : Elems) : List Nat :=
  let cs := candidates fm x
  cs.filter fun c => decide ((cs.countP fun b => ranksBefore x b c) < fmEcap fm)

/-- The remaining candidates above the spill bound (08 R273). -/
def overs (fm : W64) (x : Elems) : List Nat :=
  let k := kept fm x
  (candidates fm x).filter fun c => !k.contains c && overSpill fm (x.getD c 0)

/-- The scale exponent of a column (03 R93). -/
def colExp (fm : W64) (x : Elems) (n : Nat) : Int :=
  let fails := (List.range 16).filter fun k => !passes fm (at2 x k n)
  let m := fails.foldl (fun a k => max a (magKey (at2 x k n))) 0
  match fp32.dec m with
  | .fin _ m e =>
    if m = 0 then -127
    else
      let fl := e + (m.log2 : Int)
      let ce := if m = 2 ^ m.log2 then fl else fl + 1
      let v := match fmEbf fm with | 1 => ce - 2 | 3 => fl - 2 | _ => ce - 6
      max (-127) (min 127 v)
  | _ => -127

/-- Whether m × 2^e is at least h / 2. -/
def geHalf (m : Nat) (e : Int) (h : Nat) : Bool :=
  if 0 ≤ e then decide (2 * m * 2 ^ e.toNat ≥ h) else decide (2 * m ≥ h * 2 ^ (-e).toNat)

/-- The magnitude code of a body element of an L3 or L4 column (03 R94): `top` is the largest code. -/
def magCode (top : Nat) (x : W32) (e : Int) : Nat :=
  match dec32 x with
  | .fin _ m f => min top (([1, 3, 6, 12, 24, 48, 96].filter fun h => geHalf m (f - e) h).length)
  | _ => top

/-- The code of a body element; a spill candidate of nonzero magnitude takes the largest code (03 R94, 08 R274). -/
def elemCode (fm : W64) (x : W32) (e : Int) : Nat :=
  let s := x.msb
  let spill := passes fm x && decide (magKey x > 0)
  match fmEbf fm with
  | 1 => b2n s * 4 + (if spill then 3 else magCode 3 x e)
  | 3 => if spill then b2n s * 8 + 7 else (e2m1.round .rne true ((dec32 x).scale (-e))).1
  | _ => b2n s * 8 + (if spill then 7 else magCode 7 x e)

/-- The entries of a column of a structured body, in ascending k (08 R274). -/
def colEntries (fm : W64) (x : Elems) (kp : List Nat) (n : Nat) : List Nat :=
  let free := (List.range 16).filter fun k => !kp.contains (16 * k + n)
  let taken := free.filter fun k =>
    decide ((free.countP fun j => ranksBefore x (16 * j + n) (16 * k + n)) < entriesOf (fmEbf fm))
  let fill := ((List.range 16).filter fun k => kp.contains (16 * k + n)).take (entriesOf (fmEbf fm) - taken.length)
  ((List.range 16).filter fun k => taken.contains k || fill.contains k).map fun k =>
    k + 16 * (if fill.contains k then 0 else elemCode fm (at2 x k n) (colExp fm x n))

/-- The body of a block, as bytes (04 R126, R127; 08 R274). -/
def bodyOf (fm : W64) (x : Elems) (kp : List Nat) : List Byte :=
  let bf := fmEbf fm
  if bf = 0 then []
  else if bf ≤ 3 then
    let b := if bf = 1 then 3 else 4
    let v := (List.range 256).foldl (fun acc i =>
      let k := i % 16
      let n := i / 16
      acc + (if kp.contains (16 * k + n) then 0 else elemCode fm (at2 x k n) (colExp fm x n)) * 2 ^ (b * i)) 0
    leBytes (bodyBytes bf) v
  else (List.range 16).flatMap fun n => (colEntries fm x kp n).map (BitVec.ofNat 8)

/-- The scale bytes (03 R93). -/
def scalesOf (fm : W64) (x : Elems) : List Byte :=
  if fmEbf fm = 0 then [] else (List.range 16).map fun n => BitVec.ofNat 8 (colExp fm x n + 127).toNat

/-- A list cut or filled with zeros to n bytes. -/
def padTo (n : Nat) (l : List Byte) : List Byte := (l ++ List.replicate (n - l.length) 0#8).take n

/-- The slots of outliers (04 R128, 08 R274). -/
def slotBytes (x : Elems) (cs : List Nat) : List Byte :=
  cs.flatMap fun c => BitVec.ofNat 8 c :: leBytes 2 (bf16.round .rne false (dec32 (x.getD c 0))).1

/-- The lines of an encoded block (08 R274). -/
def encodeBlock (fm : W64) (x : Elems) : List Line :=
  let bf := fmEbf fm
  let kp := kept fm x
  let nl := blockLines bf (fmEcap fm)
  let fixed := scalesOf fm x ++ bodyOf fm x kp
  (List.range nl).map fun j =>
    let cap := (lineSlots bf j).2
    let before := ((List.range j).map fun i => (lineSlots bf i).2).foldl (· + ·) 0
    let cs := (kp.drop before).take cap
    let h : LineHdr := { bf := bf, ln := j, lc := decide (j + 1 = nl), nout := cs.length, cap := fmEcap fm, hs := fmEhs fm, rsv := 0 }
    padTo 128 (leBytes 4 h.num ++ (fixed.drop (124 * j)).take 124 ++ slotBytes x cs)

/-- The information words of OVF for a block (08 R275). -/
def ovfInfo (fm : W64) (src : W64) (b : Nat) (x : Elems) : W64 × W64 :=
  let ov := overs fm x
  let top := ov.foldl (fun a c => max a (magKey (x.getD c 0))) 0
  let xmag := if top ≥ 2 ^ 31 then 0x7fc00000 else top
  (BitVec.ofNat 64 (src.toNat % 2 ^ 27 + b * 2 ^ 32 + (candidates fm x).length * 2 ^ 40), BitVec.ofNat 64 (xmag + ov.length * 2 ^ 32))

end Sys2Proof.Machine
end

