-- ==== Sys2Proof/Machine/Tile.lean ====
section
/-! DEFINITION. Tiles (08 R263 to R270): their elements and status, the arithmetic of the words that update them (03 R96 to R100; 08 R277, R279;
10 R339), and the tile unit, which performs the tile words of a group in issue order. Only a `qmm`, which waits for its quad, makes it wait: a word
behind it leaves its step in `Group.tileq`. -/

namespace Sys2Proof.Machine

/-! ## Elements and status -/

/-- Element (row, n) of a tile as stored. -/
def Group.elem (g : Group) (t row n : Nat) : W32 := tget 0#32 g.tile (t * 1024 + row * 16 + n)

/-- Writes tile elements. -/
def Group.setElems (g : Group) (t : Nat) (l : List (Nat × Nat × W32)) : Group :=
  { g with tile := l.foldl (fun a e => tset 0#32 a (t * 1024 + e.1 * 16 + e.2.1) e.2.2) g.tile }

/-- The status word of a tile (08 R264). -/
def Group.status (g : Group) (t : Nat) : W32 := tget 0#32 g.tstat t

/-- Replaces the status word of a tile. -/
def Group.setStatus (g : Group) (t : Nat) (v : W32) : Group := { g with tstat := tset 0#32 g.tstat t v }

/-- Whether a tile is invalid. -/
def Group.inv (g : Group) (t : Nat) : Bool := (g.status t).getLsbD 0

/-- Marks a tile invalid with a reason (08 R265). -/
def Group.markInvalid (g : Group) (t reason : Nat) : Group :=
  g.setStatus t ((g.status t &&& ~~~0xf00#32) ||| 1#32 ||| BitVec.ofNat 32 (reason * 256))

/-- What a reader of a tile sees (08 R265): `i32` for INT32. -/
def Group.readElem (g : Group) (i32 : Bool) (t row n : Nat) : W32 :=
  if g.inv t then (if i32 then 0x80000000#32 else 0x7fc00000#32) else g.elem t row n

/-- The sticky status bits of arithmetic flags: SAT, NV and OF (08 R264). -/
def stickyBits (f : FFlags) (hsm : Bool) : W32 :=
  BitVec.ofNat 32 (b2n (f.getLsbD 5) * 2 + b2n (f.getLsbD 0) * 4 + b2n (f.getLsbD 2) * 8 + b2n hsm * 16)

/-- Writes rows of a tile and its sticky bits. -/
def Group.setRows (g : Group) (d : Nat) (rows : List (Nat × Nat × W32)) (sticky : W32) : Group :=
  (g.setElems d rows).setStatus d (g.status d ||| sticky)

/-! ## The A operand (08 R259) -/

/-- The A element at K index 16j + k. -/
def aVal (ta : Ty) (regs : List W32) (j k : Nat) : FV :=
  let r (i : Nat) : Nat := (regs.getD (aRegsPerBlock ta * j + i) 0).toNat
  match ta with
  | .bf16 => bf16.dec (bits (r (k / 2)) (16 * (k % 2)) 16)
  | .e4m3 => e4m3.dec (bits (r (k / 4)) (8 * (k % 4)) 8)
  | .e5m2 => e5m2.dec (bits (r (k / 4)) (8 * (k % 4)) 8)
  | .i8 => ofIntN 8 (bits (r (k / 4)) (8 * (k % 4)) 8)
  | _ =>
    let v := e2m1.dec (bits (r (k / 8)) (4 * (k % 8)) 4)
    let sc := bits (r 2) 0 8
    if sc = 255 then .nan v.sign else v.scale ((sc : Int) - 127)

/-! ## The merge (03 R96 to R98) -/

/-- The exact body sum of 16 products, with NV (03 R96, R97): pairs of a body value and an A value. -/
def bodySum (l : List (FV × FV)) : FV × FFlags :=
  let ps := l.map fun e => e.1.mul e.2
  let inf (s : Bool) : Bool := ps.any fun p => p.1 == .inf s
  let nv := (inf true && inf false) || ps.any fun p => p.2 ≠ 0#6
  let fl := if nv then fNV else 0#6
  match l.find? fun e => e.2.isNan with
  | some e => (.nan e.2.sign, fl)
  | none =>
    if nv then (.nan false, fl)
    else match ps with
      | [] => (.fin false 0 0, 0#6)
      | p :: r => (r.foldl (fun a q => (a.add .rne q.1).1) p.1, fl)

/-- RNE32(acc + x), with the flags of both (03 R98). -/
def accAdd (acc : Fl) (x : FV × FFlags) : Fl :=
  let r := rnd32 .rne false ((dec32 acc.1).add .rne x.1)
  (r.1, acc.2 ||| x.2 ||| r.2)

/-- One accumulator element over one block (03 R98, 08 R277): `a` gives the A elements, `body` says whether a body sum is formed. -/
def mergeBlock (body : Bool) (ls : List Line) (a : Nat → FV) (n : Nat) (acc : Fl) : Fl :=
  let bf := (lineHdr (ls.getD 0 [])).bf
  let acc1 := if body then accAdd acc (bodySum ((List.range 16).map fun k => (bodyValue bf ls k n, a k))) else acc
  ((outliers ls).filter fun o => o.1 % 16 = n).foldl (fun acc o => accAdd acc (o.2.mul (a (o.1 / 16)))) acc1

/-- The rows of a product word: each lane's 16 elements, updated by `f` (which sees the lane, the column and the element). -/
def Group.productRows (g : Group) (d : Nat) (em : Mask) (f : Nat → Nat → W32 → Fl) : List (Nat × Nat × Fl) :=
  (lanesOf em).flatMap fun l => (List.range 16).map fun n => (l, n, f l n (g.elem d l n))

/-- Updates the rows of a tile by a product word, with the flags of its steps; an invalid tile stays (08 R265). -/
def Group.writeProduct (g : Group) (d : Nat) (em : Mask) (hsm : Bool) (f : Nat → Nat → W32 → Fl) : Group :=
  if g.inv d then g
  else
    let rows := g.productRows d em f
    g.setRows d (rows.map fun r => (r.1, r.2.1, r.2.2.1)) (stickyBits (orFlags (rows.map fun r => r.2.2.2)) hsm)

/-- The registers of a lane among those read at issue. -/
def laneRegs (l : List (Nat × List W32)) (lane : Nat) : List W32 := (tfind? l lane).getD []

/-- A B element of a dense block, from its code (08 R279). -/
def bVal (tb : Ty) (v : Nat) : FV :=
  match tb with
  | .bf16 => bf16.dec v
  | .e4m3 => e4m3.dec v
  | .e5m2 => e5m2.dec v
  | _ => ofIntN 8 v

/-- Bytes of a B element. -/
def bSize (tb : Ty) : Nat := if tb = .bf16 then 2 else 1

/-- A node of the product tree: the exact sum of two operands, rounded (03 R99). -/
def treeNode (x y : FV × FFlags) : FV × FFlags :=
  let t := x.1.add .rne y.1
  let r := rnd32 .rne false t
  (dec32 r.1, x.2 ||| y.2 ||| r.2)

/-- One level of the product tree. -/
def pairUp : List (FV × FFlags) → List (FV × FFlags)
  | x :: y :: r => treeNode x y :: pairUp r
  | l => l

/-- One element over one dense block: FP32 accumulation (08 R279). -/
def denseBlock (a b : Nat → FV) (acc : Fl) : Fl :=
  let ps := (List.range 16).map fun k => (a k).mul (b k)
  accAdd acc ((pairUp (pairUp (pairUp (pairUp ps)))).headD (.fin false 0 0, 0#6))

/-- A signed byte of a register or block. -/
def byteOf (v : FV) : Int :=
  match v with
  | .fin s m e => scaled s m e 0
  | _ => 0

/-- An INT32 element plus a sum of products (03 R100). -/
def int32Acc (st : Bool) (acc : W32) (sum : Int) : Fl :=
  let t := sxInt 32 acc.toNat + sum
  if st then
    let r := clampElem 32 true t
    (BitVec.ofNat 32 r.1, satFlag r.2)
  else (BitVec.ofNat 32 (modInt 32 t), 0#6)

/-- One element over `c` dense blocks (08 R279): `b j k` is B_j(k, n). -/
def denseElem (tb ta : Ty) (st : Bool) (c : Nat) (regs : List W32) (b : Nat → Nat → FV) (x : W32) : Fl :=
  if tb = .i8 then
    int32Acc st x ((List.range (16 * c)).foldl (fun t i => t + byteOf (aVal ta regs (i / 16) (i % 16)) * byteOf (b (i / 16) (i % 16))) 0)
  else (List.range c).foldl (fun acc j => denseBlock (aVal ta regs j) (b j) acc) (x, 0#6)

/-! ## Soft-max -/

/-- The exponential `E` (03 R108). -/
def flE (x : Fl) : Fl :=
  let y := flMul x (flc 0x3fb8aa3b)
  let r := fex232 y.1
  (r.1, y.2 ||| r.2)

/-- The larger of two values, as `fmax` (06 R194). -/
def flMax (x y : Fl) : Fl := ((laneMinMax true x.1 y.1 0).1, x.2 ||| y.2)

/-- −∞. -/
def flNegInf : Fl := flc 0xff800000

/-- 1.0. -/
def flOne : Fl := flc 0x3f800000

/-- The flags that a soft-max or merge step leaves in a tile's status: NV and OF (10 R339). -/
def nvOf (f : FFlags) : FFlags := f &&& (fNV ||| fOF)

/-- What `smax` computes of one row (10 R339). -/
structure SmaxRow where
  p : List W32
  m : W32
  l : W32
  alpha : W32
  flags : FFlags
  deriving DecidableEq, Repr

/-- One row of `smax` (10 R339): the scores, the running maximum and sum, the attend mask. -/
def smaxRow (acc : Nat → W32) (m0 l0 : W32) (mask : Nat) : SmaxRow :=
  let mx := (List.range 16).foldl (fun x n => if mask.testBit n then flMax x (acc n, 0#6) else x) flNegInf
  let m1 := flMax (m0, 0#6) mx
  if m1.1 = flNegInf.1 then ⟨List.replicate 16 0#32, m1.1, l0, flOne.1, 0#6⟩
  else
    let alpha := flE (flSub (m0, 0#6) m1)
    let p := (List.range 16).map fun n => if mask.testBit n then flE (flSub (acc n, 0#6) m1) else flc 0
    let l1 := flAdd (flMul (l0, 0#6) alpha) (tree flAdd 4 p)
    ⟨p.map (·.1), m1.1, l1.1, alpha.1, orFlags ((alpha :: l1 :: p).map (·.2))⟩

/-! ## The tile unit -/

/-- The scopes at which a write of a group acts as a release (05 R139). -/
def Group.relScopes (g : Group) (rel : Bool) (scp : Scope) : List Scope := (if rel then [scp] else []) ++ g.obs.fenced

/-- Pieces of four elements of a list. -/
def wordsOf {α : Type} : Nat → List α → List (List α)
  | 0, l => if l.isEmpty then [] else [l]
  | fuel + 1, l => if l.isEmpty then [] else l.take 4 :: wordsOf fuel (l.drop 4)

/-- Appends the stores of a group-wide word of lanes to a group's, 4 bytes each (08 R267, R271). -/
def Group.pushWords (g : Group) (lanes : Mask) (cells : List (Loc × Byte)) : Group :=
  { g with sbuf := g.sbuf ++ (wordsOf cells.length cells).map fun c => ⟨false, g.relScopes false .ln, lanes, c⟩ }

/-- The new value of an element under the blocks of a split product (08 R277). -/
def mergeElem (ta : Ty) (body : Bool) (regs : List (Nat × List W32)) (blocks : List (List Line)) (l n : Nat) (x : W32) : Fl :=
  let r := laneRegs regs l
  (List.range blocks.length).foldl (fun acc j => mergeBlock body (blocks.getD j []) (aVal ta r j) n acc) (x, 0#6)

/-- The new value of an element under a dense product of `c` blocks of bytes (08 R279). -/
def denseAt (tb ta : Ty) (st : Bool) (c : Nat) (regs : List (Nat × List W32)) (bytes : List Byte) (l n : Nat) (x : W32) : Fl :=
  let z := bSize tb
  denseElem tb ta st c (laneRegs regs l) (fun j k => bVal tb (leNat ((bytes.drop (256 * z * j + z * (16 * n + k))).take z))) x

/-- The rows of `smax` over a tile (10 R339). -/
def Group.smaxRows (g : Group) (d : Nat) (rows : List (Nat × W32 × W32 × Nat)) : List (Nat × SmaxRow) :=
  rows.map fun r => (r.1, smaxRow (fun n => g.readElem false d r.1 n) r.2.1 r.2.2.1 r.2.2.2)

/-- Writes tile rows with the NV and OF of their steps, unless the tile is invalid (08 R265, 10 R339). -/
def Group.attendRows (g : Group) (d : Nat) (rows : List (Nat × List W32)) (f : FFlags) : Group :=
  if g.inv d then g
  else g.setRows d (rows.flatMap fun r => (List.range 16).map fun n => (r.1, n, r.2.getD n 0#32)) (stickyBits (nvOf f) false)

/-- What a tile word's step does to the tiles, and for `tst` to the pending stores (08 R265 to R270, R277, R279; 10 R339, R341). -/
def Group.tileWrite (g : Group) : TOp → Group
  | .bad d why => g.markInvalid d why
  | .merge d em ta body hsm regs blocks => g.writeProduct d em hsm (mergeElem ta body regs blocks)
  | .dense d em tb ta st c regs bytes => g.writeProduct d em false (denseAt tb ta st c regs bytes)
  | .zero d => { g with tile := g.tile.filter fun e => !(decide (d * 1024 ≤ e.1) && decide (e.1 < (d + 1) * 1024)) }.setStatus d 0
  | .load d full vals => if full then (g.setElems d vals).setStatus d 0 else if g.inv d then g else g.setElems d vals
  | .scale d vals =>
    g.writeProduct d (maskOf (vals.map (·.1))) false fun l _ x => flMul (x, 0#6) ((tfind? vals l).getD 0#32, 0#6)
  | .store i32 d em rows =>
    let bytes (r : Nat) : List Byte := (List.range 16).flatMap fun n => leBytes 4 (g.readElem i32 d r n).toNat
    g.pushWords em (rows.flatMap fun r => r.2.zip (bytes r.1))
  | .read .. => g
  | .stat clr _ a => if clr then g.setStatus a (g.status a &&& ~~~0x1e#32) else g
  | .smax d _ rows =>
    let rs := g.smaxRows d rows
    g.attendRows d (rs.map fun r => (r.1, r.2.p)) (orFlags (rs.map fun r => r.2.flags))
  | .cred d _ rows f => g.attendRows d (rows.map fun r => (r.1, r.2.1)) f

/-- The results of class tile of a tile word's step (02 R72; 08 R268, R270; 10 R339, R341), from the tiles before it. -/
def Group.tileResults (g : Group) : TOp → List PRes
  | .bad d _ | .merge d .. | .dense d .. | .zero d | .load d .. | .scale d _ => [.t d]
  | .store .. => []
  | .read i32 d a em => (List.range 16).map fun n => .v (d + n) ((lanesOf em).map fun l => (l, g.readElem i32 a l n))
  | .stat _ d a => [.s d ((g.status a).setWidth 64)]
  | .smax d a rows =>
    let rs := g.smaxRows d rows
    [.v a (rs.map fun r => (r.1, r.2.m)), .v (a + 1) (rs.map fun r => (r.1, r.2.l)), .v (a + 2) (rs.map fun r => (r.1, r.2.alpha)), .t d]
  | .cred d a rows _ => [.v a (rows.map fun r => (r.1, r.2.2.1)), .v (a + 1) (rows.map fun r => (r.1, r.2.2.2)), .t d]

/-- The registers of those results. -/
def PRes.reg : PRes → RF × Nat
  | .s d _ => (.s, d)
  | .v d _ => (.v, d)
  | .p d _ _ => (.p, d)
  | .t d => (.t, d)
  | .q _ f d => (f, d)

/-- Gives the results of step `n` of the tile unit to the outstanding writes that await them, in order. -/
def fillResults (n : Nat) : List PRes → List Pend → List Pend
  | _, [] => []
  | [], l => l
  | r :: rs, q :: l =>
    match q.res with
    | .q m _ _ => if m = n then { q with res := r } :: fillResults n rs l else q :: fillResults n (r :: rs) l
    | _ => q :: fillResults n (r :: rs) l

/-- The tile unit performs a step that waited. -/
def Group.tileDo (g : Group) (x : TStep) : Group :=
  let fill := fillResults x.n (g.tileResults x.op)
  let g1 := g.tileWrite x.op
  { g1 with p0 := { g1.p0 with pend := fill g1.p0.pend }, p1 := { g1.p1 with pend := fill g1.p1.pend }, orph := fill g1.orph }

/-- The tile unit performs the steps that waited, in issue order. -/
def Group.drainTiles (g : Group) : Group := { g.tileq.foldl Group.tileDo g with tileq := [] }

end Sys2Proof.Machine
end

