-- ==== Sys2Proof/Machine/Ops.lean ====
section
/-! DEFINITION. The named operations over registers, memory, the events to the host, and taking an exception: the system
trap (13 R372 to R378) and the user trap (01 R38 to R41). -/

namespace Sys2Proof.Machine

/-! ## Defaults -/

/-- A free path slot. -/
def Path.idle : Path :=
  { pc := 0, mask := 0, owned := 0, jpc := 0, st := .free, stack := [], held := false, park := false, pend := [],
    wait := none, sweep := none, swi := 0, lastCyc := 0 }

/-- A free registration slot (07 R240). -/
def RegSlot.init : RegSlot := { h := 0, mode := .sig, free := true, ever := false, mp := 0 }

/-- A stream that is not configured (09 R311). -/
def Stream.init : Stream := { cfg := false, desc := [], rnd := 0, rounds := [], susp := none, bad := [], stall := none }

/-- What a group has observed that starts at a stamp. -/
def Obs.start (n : Nat) : Obs := { base := n, floor := n, seen := [], heard := [], dep := [], fenced := [], afence := n, rofloor := n, rinv := false }

/-- No group: what a slot without one reads as. -/
def Group.empty : Group :=
  { ctl := false, lid := 0, part := 0, asid := 0, team := 0, core := 0, gid := 0, rank := 0, w := 8, nv := 16, nt := 0,
    octet := 0, hpc := 0, pri := 0, cx := 0, cy := 0, cz := 0, gsh0 := 0, gsh1 := 0, vreg := [], sreg := [], preg := [],
    tile := [], tstat := [], tileq := [], fm := 0, sc := 0, fps := 0, rsd := 0, col := false, wdt := 0, wds := none, sec := 0, ends := [], fq := [],
    slots := [], streams := [], p0 := Path.idle, p1 := Path.idle, orph := [], uhc := 0, hpath := 0, qrc := 0,
    stopped := true, hold := .none, preempt := false, trap := none, flt := [], fltBad := false, sbuf := [],
    obs := Obs.start 0, deaf := none, lostRemote := none, age := 0, idle := 0, lastPath := 1 }

/-- An empty command queue (09 R288). -/
def Queue.init : Queue := { halted := false, handed := false, cmds := [] }

/-- No team. -/
def Team.empty : Team :=
  { lid := 0, cluster := 0, rank := 0, core := 0, part := 0, sps := 0, spb := 0, tg := 0, spm := [], phasers := [],
    cq := Queue.init, gq := Queue.init, quads := [], ended := [], past := true, saved := false, tfa := 0 }

/-- No cluster. -/
def Cluster.empty : Cluster := { lid := 0, idx := 0, cores := [], started := [], ended := [] }

/-- A core after reset: split 0 and no content (log entry 3). -/
def Core.init : Core :=
  { sps := 0, faulted := false, preq := 0, events := [], ro := [], btc := [], colour := false, resv := none }

/-- A die with nothing enabled. -/
def Die.init : Die :=
  { cyc := 0, rgen := 0, stale := 0, cen := 0, sen := 0, part := none, tlb := [], resetting := false, eseq := 0 }

/-- An engine slot never used: SEQ 0 (log entry 3). -/
def EngSlot.init : EngSlot :=
  { seq := 0, used := false, held := false, status := 1, team := 0, gid := 0, lid := 0, cmd := none, wrote := [], past := [] }

/-- A tile queue never initialised: open, empty (07 R432). -/
def TQueue.init : TQueue := { en := false, closed := false, head := 0, tail := 0, waits := [], pushes := [], closing := none }

/-- A launch queue after bring-up (14 R408, 16 R463): no ring, no partition. -/
def LQueue.init : LQueue :=
  { part := none, next := 0, halt := false, depw := false, base := 0, size := 0, woff := 0, coff := 0, used := 0, stuck := none, tst := 1, gap := 0,
    head := none, markers := [], cancels := [], done := [], floor := 0, hold := [], bad := false, eseq := 0 }

/-- No partition. -/
def Part.empty : Part :=
  { dies := 0, lsk := 0, rsk := 0, nas := 0, pcba := 0, ast := 0, fra := 0, frc := 0, rra := 0, rrc := 0, qasa := 0,
    lqmap := 0, rsz := [], gri := 0, gtick := 0, swd := 0, pth := 0, lkt := 0, npool := 0, pta := 0, dfqa := 0, dfqc := 0, fpa := 0,
    fpl := 0, gsq := 0, cc := false, old := false, drain := false, pend := false, oc := [], swc0 := 0, swc1 := 0, kc := [],
    dfq := [], dfn := 0, faults := [], fid := 0, frames := [], eseq := 0 }

/-- An empty peer-table entry (16 R467). -/
def Peer.empty : Peer := { v := false, psk := 0, paid := 0, pbase := 0 }

/-- A station that has counted nothing (16 R472). -/
def Station.init : Station := { lost := 0, retries := 0, flits := 0 }

/-! ## Groups, paths, cores -/

/-- The group in a slot. -/
def State.group (s : State) (gk : Nat) : Group := tget Group.empty s.groups gk

/-- Replaces the group in a slot. -/
def State.setGroup (s : State) (gk : Nat) (g : Group) : State := { s with groups := tput s.groups gk g }

/-- A path slot of a group. -/
def Group.path (g : Group) (p : Nat) : Path := if p = 0 then g.p0 else g.p1

/-- Replaces a path slot. -/
def Group.setPath (g : Group) (p : Nat) (q : Path) : Group := if p = 0 then { g with p0 := q } else { g with p1 := q }

/-- The issuing group. -/
def State.grp (s : State) : Group := s.group s.focus

/-- Replaces the issuing group. -/
def State.setGrp (s : State) (g : Group) : State := s.setGroup s.focus g

/-- The issuing path. -/
def State.pth (s : State) : Path := s.grp.path s.fpath

/-- Replaces the issuing path. -/
def State.setPth (s : State) (p : Path) : State := s.setGrp (s.grp.setPath s.fpath p)

/-- The core of a group key. -/
def coreOf (gk : Nat) : Nat := gk / Config.nSlots

/-- The slot of a group key. -/
def slotOf (gk : Nat) : Nat := gk % Config.nSlots

/-- The die of a core. -/
def dieOf (core : Nat) : Nat := core / Config.nSites

/-- A core's record. -/
def State.core (s : State) (c : Nat) : Core := tget Core.init s.cores c

/-- Replaces a core's record. -/
def State.setCore (s : State) (c : Nat) (x : Core) : State := { s with cores := tput s.cores c x }

/-- A die's record. -/
def State.die (s : State) (d : Nat) : Die := tget Die.init s.dies d

/-- Replaces a die's record. -/
def State.setDie (s : State) (d : Nat) (x : Die) : State := { s with dies := tput s.dies d x }

/-- A team's record. -/
def State.team (s : State) (t : Nat) : Team := tget Team.empty s.teams t

/-- Replaces a team's record. -/
def State.setTeam (s : State) (t : Nat) (x : Team) : State := { s with teams := tput s.teams t x }

/-- A partition's record. -/
def State.part (s : State) (p : Nat) : Part := tget Part.empty s.parts p

/-- Replaces a partition's record. -/
def State.setPart (s : State) (p : Nat) (x : Part) : State := { s with parts := tput s.parts p x }

/-- A cluster's record. -/
def State.cluster (s : State) (c : Nat) : Cluster := tget Cluster.empty s.clusters c

/-- A launch queue's record. -/
def State.lq (s : State) (q : Nat) : LQueue := tget LQueue.init s.lqs q

/-- Replaces a launch queue's record. -/
def State.setLq (s : State) (q : Nat) (x : LQueue) : State := { s with lqs := tput s.lqs q x }

/-- An engine slot's record. -/
def State.eng (s : State) (k : Nat) : EngSlot := tget EngSlot.init s.engs k

/-- Replaces an engine slot's record. -/
def State.setEng (s : State) (k : Nat) (x : EngSlot) : State := { s with engs := tput s.engs k x }

/-- Whether a core site is enabled (16 R457). -/
def State.coreEnabled (s : State) (c : Nat) : Bool := (s.die (dieOf c)).cen.testBit (c % Config.nSites)

/-- The cycle counter of the die of a group (16 R479). -/
def State.cycOf (s : State) (gk : Nat) : Nat := (s.die (dieOf (coreOf gk))).cyc

/-! ## Registers -/

/-- The outstanding results of a group. -/
def Group.pends (g : Group) : List Pend := g.p0.pend ++ g.p1.pend ++ g.orph

/-- The outstanding value of a scalar register, if a variable-latency write to it is outstanding (02 R73). -/
def pendS (l : List Pend) (n : Nat) : Option W64 :=
  match l with
  | [] => none
  | q :: r =>
    match q.res with
    | .s d v => if d = n then some v else pendS r n
    | _ => pendS r n

/-- The outstanding value of a lane of a vector register. -/
def pendV (l : List Pend) (n lane : Nat) : Option W32 :=
  match l with
  | [] => none
  | q :: r =>
    match q.res with
    | .v d vs => if d = n then (match tfind? vs lane with | some x => some x | none => pendV r n lane) else pendV r n lane
    | _ => pendV r n lane

/-- The outstanding value of a lane of a predicate register. -/
def pendP (l : List Pend) (n lane : Nat) : Option Bool :=
  match l with
  | [] => none
  | q :: r =>
    match q.res with
    | .p d ls vs => if d = n && mbit ls lane then some (mbit vs lane) else pendP r n lane
    | _ => pendP r n lane

/-- A code for a register, for the free choice of 02 R73: scalars, vectors and predicates apart. -/
def regCode (f : RF) (n : Nat) : Nat :=
  match f with
  | .s => n
  | .v => 256 + n
  | .p => 512 + n
  | .t => 1024 + n

/-- A scalar register as stored, `em` being the path's active mask (01 R32, 02 R50). -/
def Group.sraw (g : Group) (p n : Nat) : W64 := if n = 127 then (g.path p).mask else tget 0#64 g.sreg n

/-- The value that an outstanding write gives a scalar register as a path reads it: to `em` the path's own writes only, within the lanes that it
owns (01 R32). -/
def Group.spend (g : Group) (p n : Nat) : Option W64 :=
  if n = 127 then (pendS (g.path p).pend 127).map fun v => v &&& (g.path p).owned else pendS g.pends n

/-- Reads a scalar register at issue: with a write outstanding, old or new (02 R73). -/
def State.rs (s : State) (n : Nat) : W64 :=
  match s.grp.spend s.fpath n with
  | some v => if Config.landed s.fresh (regCode .s n) 0 then v else s.grp.sraw s.fpath n
  | none => s.grp.sraw s.fpath n

/-- Reads a lane of a vector register at issue (02 R73, 06 R210). -/
def State.rv (s : State) (n lane : Nat) : W32 :=
  match pendV s.grp.pends n lane with
  | some v => if Config.landed s.fresh (regCode .v n) lane then v else tget 0#32 s.grp.vreg (n * 64 + lane)
  | none => tget 0#32 s.grp.vreg (n * 64 + lane)

/-- Reads a lane of a predicate register at issue. -/
def State.rp (s : State) (n lane : Nat) : Bool :=
  match pendP s.grp.pends n lane with
  | some v => if Config.landed s.fresh (regCode .p n) lane then v else mbit (tget 0#64 s.grp.preg n) lane
  | none => mbit (tget 0#64 s.grp.preg n) lane

/-- A predicate register over all lanes, as a mask. -/
def State.rpm (s : State) (n : Nat) : Mask := maskOf ((List.range s.grp.w).filter fun l => s.rp n l)

/-- Writes a scalar register of a group; s127 writes the path's active mask within its owned set (01 R32). -/
def Group.ws (g : Group) (p n : Nat) (v : W64) : Group :=
  if n = 127 then g.setPath p { g.path p with mask := v &&& (g.path p).owned }
  else { g with sreg := tset 0#64 g.sreg n v }

/-- Writes lanes of a vector register. -/
def Group.wv (g : Group) (n : Nat) (l : List (Nat × W32)) : Group :=
  { g with vreg := l.foldl (fun t e => tset 0#32 t (n * 64 + e.1) e.2) g.vreg }

/-- Writes the lanes `ls` of a predicate register with the bits of `vs` (02 R51). -/
def Group.wp (g : Group) (n : Nat) (ls vs : Mask) : Group :=
  { g with preg := tset 0#64 g.preg n ((tget 0#64 g.preg n &&& ~~~ls) ||| (vs &&& ls)) }

/-- Writes a scalar register of the issuing group, with fixed latency. -/
def State.ws (s : State) (n : Nat) (v : W64) : State := s.setGrp (s.grp.ws s.fpath n v)

/-- Writes lanes of a vector register of the issuing group, with fixed latency. -/
def State.wv (s : State) (n : Nat) (l : List (Nat × W32)) : State := s.setGrp (s.grp.wv n l)

/-- Writes lanes of a predicate register of the issuing group. -/
def State.wp (s : State) (n : Nat) (ls vs : Mask) : State := s.setGrp (s.grp.wp n ls vs)

/-- The program counter of the issuing path. -/
def State.pc (s : State) : W64 := s.pth.pc

/-- The active mask of the issuing path. -/
def State.am (s : State) : Mask := s.pth.mask

/-- The effective mask of a guard (02 R59). -/
def State.em (s : State) (h : Hdr) : Mask :=
  let g := if h.gp < 12 then s.rpm h.gp else fullMask s.grp.w
  s.am &&& (if h.gn then ~~~g else g)

/-- What the value of a register depends on (05 R143); `whole`: no lane of it keeps its earlier value. -/
def Group.setDep (g : Group) (c n : Nat) (whole : Bool) : Group :=
  { g with obs := { g.obs with dep := tset 0 g.obs.dep c (if whole then n else max n (tget 0 g.obs.dep c)) } }

/-- Writes one outstanding result (02 R72) of path slot `p`; slot 2 holds those of ended paths, whose `em` is gone. -/
def Group.land (g : Group) (p : Nat) (q : Pend) : Group :=
  match q.res with
  | .s d v => if d = 127 && p = 2 then g else (g.ws p d v).setDep (regCode .s d) q.dep true
  | .v d l => (g.wv d l).setDep (regCode .v d) q.dep (l.length == g.w)
  | .p d ls vs => g.wp d ls vs
  | .t _ | .q .. => g

/-- Whether a result is one that the tile unit is to give (08 R263). -/
def Pend.queued (q : Pend) : Bool := match q.res with | .q .. => true | _ => false

/-- Writes every outstanding result of a path slot; those of words that wait in the tile unit stay outstanding. -/
def Group.landPath (g : Group) (p : Nat) : Group :=
  let q := g.path p
  let g' := q.pend.foldl (fun a x => a.land p x) g
  g'.setPath p { g'.path p with pend := q.pend.filter Pend.queued, park := false }

/-- Writes every outstanding result of a group (13 R373, R387). -/
def Group.landAll (g : Group) : Group :=
  let g1 := g.orph.foldl (fun a x => a.land 2 x) g
  ({ g1 with orph := g.orph.filter Pend.queued }.landPath 0).landPath 1

/-- Writes the outstanding results of the word at a path's PC: a continuing user trap finds every effect of its word complete (01 R39). Those of
words that wait in the tile unit stay outstanding. -/
def Group.landOwn (g : Group) (p : Nat) : Group :=
  let q := g.path p
  let g' := (q.pend.filter fun x => x.tpc = q.pc).foldl (fun a x => a.land p x) g
  g'.setPath p { g'.path p with pend := q.pend.filter fun x => x.tpc ≠ q.pc || x.queued }

/-- Adds an outstanding result to the issuing path. -/
def State.addPend (s : State) (cls : RCls) (res : PRes) (word : W64) (remote : List (Nat × Nat)) (dep : Nat := 0) : State :=
  s.setPth { s.pth with pend := s.pth.pend ++ [⟨cls, res, s.pc, word, remote, dep⟩] }

/-! ## Memory at its points of coherence -/

/-- The byte of a peer skein that PEERS maps an address to, as a key of the peer's memory (16 R467). -/
def State.peerKey (s : State) (pa : Nat) : Nat :=
  let e := tget Peer.empty s.peers (pa / 2 ^ 47 - 16)
  e.paid * 2 ^ 52 + e.psk * 2 ^ 47 + (e.pbase + pa % 2 ^ 47)

/-- Reads a byte at its point of coherence (05 R134). -/
def State.rb (s : State) : Loc → Byte
  | .gpa pa =>
    if pa < 2 ^ 51 then Memory.read s.mem pa
    else
      let k := s.peerKey pa
      match tfind? s.peerMem k with
      | some b => b
      | none => Config.peerByte k
  | .sp t o => Memory.read (s.team t).spm o

/-- Writes a byte at its point of coherence. -/
def State.wb (s : State) (l : Loc) (b : Byte) : State :=
  match l with
  | .gpa pa =>
    if pa < 2 ^ 51 then { s with mem := Memory.write s.mem pa b }
    else { s with peerMem := tput s.peerMem (s.peerKey pa) b }
  | .sp t o => s.setTeam t { s.team t with spm := Memory.write (s.team t).spm o b }

/-- The record of a tile queue, where its table assigns it (14 R431, R432): partition, capacity, ring. -/
def State.tqRecord (s : State) (q : Nat) : Option (Nat × Nat × Nat) :=
  let a := s.qta + 64 * q
  let w0 := Memory.num s.mem a 8
  let ring := Memory.num s.mem (a + 8) 8
  let rest := (List.range 48).all fun i => Memory.read s.mem (a + 16 + i) == 0#8
  let cap := bits w0 16 17
  if bit w0 8 && bits w0 9 7 == 0 && bits w0 33 31 == 0 && 1 ≤ cap && cap ≤ 65536 && ring % 64 == 0 && rest then
    some (bits w0 0 8, cap, ring)
  else none

/-- The queue whose record holds a physical address, if one does (14 R431). -/
def State.tqAt (s : State) (pa : Nat) : Option Nat :=
  if s.up && s.qta ≤ pa && pa < s.qta + 64 * 4096 then some ((pa - s.qta) / 64) else none

/-- A store that makes a record assigned initialises its queue (14 R432); one that clears EN ends the assignment. -/
def tqInit (before after : State) (q : Nat) : State :=
  match before.tqRecord q, after.tqRecord q with
  | none, some _ => { after with tqs := tput after.tqs q { TQueue.init with en := true } }
  | some _, none => { after with tqs := tmod after.tqs q fun t => { t with en := false } }
  | _, _ => after

/-- Whether memory reports an uncorrectable error for a location (13 R375). -/
def State.poisoned (s : State) : Loc → Bool
  | .gpa pa => s.poison.contains (pa / 128)
  | .sp _ _ => false

/-- Writes a byte at the stamp `n`; the value that it replaces stays among those that a read may return (05 R134, R142). -/
def State.putCell (n : Nat) (s : State) (c : Loc × Byte) : State :=
  let old := s.rb c.1
  let t := s.wb c.1 c.2
  if old = c.2 then t else { t with hist := ⟨c.1, old, n⟩ :: t.hist }

/-- Writes bytes at their points of coherence, in order, at one stamp. A store to the tile-queue table acts on the queues (14 R432). -/
def State.putCells (s : State) (cells : List (Loc × Byte)) : State :=
  let n := s.now + 1
  let s1 := { cells.foldl (State.putCell n) s with now := n }
  let qs := cells.filterMap fun c => match c.1 with | .gpa pa => s.tqAt pa | _ => none
  qs.eraseDups.foldl (fun a q => tqInit s a q) s1

/-- The releases at written locations come to an end: a later acquire there no longer returns them (05 R140). -/
def State.endRels (s : State) (cells : List (Loc × Byte)) : State :=
  { s with rels := s.rels.map fun r =>
      if r.till.isNone && cells.any (fun c => decide (c.1 = r.loc)) then { r with till := some s.now } else r }

/-- Writes that are not an RMW's: bytes at their points of coherence, in order. -/
def State.wcells (s : State) (cells : List (Loc × Byte)) : State := (s.putCells cells).endRels cells

/-- `n` bytes at consecutive physical addresses as a number. -/
def State.rnum (s : State) (pa n : Nat) : Nat := leNat ((List.range n).map fun i => s.rb (.gpa (pa + i)))

/-- Writes a number at consecutive physical addresses. -/
def State.wnum (s : State) (pa n v : Nat) : State :=
  s.wcells ((List.range n).zipWith (fun i b => (Loc.gpa (pa + i), b)) (leBytes n v))

/-- The location `i` bytes further on. -/
def Loc.plus : Loc → Nat → Loc
  | .gpa a, i => .gpa (a + i)
  | .sp t a, i => .sp t (a + i)

/-- A number at consecutive locations. -/
def State.lnum (s : State) (l : Loc) (n : Nat) : Nat := leNat ((List.range n).map fun i => s.rb (l.plus i))

/-- Writes a number at consecutive locations. -/
def State.wlnum (s : State) (l : Loc) (n v : Nat) : State :=
  s.wcells ((List.range n).zipWith (fun i b => (l.plus i, b)) (leBytes n v))

/-- The byte that a list of pending accesses, oldest first, leaves at a location. -/
def sbufByte (l : List Access) (x : Loc) : Option Byte :=
  l.foldl (fun acc a => match a.cells.reverse.find? (fun c => c.1 = x) with | some c => some c.2 | none => acc) none

/-- What a group reads at a location: its own pending stores first (05 R134, write–read). -/
def State.gb (s : State) (gk : Nat) (x : Loc) : Byte :=
  match sbufByte (s.group gk).sbuf x with
  | some b => b
  | none => s.rb x

/-- A number the issuing group reads at consecutive locations. -/
def State.gnum (s : State) (gk : Nat) (l : Loc) (n : Nat) : Nat := leNat ((List.range n).map fun i => s.gb gk (l.plus i))

/-- Appends accesses to the issuing group's pending stores (07 R228). -/
def State.pushStores (s : State) (l : List Access) : State := if l.isEmpty then s else s.setGrp { s.grp with sbuf := s.grp.sbuf ++ l }

/-- Appends one relaxed access of lanes to the issuing group's pending stores. -/
def State.pushStore (s : State) (lanes : Mask) (cells : List (Loc × Byte)) : State :=
  s.pushStores (if cells.isEmpty then [] else [⟨false, s.grp.relScopes false .ln, lanes, cells⟩])

/-- Appends the stores of a group-wide word of the issuing group (08 R271). -/
def State.pushWords (s : State) (lanes : Mask) (cells : List (Loc × Byte)) : State := s.setGrp (s.grp.pushWords lanes cells)

/-- Whether an access touches scratchpad. -/
def Access.scratch (a : Access) : Bool := a.cells.any fun c => match c.1 with | .gpa _ => false | _ => true

/-! ## What a read may return -/

/-- The partition of a group: for the control group, that of its die (13 R392). -/
def State.partOf (s : State) (g : Group) : Nat := if g.ctl then ((s.die (dieOf g.core)).part).getD 0 else g.part

/-- A group of a launch and a team as an agent (05 R131, R137, R138). -/
def State.agent (s : State) (part lid team gid : Nat) : Who :=
  { part := part, lid := lid, dc := (match tfind? s.launches lid with | some l => l.lr.dc | none => false),
    cluster := (s.team team).cluster, team := team, gid := gid }

/-- A group as an agent. -/
def State.who (s : State) (g : Group) : Who := s.agent (s.partOf g) g.lid g.team g.gid

/-- A fixed agent of a partition, such as its grace tracker: of no grid, and so in the instances of `.dev` and `.sys` only (05 R131, R137). -/
def Who.fixed (part : Nat) : Who := { part := part, lid := 2 ^ 64, dc := false, cluster := 2 ^ 64, team := 2 ^ 64, gid := 0 }

/-- Whether an access of a partition to a physical address goes to a peer module, or for `mesh` may go to another die: where a line is homed is not
architectural (04 R119, 16 R477). -/
def State.leaves (s : State) (mesh : Bool) (part pa : Nat) : Bool :=
  if mesh then decide (pa < 2 ^ 51) && decide (2 ≤ ((List.range Config.nDies).filter (s.part part).dies.testBit).length) else decide (2 ^ 51 ≤ pa)

/-- The first address among locations from which a group's read gets no answer (16 R476, R477). -/
def State.noAnswer (s : State) (gk : Nat) (l : List Loc) : Option Nat :=
  match (s.group gk).deaf with
  | none => none
  | some mesh => l.findSome? fun c => match c with
    | .gpa pa => if s.leaves mesh (s.partOf (s.group gk)) pa then some pa else none
    | _ => none

/-- Whether agent `y` is in agent `x`'s instance of a scope (05 R137, R138). -/
def covers (scp : Scope) (x y : Who) : Bool :=
  match scp with
  | .ln => false
  | .gp => x.lid == y.lid && x.team == y.team && x.gid == y.gid
  | .tm => x.lid == y.lid && x.team == y.team
  | .cl => x.lid == y.lid && x.cluster == y.cluster
  | .die => if x.dc then x.lid == y.lid else x.part == y.part
  | .dev => x.part == y.part
  | .sys => true

/-- The stamp from which a group must see a location: what happens before its next read, and what it has seen there (05 R134, R142). -/
def Obs.from_ (o : Obs) (l : List Loc) : Nat :=
  o.seen.foldl (fun m e => if e.1.any l.contains then max m e.2 else m) o.floor

/-- A group has seen locations as they are after the write of a stamp. -/
def Obs.saw (o : Obs) (l : List Loc) (n : Nat) : Obs := { o with seen := (l, n) :: o.seen }

/-- The stamps later than `lo` at which one of the locations changed. -/
def State.changes (s : State) (l : List Loc) (lo : Nat) : List Nat :=
  (s.hist.filter fun h => decide (lo < h.till) && l.contains h.loc).map (·.till)

/-- The byte that a location held after the write of a stamp (05 R134). -/
def State.byteAt (s : State) (n : Nat) (x : Loc) : Byte :=
  match (s.hist.filter fun h => decide (n < h.till) && decide (h.loc = x)).getLast? with
  | some h => h.byte
  | none => s.rb x

/-- The stamp at which one indivisible access reads, none where the locations have not changed since `lo` (05 R142; log entry 5): where they
have, which of the states since then it meets, the present one among them, is a free choice. -/
def State.pick (s : State) (l : List Loc) (lo code : Nat) : Option Nat :=
  match s.changes l lo with
  | [] => none
  | c :: cs => some (((c :: cs).map (· - 1) ++ [s.now]).getD (Config.older s.fresh code % ((c :: cs).length + 1)) s.now)

/-- Whether a location is one of memory and not of scratchpad. -/
def Loc.global : Loc → Bool
  | .gpa _ => true
  | .sp _ _ => false

/-- The releases that a read of locations at a stamp returns (05 R140). -/
def State.relsAt (s : State) (l : List Loc) (n : Nat) : List Rel :=
  s.rels.filter fun r => l.contains r.loc && decide (r.start ≤ n) && r.till.all fun t => decide (n < t)

/-- The latest stamp of releases. -/
def lastRel (l : List Rel) : Nat := l.foldl (fun m r => max m r.start) 0

/-- What a read by a group returns: its bytes, and the stamp on which a value computed from it depends (05 R143). -/
structure ReadRes where
  bytes : List Byte
  dep : Nat
  deriving DecidableEq, Repr

/-- Whether two locations lie in one aligned 4-byte word. -/
def Loc.sameWord : Loc → Loc → Bool
  | .gpa a, .gpa b => a / 4 == b / 4
  | .sp t a, .sp u b => t == u && a / 4 == b / 4
  | _, _ => false

/-- A list cut into pieces whose neighbours lie in one aligned 4-byte word (05 R133, 04 R117). -/
def byWord {α : Type} (key : α → Loc) : List α → List (List α)
  | [] => []
  | x :: r =>
    match byWord key r with
    | (y :: ys) :: rest => if (key x).sameWord (key y) then (x :: y :: ys) :: rest else [x] :: (y :: ys) :: rest
    | rest => [x] :: rest

/-- The aligned 4-byte words of consecutive locations (05 R133). -/
def locWords (l : List Loc) : List (List Loc) := byWord id l

/-- What an engine command reads at locations (05 R147, R133): each aligned 4-byte word as it is at a stamp since `lo`. -/
def State.engineBytes (s : State) (lo : Loc → Nat) (l : List Loc) : List Byte :=
  if s.hist.isEmpty then l.map s.rb
  else ((locWords l).zipIdx).flatMap fun w =>
    match s.pick w.1 (w.1.foldl (fun m x => max m (lo x)) 0) w.2 with
    | some n => w.1.map (s.byteAt n)
    | none => w.1.map s.rb

/-- What the group in a slot has observed becomes `f` of it. -/
def State.observeWith (s : State) (gk : Nat) (f : Obs → Obs) : State := s.setGroup gk { s.group gk with obs := f (s.group gk).obs }

/-! ## Read sections -/

/-- One open section of a colour fewer on a core: OC (14 R423). -/
def Part.decOc (p : Part) (core : Nat) (col : Bool) : Part :=
  { p with oc := tset 0 p.oc (core * 2 + b2n col) (tget 0 p.oc (core * 2 + b2n col) - 1) }

/-- One open section of a colour more on a core. -/
def Part.incOc (p : Part) (core : Nat) (col : Bool) : Part :=
  { p with oc := tset 0 p.oc (core * 2 + b2n col) (tget 0 p.oc (core * 2 + b2n col) + 1) }

/-- One section held by key-cache commands more (10 R326, 14 R424). -/
def Part.incKc (p : Part) (core : Nat) (col : Bool) : Part :=
  { p with kc := tset 0 p.kc (core * 2 + b2n col) (tget 0 p.kc (core * 2 + b2n col) + 1) }

/-- One section held by key-cache commands fewer. -/
def Part.decKc (p : Part) (core : Nat) (col : Bool) : Part :=
  { p with kc := tset 0 p.kc (core * 2 + b2n col) (tget 0 p.kc (core * 2 + b2n col) - 1) }

/-- The core of a running key-cache command that protects section `sec`, if there is one (10 R326). -/
def State.secCore (s : State) (sec : Nat) : Option Nat :=
  match s.engs.find? (fun e => match e.2.cmd with | some c => c.sec.any (fun x => x.1 == sec) | none => false) with
  | some e => some (e.1 / 128)
  | none => none

/-- A section's end is counted (05 R157): its count leaves OC, into KC of the core whose commands still protect it (14 R424). -/
def State.countEnd (s : State) (part core sec : Nat) (col : Bool) : State :=
  let p := (s.part part).decOc core col
  match s.secCore sec with
  | some c => s.setPart part (p.incKc c col)
  | none => s.setPart part p

/-- The ends of sections whose accesses are all performed. -/
def State.countEnds (s : State) (gk : Nat) : State :=
  let g := s.group gk
  let (d, r) := g.ends.partition fun e => e.n == 0 && e.strm.isEmpty
  d.foldl (fun a e => a.countEnd g.part g.core e.sec e.col) (s.setGroup gk { g with ends := r })

/-- A write of a release (05 R139): a read that returns it may synchronise with it; `plain`: a read of any order does (05 R159). -/
def State.addRels (s : State) (w : Who) (scps : List Scope) (cells : List (Loc × Byte)) (plain : Bool := false) : State :=
  { s with rels := (scps.flatMap fun p => cells.map fun c => ⟨c.1, w, p, s.now, none, plain⟩) ++ s.rels }

/-- Writes a number at locations as a release at a scope by a fixed agent of a partition; `plain`: a read of any order that returns it acquires
(05 R139, R159). -/
def State.releaseLocs (s : State) (part : Nat) (scp : Scope) (plain : Bool) (ls : List Loc) (v : Nat) : State :=
  (s.wcells (ls.zip (leBytes ls.length v))).addRels (Who.fixed part) [scp] (ls.zip (leBytes ls.length v)) plain

/-- What a group's release at a scope gives those that wait for it (05 R152, R154), at the scopes of its release fences too (05 R139). -/
def State.syncOf (s : State) (gk : Nat) (scp : Scope) : Sync :=
  ⟨((s.group gk).relScopes true scp).map fun p => (s.who (s.group gk), p), [], s.now⟩

/-- Performs pending access `i` of a group at its point of coherence (07 R228). -/
def State.perform (s : State) (gk i : Nat) : State :=
  let g := s.group gk
  match g.sbuf[i]? with
  | none => s
  | some a =>
    let g' := { g with sbuf := dropIdx g.sbuf i, obs := g.obs.saw (a.cells.map (·.1)) (s.now + 1),
                       ends := g.ends.map fun e => if i < e.n then { e with n := e.n - 1 } else e }
    (((s.setGroup gk g').wcells a.cells).addRels (s.who g) a.scps a.cells).countEnds gk

/-- Writes of a group that are performed at once (05 R134, R139). -/
def State.writeAs (s : State) (gk : Nat) (cells : List (Loc × Byte)) : State :=
  let g := s.group gk
  ((s.setGroup gk { g with obs := g.obs.saw (cells.map (·.1)) (s.now + 1) }).wcells cells).addRels (s.who g) (g.relScopes false .ln) cells

/-- Performs `n` pending accesses of a group, oldest first. -/
def State.performN (s : State) (gk : Nat) : Nat → State
  | 0 => s
  | n + 1 => (s.perform gk 0).performN gk n

/-- Performs every pending access of a group, oldest first. -/
def State.performAll (s : State) (gk : Nat) : State := s.performN gk (s.group gk).sbuf.length

/-! ## Reads and acquires of a group -/

/-- The releases among `rs` that synchronise with a read by `me`, an acquire at scope `acq` where it is one (05 R140, R159). -/
def synced (acq : Option Scope) (me : Who) (rs : List Rel) : List Rel :=
  rs.filter fun r => r.plain || acq.any fun a => covers a me r.who

/-- Whether a read performs the group's stores first: an acquire, or one that meets a pending release of its own group, while stores to
scratchpad are pending, which only their lanes may see (05 R145). -/
def Group.drainsFor (g : Group) (own : Access → Bool) (acq : Bool) (l : List Loc) : Bool :=
  g.sbuf.any Access.scratch
    && (acq || g.sbuf.any fun a => own a && !a.scps.isEmpty && a.cells.any fun c => l.contains c.1)

/-- One indivisible read of locations by a group (05 R133, R142): its own pending accesses among `own` first; elsewhere the values at the
stamp picked, and of scratchpad, whose writes become visible at one instant, those of now (05 R145). `acq` is the scope of an acquire (05
R139, R140), `dep` what the address depends on (05 R143). -/
def State.readAs (s : State) (gk : Nat) (own : Access → Bool) (acq : Option Scope) (dep code : Nat) (l : List Loc) : State × ReadRes :=
  let s := if (s.group gk).drainsFor own acq.isSome l then s.performAll gk else s
  let g := s.group gk
  let buf := g.sbuf.filter own
  let rest := l.filter fun x => (sbufByte buf x).isNone
  let t := s.pick (rest.filter Loc.global) (max (g.obs.from_ rest) dep) code
  let n := t.getD s.now
  let bytes := l.map fun x => (sbufByte buf x).getD (match t with | some n => s.byteAt n x | none => s.rb x)
  let me := s.who g
  let rs := (s.relsAt rest n).filter fun r => covers r.scp r.who me
  let o1 := { g.obs with floor := max g.obs.floor (lastRel (synced acq me rs)), heard := g.obs.heard ++ rs }
  (s.setGroup gk { g with obs := match t with | some n => o1.saw rest n | none => o1 }, ⟨bytes, lastRel rs⟩)

/-- Performs a group's stores where one of them to scratchpad, which only its lanes see so far, meets locations that a group-wide word reads (05
R145, R150). -/
def State.settleOwn (s : State) (gk : Nat) (l : List Loc) : State :=
  if (s.group gk).sbuf.any fun a => a.scratch && a.cells.any fun c => l.contains c.1 then s.performAll gk else s

/-- What a group-wide word reads at consecutive locations (08 R261, 05 R133): each aligned 4-byte word is a relaxed read of its own. -/
def State.readWide (s : State) (gk : Nat) (l : List Loc) : State × List Byte :=
  let s := s.settleOwn gk l
  if s.hist.isEmpty && s.rels.isEmpty then (s, l.map (s.gb gk))
  else (locWords l).zipIdx.foldl (fun acc w =>
    let (t, r) := acc.1.readAs gk (fun _ => true) none 0 w.2 w.1
    (t, acc.2 ++ r.bytes)) (s, [])

/-- `readWide` of several ranges, in order. -/
def State.readRanges (s : State) (gk : Nat) (ls : List (List Loc)) : State × List (List Byte) :=
  ls.foldl (fun acc l => let (t, b) := acc.1.readWide gk l; (t, acc.2 ++ [b])) (s, [])

/-- One aligned 4-byte word that a lane of a group reads, its group having no access pending there (06 R208). -/
def State.readWord (s : State) (gk code : Nat) (x : Loc) : State × W32 :=
  let (t, r) := s.readAs gk (fun _ => true) none 0 code ((List.range 4).map x.plus)
  (t, BitVec.ofNat 32 (leNat r.bytes))

/-- What every acquire of a group does beside its synchronisation: stores to scratchpad are performed (05 R145), and after an `rinv` the later
`ldr` see what the group sees (05 R156). -/
def State.acquireRo (s : State) (gk : Nat) : State :=
  let g := s.group gk
  let s1 := if g.obs.rinv || g.sbuf.any Access.scratch then s.performAll gk else s
  if g.obs.rinv then s1.observeWith gk fun o => { o with rofloor := s1.now, rinv := false } else s1

/-- What a group has taken from what it waited for, by a word of a scope (05 R147, R148, R152 to R154): the releases where each scope covers the
other agent (05 R140), and every write of a command. -/
def Obs.take (o : Obs) (me : Who) (scp : Scope) (l : List Sync) : Obs :=
  let n (y : Sync) : Nat := if y.rels.any fun r => covers r.2 r.1 me && covers scp me r.1 then y.at_ else 0
  { o with floor := l.foldl (fun m y => max m (n y)) o.floor,
           seen := (l.filter fun y => !y.locs.isEmpty).map (fun y => (y.locs, y.at_)) ++ o.seen }

/-- A wait, a pop or a `ttest` of a group that acquires at the scope of its word what it waited for (05 R152 to R154). -/
def State.acquireFrom (s : State) (gk : Nat) (scp : Scope) (l : List Sync) : State :=
  (s.observeWith gk fun o => o.take (s.who (s.group gk)) scp l).acquireRo gk

/-- An acquire of a group that sees every write performed so far (05 R158, R159; log entry 5). -/
def State.acquireAll (s : State) (gk : Nat) : State := (s.observeWith gk fun o => { o with floor := s.now }).acquireRo gk

/-- An acquire fence of a group at a scope (05 R139, R140): it synchronises with the releases that the group's reads have returned. -/
def State.acquireFence (s : State) (gk : Nat) (scp : Scope) : State :=
  let me := s.who (s.group gk)
  (s.observeWith gk fun o => { o with floor := max o.floor (lastRel (o.heard.filter fun r => covers scp me r.who)) }).acquireRo gk

/-- A release fence of a group at a scope (05 R139): its later writes act as releases. -/
def State.releaseFence (s : State) (gk : Nat) (scp : Scope) : State :=
  s.observeWith gk fun o => { o with fenced := if o.fenced.contains scp then o.fenced else scp :: o.fenced }

/-- A full fence of a group at a scope (05 R144): it sees what full fences before it had seen, where each covers the other. -/
def State.fullFence (s : State) (gk : Nat) (scp : Scope) : State :=
  let me := s.who (s.group gk)
  let n := (s.fences.filter fun f => covers f.scp f.who me && covers scp me f.who).foldl (fun m f => max m f.at_) 0
  let t := ((s.observeWith gk fun o => { o with floor := max o.floor n }).acquireFence gk scp).releaseFence gk scp
  { t with fences := ⟨me, scp, t.now⟩ :: t.fences }

/-! ## Events to the host -/

/-- The source of an event (16 R473). -/
inductive EvSrc
  | lq (q : Nat)
  | part (p : Nat)
  | die (d : Nat)
  | mgmt
  deriving DecidableEq, Repr

/-- The next ESEQ of a source (16 R473). -/
def State.eseq (s : State) : EvSrc → Nat
  | .lq q => (s.lq q).eseq
  | .part p => (s.part p).eseq
  | .die d => (s.die d).eseq
  | .mgmt => s.tp.eseq

/-- Counts an event of a source. -/
def State.bumpEseq (s : State) : EvSrc → State
  | .lq q => s.setLq q { s.lq q with eseq := (s.lq q).eseq + 1 }
  | .part p => s.setPart p { s.part p with eseq := (s.part p).eseq + 1 }
  | .die d => s.setDie d { s.die d with eseq := (s.die d).eseq + 1 }
  | .mgmt => { s with tp := { s.tp with eseq := s.tp.eseq + 1 } }

/-- Whether sequence number `a` is after `b` (16 R461). -/
def seqAfter (a b : Nat) : Bool :=
  let d := (a + 2 ^ 32 - b) % 2 ^ 32
  decide (0 < d) && decide (d < 2 ^ 31)

/-- Sends a DATA frame in the live session, keeping it for retransmission; without a session it waits. The oldest frame goes where there
are 65,536; one that the host has not acknowledged is counted (16 R461, R464). -/
def Transport.send (t : Transport) (payload : List Byte) : Transport :=
  if t.live then
    let past := decide (t.kept.length ≥ 65536)
    let lost := match t.kept.head? with | some f => past && !seqAfter t.acked f.1 | none => false
    { t with out := t.out ++ [⟨1, 0, t.txNext, t.rxNext, t.sid, payload⟩],
             kept := (if past then t.kept.drop 1 else t.kept) ++ [(t.txNext, payload)],
             dropped := t.dropped + b2n lost, txNext := (t.txNext + 1) % 2 ^ 32 }
  else
    let past := decide (t.backlog.length ≥ 65536)
    { t with backlog := (if past then t.backlog.drop 1 else t.backlog) ++ [payload], dropped := t.dropped + b2n past }

/-- Sends a frame that consumes no sequence number (16 R461). -/
def Transport.reply (t : Transport) (typ flags : Nat) (payload : List Byte) : Transport :=
  { t with out := t.out ++ [⟨typ, flags, t.txNext, t.rxNext, t.sid, payload⟩] }

/-- Sends an event: the header of 16 R471 and the body, padded to 16 bytes. `lq` and `part` are its LQ and PART fields. -/
def State.emit (s : State) (src : EvSrc) (ecode lq part : Nat) (body : List Byte) : State :=
  let size := 1 + (body.length + 15) / 16
  let srck := match src with | .lq _ => 0 | .part _ => 1 | .die _ => 2 | .mgmt => 3
  let die := match src with | .die d => d | _ => 0
  let hdr := leBytes 8 (ecode + lq * 2 ^ 8 + part * 2 ^ 16 + srck * 2 ^ 24 + die * 2 ^ 28 + size * 2 ^ 32)
    ++ leBytes 8 (s.eseq src)
  let pad := List.replicate (16 * (size - 1) - body.length) 0#8
  let s1 := s.bumpEseq src
  { s1 with tp := s1.tp.send (hdr ++ body ++ pad) }

/-- A remote write is lost (16 R472, R476): it is counted, and a LINK event is sent; which station carried it, and what else that station has
counted, is not stated (log entry 62). -/
def State.countLost (s : State) : State :=
  let st := Config.station s.fresh % 16
  let x := tget Station.init s.stations st
  let y : Station := { lost := (x.lost + 1) % 2 ^ 64, retries := (x.retries + Config.linkRetries s.fresh st) % 2 ^ 64,
                       flits := (x.flits + Config.flitErrors s.fresh st) % 2 ^ 64 }
  let s1 := { s with stations := tput s.stations st y, fresh := s.fresh + 1 }
  s1.emit .mgmt 9 0 0 (leBytes 8 st ++ leBytes 8 y.lost ++ leBytes 8 y.retries ++ leBytes 8 y.flits)

/-! ## Traps -/

/-- What a word says of the trap it raises. -/
structure Trap where
  cause : Nat
  reason : Nat
  addr : W64 := 0
  info0 : W64 := 0
  info1 : W64 := 0
  wr : Bool := false
  fetch : Bool := false
  lane : Nat := 0
  ucause : Nat := 0
  pages : List (Nat × Nat × Nat) := []
  adv : Bool := false
  deriving DecidableEq, Repr

/-- The 64 bytes of a trap record (13 R374). -/
def TrapRec.bytes (t : TrapRec) : List Byte :=
  leBytes 8 (t.cause + t.reason * 2 ^ 8 + t.ps * 2 ^ 16 + b2n t.fetch * 2 ^ 17 + b2n t.wr * 2 ^ 18 + t.ucause * 2 ^ 24
      + t.lane * 2 ^ 32)
    ++ leBytes 8 t.tpc.toNat ++ leBytes 8 t.word.toNat ++ leBytes 8 t.addr.toNat ++ leBytes 8 t.info0.toNat
    ++ leBytes 8 t.info1.toNat ++ leBytes 8 t.cyc.toNat ++ leBytes 8 0

/-- A control-group trap faults the core (13 R372): the group stops, the scheduler is to save the user groups (`execPreemptStop`), CFAULT is
sent. -/
def State.coreFault (s : State) (gk : Nat) (r : TrapRec) : State :=
  let c := coreOf gk
  let s1 := s.setGroup gk { s.group gk with stopped := true, trap := some r, deaf := none }
  let s2 := s1.setCore c { s1.core c with faulted := true }
  s2.emit (.die (dieOf c)) 4 0 (((s2.die (dieOf c)).part).getD 0)
    (leBytes 16 (c % Config.nSites) ++ r.bytes)

/-- Adds an event to a core's: in the order in which they arose, those of one clk in ascending slot order (13 R396). -/
def Core.addEvent (x : Core) (e : CoreEv) : Core :=
  { x with events := x.events.takeWhile (fun y => decide (y.cyc < e.cyc) || decide (y.cyc = e.cyc ∧ y.slot ≤ e.slot)) ++ [e]
      ++ x.events.dropWhile (fun y => decide (y.cyc < e.cyc) || decide (y.cyc = e.cyc ∧ y.slot ≤ e.slot)) }

/-- A pre-emption request for a slot is spent (13 R386, R388). -/
def Core.clearPreq (x : Core) (slot : Nat) : Core := { x with preq := x.preq - (if x.preq.testBit slot then 2 ^ slot else 0) }

/-- Completes what a group has issued: the tile words that wait in its tile unit (log entry 97), then its pending accesses. -/
def State.quiesce (s : State) (gk : Nat) : State := (s.setGroup gk (s.group gk).drainTiles).performAll gk

/-- A user group stops with a trap record (13 R373): what it has issued is completed, outstanding results written, the record stands in its frame, and
the event goes to the control group's `halt`, or to the scheduler (13 R378, R387). -/
def State.stopGroup (s : State) (gk : Nat) (r : TrapRec) (hold : Hold) : State :=
  let s := s.quiesce gk
  let g := (s.group gk).landAll
  let g' := { g with stopped := true, hold := hold, preempt := false, trap := some r, deaf := none }
  let s1 := s.setGroup gk g'
  let c := coreOf gk
  if hold = .ctl then s1.setCore c (((s1.core c).addEvent ⟨s1.cycOf gk, slotOf gk, 1, 0⟩).clearPreq (slotOf gk))
  else s1.setCore c ((s1.core c).clearPreq (slotOf gk))

/-- Whether an outstanding record of a partition covers the 64 KiB range of an address (15 R445). -/
def FaultRec.covers (f : FaultRec) (asid va : Nat) : Bool := f.asid == asid && f.va == va / 65536 * 65536

/-- Attaches an agent to the record of a faulting page, making one that waits to be sent where none covers it (15 R444, R445).
`pg` is (va, why, level). Answers the FID. -/
def Part.attach (p : Part) (asid : Nat) (pg : Nat × Nat × Nat) (kind src die site : Nat) (a : Attached) : Part × Nat :=
  match p.faults.find? (fun f => f.covers asid pg.1) with
  | some f =>
    let add (x : FaultRec) : FaultRec := { x with att := if x.att.contains a then x.att else x.att ++ [a] }
    ({ p with faults := p.faults.map fun x => if x.fid = f.fid then add x else x }, f.fid)
  | none =>
    let f : FaultRec :=
      { fid := p.fid, sent := false, asid := asid, kind := kind, why := pg.2.1, va := pg.1 / 65536 * 65536, lvl := pg.2.2,
        src := src, die := die, site := site, att := [a] }
    ({ p with fid := (p.fid + 1) % 2 ^ 32, faults := p.faults ++ [f] }, p.fid)

/-- Attaches a group to the records of every failing page (15 R444). -/
def State.pageFault (s : State) (gk : Nat) (kind : Nat) (pages : List (Nat × Nat × Nat)) : State :=
  let g := s.group gk
  let d := dieOf g.core
  pages.foldl (fun a pg =>
    let (p, fid) := (a.part g.part).attach g.asid pg kind 0 d (g.core % Config.nSites) (.group g.lid g.team g.gid)
    let g' := a.group gk
    (a.setPart g.part p).setGroup gk { g' with flt := if g'.flt.contains fid then g'.flt else g'.flt ++ [fid] }) s

/-- The trap record of a word of a path. -/
def State.trapRec (s : State) (gk p : Nat) (word : W64) (t : Trap) : TrapRec :=
  { cause := t.cause, reason := t.reason, ps := p, fetch := t.fetch, wr := t.wr, ucause := t.ucause, lane := t.lane,
    tpc := ((s.group gk).path p).pc, word := word, addr := t.addr, info0 := t.info0, info1 := t.info1,
    cyc := BitVec.ofNat 64 (s.cycOf gk) }

/-- A system trap of a path of a group (13 R372, R373, R378); `adv`: the path resumes at the next word (13 R375). -/
def State.sysTrap (s : State) (gk p : Nat) (word : W64) (t : Trap) : State :=
  let r := s.trapRec gk p word t
  let g := s.group gk
  let s1 := if t.adv then s.setGroup gk (g.setPath p { g.path p with pc := (g.path p).pc + 8 }) else s
  if g.ctl then s1.coreFault gk r
  else if t.cause = 2 then (s1.stopGroup gk r .page).pageFault gk t.reason t.pages
  else s1.stopGroup gk r .ctl

/-- Drops the outstanding writes to s120–s125 of a list: the delivery's later write wins (02 R74). -/
def dropHandlerPends (l : List Pend) : List Pend :=
  l.filter fun q => match q.res with | .s d _ | .q _ .s d => !(decide (120 ≤ d) && decide (d ≤ 125)) | _ => true

/-- A user trap (01 R38 to R41) of the issuing path. The effect of the word is already in the state, and for a continuing cause its results are
written and its stores performed (log entry 73). LANE of a UTR record is 0 (13 R374; log entry 112). -/
def State.userTrap (s : State) (word : W64) (cause : Nat) (info0 info1 : W64) (reexec : Bool) : State :=
  let s := if reexec then s else (s.setGrp (s.grp.landOwn s.fpath)).performAll s.focus
  let g := s.grp
  let q := s.pth
  let utr (reason : Nat) : State :=
    let r := s.trapRec s.focus s.fpath word
      { cause := 7, reason := reason, info0 := info0, info1 := info1, ucause := cause }
    if g.ctl then s.coreFault s.focus r
    else (if reexec then s else s.setPth { q with pc := q.pc + 8 }).stopGroup s.focus r .ctl
  if g.hpc = 0 then utr 1
  else if g.uhc ≠ 0 then utr 2
  else
    let o := g.path (1 - s.fpath)
    let oth := decide (o.st ≠ .free)
    let ps := s.fpath + b2n oth * 2 + q.stack.length * 4 + g.rsd * 256
    let wr (t : Tab W64) (n : Nat) (v : W64) : Tab W64 := tset 0#64 t n v
    let regs := wr (wr (wr (wr (wr (wr g.sreg 120 q.pc) 121 (BitVec.ofNat 64 cause)) 122 info0) 123 info1) 124 q.mask) 125
      (BitVec.ofNat 64 ps)
    let g1 := { g with sreg := regs, uhc := cause, hpath := s.fpath, orph := dropHandlerPends g.orph }
    let q1 := { q with pc := g.hpc, pend := dropHandlerPends q.pend }
    let o1 := { o with held := oth, pend := dropHandlerPends o.pend }
    s.setGrp ((g1.setPath s.fpath q1).setPath (1 - s.fpath) o1)

end Sys2Proof.Machine
end

