-- ==== Sys2Proof/Machine/Xlate.lean ====
section
/-! DEFINITION. Addresses: the page walk and the TLB (15 R436 to R443), physical addresses of the control group (13 R371, 16
R459), scratchpad addresses (04 R113, R114), and the check of every access of a word before any is performed (07 R223). -/

namespace Sys2Proof.Machine

/-- What an access needs of a page (15 R440). -/
inductive AKind | read | write | rmw | fetch deriving DecidableEq, Repr

/-- REASON of a PAGE trap, KIND of a fault record (13 R375, 15 R446). -/
def AKind.code : AKind → Nat
  | .read => 1
  | .write => 2
  | .fetch => 3
  | .rmw => 4

/-- Whether the access writes. -/
def AKind.wr : AKind → Bool
  | .write | .rmw => true
  | _ => false

/-- Why an access fails (15 R443): not performable now, with WHY and the level; a protection fault with its reason; data that memory
reports as uncorrectable, which ends an engine's read (09 R293). -/
inductive XFail
  | page (why lvl : Nat)
  | prot (reason : Nat)
  | mce
  deriving DecidableEq, Repr

/-- How a walk ends: a leaf with the page it maps and the address of the entry, or no valid entry (15 R438, R443). -/
inductive Walk
  | leaf (pte base size at_ : Nat)
  | bad (why lvl : Nat)
  deriving DecidableEq, Repr

/-- The lowest VA bit that a level indexes (15 R436); a leaf there maps 2 to this power bytes. -/
def levelLo : Nat → Nat
  | 4 => 48
  | 3 => 39
  | 2 => 30
  | 1 => 21
  | _ => 16

/-- Entries of a level's table, as a number of index bits (15 R436). -/
def levelBits : Nat → Nat
  | 0 => 5
  | _ => 9

/-- Walks `n` more levels, the next being level n − 1, from a table (15 R436 to R438): each entry as it stands at its point of coherence (15
R439), but for the pending stores `own` of the group that walks, which happen before its walk (05 R141). -/
def walkFrom (s : State) (own : List Access) (va : Nat) : Nat → Nat → Walk
  | 0, _ => .bad 2 0
  | l + 1, table =>
    let at_ := table + 8 * bits va (levelLo l) (levelBits l)
    let e := leNat ((List.range 8).map fun i => (sbufByte own (.gpa (at_ + i))).getD (s.rb (.gpa (at_ + i))))
    let pa := bits e 8 44 * 256
    if !bit e 0 then .bad 1 l
    else if bits e 52 12 ≠ 0 then .bad 2 l
    else if bit e 1 then
      if l ≥ 3 || pa % 2 ^ levelLo l ≠ 0 then .bad 2 l
      else .leaf e (va / 2 ^ levelLo l * 2 ^ levelLo l) (2 ^ levelLo l) at_
    else if l = 0 || bits e 2 6 ≠ 0 || (l ≥ 2 && pa % 4096 ≠ 0) then .bad 2 l
    else walkFrom s own va l pa

/-- The level-4 table of an address space, where its entry is valid (15 R435). -/
def State.asRoot (s : State) (p : Part) (asid : Nat) : Option Nat :=
  let e := s.rnum (p.ast + 16 * asid) 16
  if asid < p.nas && bit e 0 && bits e 1 7 == 0 && bits e 52 76 == 0 && bits e 8 4 == 0 then some (bits e 8 44 * 256) else none

/-- A fresh walk (15 R436). -/
def State.walk (s : State) (p : Part) (asid va : Nat) (own : List Access := []) : Walk :=
  match s.asRoot p asid with
  | some root => walkFrom s own va 5 root
  | none => .bad 1 4

/-- Bytes of the firmware region of skein 0 (16 R459). -/
def firmwareBytes : Nat := 2 ^ 26

/-- Whether a physical address lies in a skein of a partition, below its capacity (15 R440, 04 R115). -/
def State.paIn (s : State) (p : Part) (pa : Nat) : Bool :=
  let k := pa / 2 ^ 47
  let off := pa % 2 ^ 47
  if k < 16 then p.lsk.testBit k && decide (off < (s.skcap[k]?).getD 0) && !(k == 0 && decide (off < firmwareBytes))
  else decide (k < 32) && p.rsk.testBit (k - 16) && decide (off < (p.rsz[k - 16]?).getD 0 * 2 ^ 30)

/-- Judges an access by a leaf (15 R440, R443): permission, then MIG, then the physical address. -/
def State.judge (s : State) (p : Part) (pte base va : Nat) (k : AKind) : Except XFail Nat :=
  let pa := bits pte 8 44 * 256 + (va - base)
  let ok := match k with
    | .read => bit pte 2
    | .write => bit pte 3
    | .rmw => bit pte 2 && bit pte 3
    | .fetch => bit pte 4
  if !ok then .error (.prot 4)
  else if k.wr && bit pte 7 then .error (.page 3 0)
  else if !s.paIn p pa then .error (.prot 8)
  else .ok pa

/-- Whether a cached translation maps an address. -/
def TlbEnt.hits (e : TlbEnt) (part asid va : Nat) : Bool :=
  e.part == part && e.asid == asid && decide (e.base ≤ va) && decide (va < e.base + e.size)

/-- The level of a leaf from the size of its page. -/
def sizeLevel (size : Nat) : Nat := if size = 2 ^ 30 then 2 else if size = 2 ^ 21 then 1 else 0

/-- Translates one address: a cached entry that permits the access is used; otherwise a fresh walk decides, and its leaf is cached
(15 R441, log entry 5). -/
def State.xlate (s : State) (die part asid va : Nat) (k : AKind) (own : List Access := []) : State × Except XFail Nat :=
  let p := s.part part
  let fresh : State × Except XFail Nat :=
    match s.walk p asid va own with
    | .bad why lvl => (s, .error (.page why lvl))
    | .leaf pte base size _ =>
      match s.judge p pte base va k with
      | .error (.page why _) => (s, .error (.page why (sizeLevel size)))
      | .error f => (s, .error f)
      | .ok pa =>
        let d := s.die die
        let e : TlbEnt := ⟨part, asid, base, size, BitVec.ofNat 64 pte⟩
        (s.setDie die { d with tlb := e :: d.tlb.filter (fun e => !e.hits part asid va) }, .ok pa)
  match (s.die die).tlb.find? (fun e => e.hits part asid va) with
  | some e =>
    match s.judge p e.pte.toNat e.base va k with
    | .ok pa => (s, .ok pa)
    | .error _ => fresh
  | none => fresh

/-- Where the words of a group translate: its die, partition and address space; and its pending stores. -/
structure Space where
  die : Nat
  part : Nat
  asid : Nat
  own : List Access
  deriving DecidableEq, Repr

/-- The bytes of a global access of `n` bytes (at most 64 KiB): the physical address of each, or the failing address and why.
Validity comes first (04 R112), then each page it touches (15 R442). -/
def State.xspan (s : State) (sp : Space) (va n : Nat) (k : AKind) : State × Except (Nat × XFail) (List Nat) :=
  if va + n > 2 ^ 57 then (s, .error (va, .prot 1))
  else
    let n1 := min n (65536 - va % 65536)
    match s.xlate sp.die sp.part sp.asid va k sp.own with
    | (s1, .error f) => (s1, .error (va, f))
    | (s1, .ok pa) =>
      let l1 := (List.range n1).map (pa + ·)
      if n1 = n then (s1, .ok l1)
      else
        match s1.xlate sp.die sp.part sp.asid (va + n1) k sp.own with
        | (s2, .error f) => (s2, .error (va + n1, f))
        | (s2, .ok pa2) => (s2, .ok (l1 ++ (List.range (n - n1)).map (pa2 + ·)))

/-- The pages of a global access that are not there or are migrating, each with WHY and level (15 R442, R444). -/
def State.missing (s : State) (sp : Space) (va n : Nat) (k : AKind) : List (Nat × Nat × Nat) :=
  let n1 := min n (65536 - va % 65536)
  (if n1 = n then [va] else [va, va + n1]).filterMap fun a => match (s.xlate sp.die sp.part sp.asid a k sp.own).2 with
    | .error (.page why lvl) => some (a, why, lvl)
    | _ => none

/-- Why the control group may not access a byte at a physical address (13 R371, 16 R459): the firmware region is readable, and of it only the
tile-queue table writable; elsewhere the address lies in a skein of the die's partition. -/
def State.physAt (s : State) (die : Nat) (k : AKind) (pa : Nat) : Option Nat :=
  if pa < firmwareBytes then if !k.wr || (decide (s.qta ≤ pa) && decide (pa < s.qta + 64 * 4096)) then none else some 4
  else match (s.die die).part with
    | some q => if decide (pa < 2 ^ 52) && s.paIn (s.part q) pa then none else some 8
    | none => some 8

/-- Where what the control group may access changes: the ends of the firmware region, of the tile-queue table and of the skeins. -/
def State.physCuts (s : State) (die : Nat) : List Nat :=
  let p := s.part (((s.die die).part).getD 0)
  [firmwareBytes, s.qta, s.qta + 64 * 4096, 2 ^ 52] ++ (List.range 32).flatMap fun k =>
    [k * 2 ^ 47, k * 2 ^ 47 + (if k < 16 then (s.skcap[k]?).getD 0 else (p.rsz[k - 16]?).getD 0 * 2 ^ 30)]

/-- Why the control group may not access `n` bytes at a physical address: the reason of the first byte that it may not access. -/
def State.physOk (s : State) (die pa n : Nat) (k : AKind) : Option Nat :=
  if pa + n > 2 ^ 57 then some 1
  else
    let worse (b : Option (Nat × Nat)) (x : Nat) : Option (Nat × Nat) :=
      match s.physAt die k x, b with
      | some r, some y => if x < y.1 then some (x, r) else b
      | some r, none => some (x, r)
      | none, _ => b
    ((pa :: (s.physCuts die).filter fun x => decide (pa < x) && decide (x < pa + n)).foldl worse none).map (·.2)

/-- The space of a group. -/
def Group.space (g : Group) : Space := ⟨dieOf g.core, g.part, g.asid, g.sbuf⟩

/-- Why an access of a word does not go ahead: a failure, or a stall on a cluster member (01 R30, 13 R398) with the wait kind. -/
inductive AFail
  | fail (va : Nat) (f : XFail)
  | stall (wk rank : Nat)
  deriving DecidableEq, Repr

/-- A global access of a group: its locations (07 R223). The control group's addresses are physical. -/
def State.gaccess (s : State) (gk va n : Nat) (k : AKind) : State × Except AFail (List Loc) :=
  let g := s.group gk
  if g.ctl then
    match s.physOk (dieOf g.core) va n k with
    | none => (s, .ok ((List.range n).map fun i => Loc.gpa (va + i)))
    | some r => (s, .error (.fail va (.prot r)))
  else
    match s.xspan g.space va n k with
    | (s1, .ok pas) => (s1, .ok (pas.map Loc.gpa))
    | (s1, .error (a, f)) => (s1, .error (.fail a f))

/-- The team of a member rank of a cluster. -/
def State.memberTeam (s : State) (cluster rank : Nat) : Option (Nat × Team) :=
  s.teams.find? fun e => e.2.cluster == cluster && e.2.rank == rank

/-- A scratchpad access of `n` bytes by a team (04 R113, R114): the location of its first byte. -/
def State.saccess (s : State) (team a n : Nat) : Except AFail Loc :=
  let t := s.team team
  let off := bits a 0 22
  let win := bit a 22
  let rank := bits a 23 4
  let members := (s.cluster t.cluster).cores.length
  if a ≥ 2 ^ 27 || (!win && rank ≠ 0) || (win && rank ≥ members) || off + n > t.spb then .error (.fail a (.prot 2))
  else if !win || rank = t.rank then .ok (.sp team off)
  else if !(s.cluster t.cluster).started.contains rank then .error (.stall 7 rank)
  else
    match s.memberTeam t.cluster rank with
    | some (k, m) => if m.saved then .error (.stall 8 rank) else .ok (.sp k off)
    | none => .error (.stall 7 rank)

/-- A scratchpad access of a group; the control group addresses its own scratchpad with WIN = 0 only (13 R370). -/
def State.gsaccess (s : State) (gk a n : Nat) : Except AFail Loc :=
  let g := s.group gk
  if g.ctl && bit a 22 then .error (.fail a (.prot 2)) else s.saccess g.team a n

/-- One access of a word: its lane, address, and size. -/
structure Acc where
  lane : Nat
  addr : Nat
  n : Nat
  deriving DecidableEq, Repr

/-- One access checked: alignment where its entry asks for it (07 R222), validity, translation and permission. -/
def State.access (s : State) (gk : Nat) (glob aligned : Bool) (k : AKind) (x : Acc) : State × Except AFail (List Loc) :=
  let mis := aligned && x.addr % x.n ≠ 0
  if glob then
    if x.addr + x.n > 2 ^ 57 then (s, .error (.fail x.addr (.prot 1)))
    else if mis then (s, .error (.fail x.addr (.prot 3)))
    else s.gaccess gk x.addr x.n k
  else
    match s.gsaccess gk x.addr x.n with
    | .error (.fail a f) => (s, .error (.fail a f))
    | .error e => if mis then (s, .error (.fail x.addr (.prot 3))) else (s, .error e)
    | .ok l => if mis then (s, .error (.fail x.addr (.prot 3))) else (s, .ok ((List.range x.n).map l.plus))

/-- What the check of all accesses of a word finds (07 R223). -/
inductive Checked
  | ok (l : List (Acc × List Loc))
  | trap (t : Trap)
  | stall (wk rank : Nat)

/-- The trap of a failing access (13 R375, R376). -/
def failTrap (k : AKind) (x : Acc) (f : XFail) : Trap :=
  match f with
  | .page _ _ =>
    { cause := 2, reason := k.code, addr := BitVec.ofNat 64 x.addr, wr := k.wr, lane := x.lane, fetch := decide (k = .fetch) }
  | .prot r =>
    { cause := 3, reason := r, addr := BitVec.ofNat 64 x.addr, wr := k.wr, lane := x.lane, fetch := decide (k = .fetch) }
  | .mce => { cause := 9, reason := 0, addr := BitVec.ofNat 64 x.addr, lane := x.lane }

/-- Checks accesses in order: every one is translated before any is performed; the first failure decides the trap, and a PAGE
trap names every page of the word that is not there (07 R223, 15 R442, R444). -/
def State.check (s : State) (gk : Nat) (glob aligned : Bool) (k : AKind) (l : List Acc) : State × Checked :=
  let step (acc : State × List (Acc × Except AFail (List Loc))) (x : Acc) :=
    let (s1, r) := acc.1.access gk glob aligned k x
    (s1, acc.2 ++ [(x, r)])
  let (s1, rs) := l.foldl step (s, [])
  let tried (x : Acc) : Bool := glob && decide (x.addr + x.n ≤ 2 ^ 57) && !(aligned && x.addr % x.n ≠ 0)
  let pages := rs.flatMap fun r => match r.2 with | .error _ => (if tried r.1 then s1.missing (s1.group gk).space r.1.addr r.1.n k else []) | _ => []
  let firstFail := rs.findSome? fun r => match r.2 with | .error (.fail _ f) => some (r.1, f) | _ => none
  match firstFail with
  | some (x, f) => (s1, .trap { failTrap k x f with pages := pages })
  | none =>
    match rs.findSome? fun r => match r.2 with | .error (.stall wk rank) => some (wk, rank) | _ => none with
    | some (wk, rank) => (s1, .stall wk rank)
    | none => (s1, .ok (rs.filterMap fun r => match r.2 with | .ok ls => some (r.1, ls) | _ => none))

/-- The issuing path enters a scheduler-visible wait, by a word of scope `scp` where it has one; `wd`: the word, of an arrival at `.sys` (01 R44, 13
R382, 14 R422). -/
def State.enterWait (s : State) (wk : Nat) (wv1 wv2 : W64) (d c : Nat) (loc : Option Loc) (scp : Scope := .ln) (wd : W64 := 0#64) : State :=
  s.setPth { s.pth with st := .waiting, wait := some ⟨wk, wv1, wv2, d, c, loc, scp, wd⟩ }

/-! ## Fetching -/

/-- Fetches the word at a path's PC (15 R440, 06 R178): the 64-bit word, or the trap of the fetch; of the values that 02 R77 lets it return, the
latest (log entry 99). -/
def State.fetch (s : State) (gk p : Nat) : State × Except Trap Nat :=
  let pc := ((s.group gk).path p).pc.toNat
  match s.gaccess gk pc 8 .fetch with
  | (s1, .ok ls) =>
    (s1, match s1.noAnswer gk ls with
      | none => .ok (leNat (ls.map fun l => s1.gb gk l))
      | some a => .error { cause := 9, reason := 0, fetch := true, addr := BitVec.ofNat 64 a })
  | (s1, .error (.fail va (.page why lvl))) =>
    (s1, .error { failTrap .fetch ⟨0, pc, 8⟩ (.page why lvl) with pages := [(va, why, lvl)] })
  | (s1, .error (.fail _ f)) => (s1, .error (failTrap .fetch ⟨0, pc, 8⟩ f))
  | (s1, .error (.stall _ _)) => (s1, .error { cause := 3, reason := 8 })

end Sys2Proof.Machine
end

