-- ==== Sys2Proof/Machine/Pools.lean ====
section
/-! DEFINITION. Engine tokens and slots (09 R286, R287), pools and the deferred-free queue (14 R425, R428, R429; 07 R250). -/

namespace Sys2Proof.Machine

/-! ## Engine tokens and slots -/

/-- The key of an engine slot. -/
def slotKey (core eng slot : Nat) : Nat := (core * 2 + eng) * 64 + slot

/-- The token of a command (09 R286). -/
def mkToken (core eng slot seq : Nat) : W64 :=
  BitVec.ofNat 64 (seq + slot * 2 ^ 32 + eng * 2 ^ 38 + (core % Config.nSites) * 2 ^ 40 + dieOf core * 2 ^ 47 + 2 ^ 62)

/-- The slot that a well-formed token names, and whether it still holds the token's command (09 R286, 07 R246): none where the
token is malformed or was never accepted. -/
def State.token (s : State) (a : W64) : Option (Nat × Bool) :=
  let t := a.toNat
  let site := bits t 40 7
  let core := bits t 47 3 * Config.nSites + site
  let k := slotKey core (bits t 38 2) (bits t 32 6)
  let e := s.eng k
  let seq := bits t 0 32
  if bits t 50 12 ≠ 0 || bits t 62 2 ≠ 1 || bits t 38 2 ≥ 2 || site ≥ Config.nSites || !s.coreEnabled core || !e.used
      || (e.seq + 2 ^ 32 - seq) % 2 ^ 32 ≥ 2 ^ 31 then none
  else some (k, e.seq == seq)

/-- The status of a token (07 R246): 4 where its slot has taken a later command. -/
def State.tokenStatus (s : State) (k : Nat) (cur : Bool) : Nat := if cur then (s.eng k).status else 4

/-- The engine slots of an engine of a core, with their numbers. -/
def State.slotsOf (s : State) (core eng : Nat) : List (Nat × EngSlot) :=
  (List.range 64).map fun n => (n, s.eng (slotKey core eng n))

/-- The slots of an engine that a group holds (09 R287). -/
def State.heldBy (s : State) (core eng : Nat) (g : Group) : List (Nat × EngSlot) :=
  (s.slotsOf core eng).filter fun e => e.2.held && e.2.lid == g.lid && e.2.team == g.team && e.2.gid == g.gid

/-- What 09 R287 says of a command word: take slot `n`, hold, or trap. -/
inductive SlotRule
  | take (n : Nat)
  | hold
  | exhausted
  deriving DecidableEq, Repr

/-- The slot of a list that has held the fewest commands, the first of them: the free slot that is taken (log entry 21). -/
def leastUsed : List (Nat × EngSlot) → Option (Nat × EngSlot)
  | [] => none
  | e :: r =>
    match leastUsed r with
    | some f => if f.2.seq + b2n f.2.used < e.2.seq + b2n e.2.used then some f else some e
    | none => some e

/-- The slot rule for the issuing group (09 R287). Which free slot is taken is not stated (log entry 21). -/
def State.slotRule (s : State) (eng : Nat) : SlotRule :=
  let g := s.grp
  let mine := s.heldBy g.core eng g
  if mine.length ≥ 16 then
    if mine.any (fun e => e.2.status == 0) then .hold else .exhausted
  else
    match leastUsed ((s.slotsOf g.core eng).filter fun e => !e.2.held) with
    | some e => .take e.1
    | none => .hold

/-- A field of a command block (09 R289). -/
def Cmd.fld (c : Cmd) (lo n : Nat) : Nat := bits (leNat c.blk) lo n

/-- The member ranks of a mask, ascending. -/
def ranksOf (m : Nat) : List Nat := (List.range 12).filter fun r => m.testBit r

/-- The address of row `r` of a `cpy` (09 R300): its base and its step are fields of the block. -/
def Cmd.rowAt (c : Cmd) (base step r : Nat) : Nat := modInt 64 (((c.fld base 64 : Nat) : Int) + (r : Int) * sxInt 32 (c.fld step 32))

/-- The scratchpad addresses that a command's block names (09 R300 to R305; 10 R328, R330). -/
def Cmd.spads (c : Cmd) : List Nat :=
  let at_ (glob lo n : Nat) : List Nat := if c.fld glob 1 = 1 then [] else [c.fld lo n]
  let rows (glob base step : Nat) : List Nat := if c.fld glob 1 = 1 then [] else (List.range (c.fld 288 16)).map (c.rowAt base step)
  (match c.word with
    | 1 => rows 304 128 320 ++ rows 305 192 352
    | 2 => at_ 300 128 64
    | 3 | 4 => at_ 356 128 64 ++ at_ 357 192 64 ++ [c.fld 256 27]
    | 5 => [c.fld 128 27, c.fld 192 27, c.fld 256 27, c.fld 320 27]
    | 16 => c.fld 192 27 :: (if c.fld 299 1 = 1 then [c.fld 272 27] else [])
    | 17 | 18 => [c.fld 192 27]
    | _ => [])
  ++ (if c.fld 15 1 = 1 && c.fld 127 1 = 1 && c.word ≠ 2 then [c.fld 64 57] else [])

/-- The member ranks whose scratchpad a command names through the cluster window, or as receivers (04 R113, 09 R301). -/
def Cmd.ranks (c : Cmd) : List Nat :=
  ((c.spads.filter fun a => bit a 22 && decide (a < 2 ^ 27)).map fun a => bits a 23 4) ++ (if c.word = 2 then ranksOf (c.fld 288 12) else [])

/-- Whether a command names the scratchpad of a team (01 R26): the issuing team's, or that of a member of its cluster; a `gath` or `scat` whose
indexed side is scratchpad may reach any of them (log entry 105). -/
def State.names (s : State) (c : Cmd) (team : Nat) : Bool :=
  c.team == team
    || (decide (team < 2 ^ 32) && decide (c.team < 2 ^ 32) && (s.team c.team).cluster == (s.team team).cluster
      && (c.ranks.contains (s.team team).rank || ((c.word == 3 || c.word == 4) && c.fld 356 1 == 0)))

/-- Whether a command that names a team's scratchpad has not completed (01 R26). -/
def State.teamBusy (s : State) (team : Nat) : Bool := s.engs.any fun e => e.2.cmd.any fun c => s.names c team

/-- Whether such a command has been accepted and has not ended (09 R298). -/
def State.teamHeld (s : State) (team : Nat) : Bool := s.engs.any fun e => e.2.cmd.any fun c => decide (c.st ≠ .queued) && s.names c team

/-! ## Pools -/

/-- An entry of the pool table (14 R429). -/
structure Pool where
  kind : Nat
  asid : Nat
  base : Nat
  nblk : Nat
  bsz : Nat
  rcb : Nat
  deriving DecidableEq, Repr

/-- Entry `p` of a partition's pool table, where its KIND is 1 or 2 (14 R429). -/
def State.poolEntry (s : State) (part p : Nat) : Option Pool :=
  let q := s.part part
  let a := q.pta + 64 * p
  let w0 := s.rnum a 8
  let e : Pool := { kind := bits w0 0 2, asid := bits w0 8 16, base := s.rnum (a + 8) 8, nblk := s.rnum (a + 16) 4,
                    bsz := s.rnum (a + 20) 4, rcb := s.rnum (a + 24) 8 }
  if p < q.npool && (e.kind == 1 || e.kind == 2) then some e else none

/-- Such an entry without a reserved bit set (14 R429). -/
def State.pool (s : State) (part p : Nat) : Option Pool :=
  let a := (s.part part).pta + 64 * p
  let w0 := s.rnum a 8
  if bits w0 2 6 == 0 && bits w0 24 40 == 0 && s.rnum (a + 32) 32 == 0 then s.poolEntry part p else none

/-- A pool that the address space owns (14 R429). -/
def State.ownedPool (s : State) (part asid p : Nat) : Option Pool :=
  match s.pool part p with
  | some e => if e.asid = asid && (s.asRoot (s.part part) asid).isSome then some e else none
  | none => none

/-- The reason of the protection fault that a `dfree` raises, 0 where it raises none (07 R250); the lowest of those that apply. -/
def State.dfreeReason (s : State) (a b : W64) : Nat :=
  let g := s.grp
  let addr := a.toNat
  let pw := b.toNat
  if addr ≥ 2 ^ 57 then 1
  else
    match s.ownedPool g.part g.asid (bits pw 0 16) with
    | none => 5
    | some e =>
      let inside := decide (e.base ≤ addr) && decide (addr < e.base + e.nblk * e.bsz)
      if bits pw 24 40 ≠ 0 || (e.kind = 1 && !inside) then 5
      else if e.kind = 1 && e.bsz ≠ 0 && (addr - e.base) % e.bsz ≠ 0 then 3
      else 0

/-- Whether the deferred-free ring is full (14 R428). -/
def Part.dfqFull (p : Part) : Bool := decide (p.dfq.length ≥ p.dfqc)

/-- The target of a grace-period request (07 R249, 14 R425). -/
def Part.target (p : Part) : Nat := if p.drain then p.gsq + 2 else p.gsq + 1

/-- Requests a grace period (14 R425). -/
def Part.request (p : Part) : Part := { p with pend := true }

/-- The place in the deferred-free ring that an append takes: the next in turn that holds no entry still to be released (14 R428, log entry 57). -/
def Part.dfPlace (p : Part) : Nat :=
  let n := max p.dfqc 1
  (((List.range n).map fun i => (p.dfn + i) % n).find? fun j => !p.dfq.any fun e => e.idx == j).getD 0

/-- Appends an entry to the deferred-free queue and its ring, and requests a grace period (07 R250, 14 R428). -/
def State.dfAppend (s : State) (part addr sc pool : Nat) : State :=
  let p := s.part part
  let e : DfEnt := { addr := addr, sc := sc, pool := pool, target := p.target, idx := p.dfPlace }
  let s1 := s.setPart part { p.request with dfq := p.dfq ++ [e], dfn := p.dfn + 1 }
  let a := p.dfqa + 32 * p.dfPlace
  ((s1.wnum a 8 addr).wnum (a + 8) 8 (sc + pool * 2 ^ 16)).wnum (a + 16) 16 p.target

end Sys2Proof.Machine
end

