-- ==== Sys2Proof/Machine/Operands.lean ====
section
/-! DEFINITION. The operand forms: scalar and vector second sources (06 R169, R172), elements of a lane's register (06 R169),
class-4 addresses and data (07 R220, R221), conditions (06 R171). -/

namespace Sys2Proof.Machine

/-- The second source of a scalar ALU word (06 R172): a register, or k sign-extended. -/
def State.ssrc (s : State) : SSrc → W64
  | .reg n => s.rs n
  | .imm k => k.signExtend 64

/-- Bytes of an access of each width (07 R219). -/
def wbytes : Width → Nat
  | .b => 1
  | .h => 2
  | .w => 4
  | .d => 8

/-- The second source of a class-1 word in a lane, as its 32-bit value: with IM the immediate stands in every element (06 R169). -/
def State.vsrc (s : State) (e : Nat) (b : VSrc) (lane : Nat) : W32 :=
  match b with
  | .reg n => s.rv n lane
  | .imm k => ofElems e fun _ => modInt e (sxInt 8 k.toNat)

/-- The second source of a class-1 shift: an immediate count is zero-extended (06 R169). -/
def State.vzsrc (s : State) (e : Nat) (b : VSrc) (lane : Nat) : W32 :=
  match b with
  | .reg n => s.rv n lane
  | .imm k => ofElems e fun _ => k.toNat

/-- A condition of `vcmp` and `sset` on two n-bit values (06 R171). -/
def icond {n : Nat} (cc : ICond) (a b : BitVec n) : Bool :=
  match cc with
  | .eq => a == b
  | .ne => a != b
  | .lt => a.slt b
  | .le => a.sle b
  | .gt => b.slt a
  | .ge => b.sle a
  | .ltu => a.ult b
  | .leu => a.ule b
  | .gtu => b.ult a
  | .geu => b.ule a

/-- The target of a direct branch or call (06 R178). -/
def State.target (s : State) (off : BitVec 23) : W64 := s.pc + 8 * off.signExtend 64

/-- An indirect target: bits 0 to 2 are ignored (06 R178). -/
def clear3 (a : W64) : W64 := a &&& ~~~7#64

/-- The address of a lane's access (07 R220): contiguous, per-lane (a register pair for global addresses), uniform. -/
def State.addr (s : State) (glob : Bool) (am : AMode) (a : Nat) (e : W64) (lane z : Nat) : W64 :=
  match am with
  | .contig => s.rs a + e + BitVec.ofNat 64 (lane * z)
  | .uniform => s.rs a + e
  | .lane =>
    if glob then (s.rv a lane).setWidth 64 + ((s.rv (a + 1) lane).setWidth 64 <<< 32) + e
    else (s.rv a lane).setWidth 64 + e

/-- The accesses of a class-4 word: one per lane of the effective mask, or one for a uniform word (07 R220). -/
def State.accs (s : State) (glob : Bool) (am : AMode) (a : Nat) (e : W64) (z : Nat) (em : Mask) : List Acc :=
  match am with
  | .uniform => if em = 0#64 then [] else [⟨0, (s.addr glob am a e 0 z).toNat, z⟩]
  | _ => (lanesOf em).map fun l => ⟨l, (s.addr glob am a e l z).toNat, z⟩

/-- The data a store or atomic reads at issue for a lane (07 R221): the low z bytes of the register, or of the pair. -/
def State.data (s : State) (am : AMode) (d lane z : Nat) : Nat :=
  match am with
  | .uniform => (s.rs d).toNat % 2 ^ (8 * z)
  | _ =>
    let lo := (s.rv d lane).toNat
    if z = 8 then lo + (s.rv (d + 1) lane).toNat * 2 ^ 32 else lo % 2 ^ (8 * z)

/-- A loaded value of z bytes extended to `n` bits by SX (07 R221). -/
def extend (n z : Nat) (sx : Bool) (v : Nat) : Nat := if sx then modInt n (sxInt (8 * z) v) else v % 2 ^ n

/-- The register results of values per lane (07 R221, R229): a scalar for a uniform word, a register, or a register pair. -/
def loadResults (am : AMode) (d z : Nat) (sx : Bool) (vals : List (Nat × Nat)) : List PRes :=
  match am with
  | .uniform => vals.map fun v => PRes.s d (BitVec.ofNat 64 (extend 64 z sx v.2))
  | _ =>
    if vals.isEmpty then []
    else if z = 8 then
      [.v d (vals.map fun v => (v.1, BitVec.ofNat 32 v.2)), .v (d + 1) (vals.map fun v => (v.1, BitVec.ofNat 32 (v.2 / 2 ^ 32)))]
    else [.v d (vals.map fun v => (v.1, BitVec.ofNat 32 (extend 32 z sx v.2)))]

/-- The offset of a load, store or prefetch (07 R219). -/
def memOff (off : BitVec 16) : W64 := off.signExtend 64

/-- Adds the results of a word to its path's outstanding results (02 R72). -/
def State.addPends (s : State) (cls : RCls) (rs : List PRes) (word : Nat) : State :=
  rs.foldl (fun a r => a.addPend cls r (BitVec.ofNat 64 word) []) s

/-- Adds a vector result of the issuing path, where it writes any lane. -/
def State.addPendV (s : State) (cls : RCls) (d : Nat) (lanes : List (Nat × W32)) (word : Nat) : State :=
  if lanes.isEmpty then s else s.addPend cls (.v d lanes) (BitVec.ofNat 64 word) []

end Sys2Proof.Machine
end

