-- ==== Sys2Proof/Machine/Issue.lean ====
section
/-! DEFINITION. Issuing a word: its result classes (02 R72 to R75), what holds it (14 R418), the reasons of 02 R76 that depend on the
group, and `word`, which says once what every instruction word does around its own effect. -/

namespace Sys2Proof.Machine

/-- The class of variable-latency results that a word writes (02 R72), none where its results have fixed latency. -/
def resClass : Instr → Option RCls
  | .lds .. | .ldg .. | .ldr .. | .ldc .. | .spop .. | .spopPred .. | .tqpop .. | .atom .. | .atoms .. => some .ld
  | .sfmtSwap .. | .smm .. | .smms .. | .pmm .. | .dmm .. | .qmm .. | .tzero .. | .tld .. | .tmov .. | .tmovToTile ..
  | .tscl .. | .tstat .. | .rot .. | .smaxSoftmax .. | .cred .. => some .tile
  | .vperm .. | .vpush .. | .vshfx .. | .vshfu .. | .vshfd .. | .vbcast .. | .vbcastScalar .. | .vred .. | .vredVector ..
  | .vscan .. | .vscanExcl .. | .vballot .. | .vfirst .. | .frcp .. | .frsq .. | .fex2 .. | .flg2 .. | .vhad .. => some .x
  | .pairedWord _ h0 h1 => if h0.op = .lds ∨ h1.op = .lds then some .ld else none
  | _ => none

/-- How many results of its class a word adds (02 R72, R75). -/
def resCount : Instr → Nat
  | .pairedWord .. => 1
  | i => i.uses.w.length

/-- Results of a class outstanding in a path (02 R75). -/
def Path.count (p : Path) (c : RCls) : Nat := p.pend.countP fun q => q.cls = c

/-- Whether a register has a variable-latency write outstanding that a write must wait for (02 R74): of a scalar register either path's, of
the others the same path's, and one of another path that writes lanes which the path now owns, so that the later write wins (01 R36); tiles are
not held at issue (08 R263). -/
def Group.writeHeld (g : Group) (p : Nat) : RF × Nat → Bool
  | (.s, n) => (g.spend p n).isSome
      || (if n = 127 then (g.path p).pend else g.pends).any fun q => match q.res with | .q _ f d => f == .s && d == n | _ => false
  | (.v, n) => g.pends.any (fun q => match q.res with | .q _ f d => f == .v && d == n | _ => false) || (g.path p).pend.any (fun q => match q.res with | .v d _ => d == n | _ => false)
      || g.pends.any fun q => match q.res with | .v d l => d == n && l.any (fun e => mbit (g.path p).owned e.1) | _ => false
  | (.p, n) => (g.path p).pend.any (fun q => match q.res with | .p d _ _ => d == n | _ => false)
      || g.pends.any fun q => match q.res with | .p d ls _ => d == n && ls &&& (g.path p).owned ≠ 0#64 | _ => false
  | (.t, _) => false

/-- Whether a word is held at issue by outstanding results: a park marker, a write of a register with a write outstanding, a
count limit (02 R74, R75). A word with more results than its class's limit issues when none of the class is outstanding
(log entry 20). -/
def Group.held (g : Group) (p : Nat) (i : Instr) : Bool :=
  let q := g.path p
  (q.park && !q.pend.isEmpty) || q.sweep.isSome || i.uses.w.any (fun r => g.writeHeld p r)
    || (match resClass i with
        | none => false
        | some c => if resCount i > c.limit then decide (q.count c ≠ 0) else decide (q.count c + resCount i > c.limit))

/-- A class-6 word (02 R69). -/
def isClass6 : Instr → Bool
  | .sfmt .. | .sfmtSwap .. | .enc .. | .dec .. | .smm .. | .smms .. | .pmm .. | .dmm .. | .qmm .. | .tzero .. | .tld ..
  | .tst .. | .tmov .. | .tmovToTile .. | .tscl .. | .tstat .. | .rset .. | .rot .. | .kvld .. | .kvapp .. | .kvwr ..
  | .kvtrim .. | .kvsplice .. | .kvshift .. | .btinv .. | .smaxSoftmax .. | .cred .. => true
  | _ => false

/-- A class-7 word that only the control group may issue (13 R369). -/
def isPrivileged : Instr → Bool
  | .csrr .. | .csrw .. | .dbgr .. | .dbgw .. | .rtiResume .. | .rtiEnd .. | .rtiAbort .. | .halt .. | .ctxsv .. | .ctxld ..
  | .tlbinv .. | .bflip .. | .pgcopy .. => true
  | _ => false

/-- A word that the control group may not issue (13 R371); `phreg` and `pharr` only on scratchpad phasers. -/
def State.ctlForbidden (s : State) : Instr → Bool
  | .rsb .. | .rse .. | .gsync .. | .dfree .. | .cpym .. | .tqpush .. | .tqpop .. | .tqclose .. | .tqcloseOpen .. | .tret ..
  | .sysc .. => true
  | .phreg _ _ a _ => (s.rs a).getLsbD 63
  | .pharr _ _ _ k => (tget RegSlot.init s.grp.slots k).h.getLsbD 63
  | i => isClass6 i

/-- The registers of `qmm`'s quarter: 64/W from v(B) (08 R280). -/
def qmmB (w : Nat) : Instr → Nat
  | .qmm _ _ _ _ _ _ _ b => b + 64 / w - 1
  | _ => 0

/-- Whether a register lies beyond the group's allocation (02 R49). -/
def Group.beyond (g : Group) : RF × Nat → Bool
  | (.v, n) => decide (n ≥ g.nv)
  | (.t, n) => decide (n ≥ g.nt)
  | _ => false

/-- The lowest reason of 02 R76 that depends on the issuing group, for a well-formed word: 0 where there is none. -/
def State.dynReason (s : State) (i : Instr) : Nat :=
  let g := s.grp
  if qmmB g.w i ≥ 256 then 10
  else if i.uses.r.any g.beyond || i.uses.w.any g.beyond || decide (qmmB g.w i ≥ g.nv) then 11
  else if (match i with
      | .vshfx _ _ _ m | .vshfu _ _ _ m | .vshfd _ _ _ m | .vbcast _ _ _ m => decide (m ≥ g.w)
      | _ => false) then 12
  else if !g.ctl && isPrivileged i then 13
  else if g.ctl && s.ctlForbidden i then 14
  else 0

/-- The engine of a command word (09 R284, 10 R322): 0 copy, 1 gather-scatter; none for other words. -/
def cmdEngine : Instr → Option (Nat × Hdr × Nat)
  | .cpy h _ a | .cpym h _ a => some (0, h, a)
  | .gath h _ a | .scat h _ a | .xsect h _ a | .kvld h _ a | .kvapp h _ a | .kvwr h _ a | .kvtrim h _ a | .kvsplice h _ a
  | .kvshift h _ a => some (1, h, a)
  | _ => none

/-- The locations of a command block or a stream descriptor in the issuing team's scratchpad (09 R285, R308). -/
def State.blockLocs (s : State) (a : Nat) : List Loc := (List.range 64).map fun i => .sp s.grp.team (a + i)

/-- The command block that a group reads at a scratchpad address (09 R285), as it stands (log entry 5). -/
def State.cmdBlock (s : State) (a : Nat) : List Byte := (s.blockLocs a).map (s.gb s.focus)

/-- The protection reason of a command word's own checks, 0 where they pass (09 R285 step 2): its block and the block's ERRA lie in
the team's own allocation and are aligned. -/
def State.cmdReason (s : State) (a : W64) : Nat :=
  let spb := (s.team s.grp.team).spb
  let x := a.toNat
  if x ≥ 2 ^ 22 || x + 64 > spb then 2
  else
    let erra := bits (leNat (s.cmdBlock x)) 32 27
    if erra ≥ 2 ^ 22 || erra + 32 > spb then 2
    else if x % 64 ≠ 0 || erra % 32 ≠ 0 then 3
    else 0

/-- A pending access that a release at a scope performs first (05 R137, R145): within the group global stores are seen already, stores to
scratchpad are not; a lane's own are (07 R228). -/
def Access.unseen (a : Access) : Scope → Bool
  | .ln => false
  | .gp => a.scratch
  | _ => true

/-- Bits of a stream's descriptor (09 R307). -/
def Stream.fld (x : Stream) (lo n : Nat) : Nat := bits (leNat x.desc) lo n

/-- The rounds of a stream in a group of `w` lanes (09 R307). -/
def Stream.nRounds (x : Stream) (w : Nat) : Nat := (x.fld 192 32 + w - 1) / w

/-- The member of the cluster that the next round of a stream waits for (01 R30), and the kind of the wait. -/
def State.streamStall (s : State) (x : Stream) : Option (Nat × Nat) :=
  match x.stall with
  | some r => if !x.rounds.isEmpty then none else
    match s.saccess s.grp.team (2 ^ 22 + r * 2 ^ 23) 1 with | .error (.stall wk k) => some (wk, k) | _ => none
  | none => none

/-- Whether a `spop` waits: its round is not fetched yet (09 R310, log entry 22), or for 8-byte elements the second register has a
write outstanding or the count limit is reached (02 R74, R75). -/
def State.spopWaits (s : State) (i : Instr) (d k : Nat) : Bool :=
  let g := s.grp
  let x := tget Stream.init g.streams k
  if !x.cfg then false
  else if x.fld 8 2 = 3 && (d % 2 = 1 || decide (d + 1 ≥ g.nv)) then false
  else
    (decide (x.rnd < x.nRounds g.w) && x.rounds.isEmpty && (s.streamStall x).isNone)
      || (x.fld 8 2 == 3 && (g.writeHeld s.fpath (.v, d + 1) || decide (s.pth.count .ld + resCount i + 1 > RCls.limit .ld)))

/-- Whether an event of a core can be handed out now (13 R396, R397): a halt waits while its team has groups and none holds a slot. -/
def State.evReady (s : State) (e : CoreEv) : Bool :=
  e.kind == 1 || (let t := s.team (e.queue / 2)
    s.groups.any (fun x => x.2.team == e.queue / 2) || decide (t.ended.length ≥ t.tg))

/-- Whether a translation is among those that `tlbinv` names (13 R401). -/
def TlbEnt.named (e : TlbEnt) (part kind asid va : Nat) : Bool :=
  e.part == part && (kind == 0 || (e.asid == asid && (kind == 1 || (decide (e.base ≤ va) && decide (va < e.base + e.size)))))

/-- The dies that `tlbinv` covers (13 R401): the issuing one, or every die of the partition. -/
def State.invDies (s : State) (part : Nat) (all : Bool) : List Nat :=
  if all then (List.range Config.nDies).filter fun d => (s.part part).dies.testBit d else [dieOf s.grp.core]

/-- Whether a modifying key-cache command holds its descriptor's lock through a translation that is to be removed (15 R450). -/
def State.lockHeld (s : State) (part kind asid va : Nat) (dies : List Nat) : Bool :=
  s.engs.any fun k => match k.2.cmd with
    | some c =>
      let die := dieOf (k.1 / 128)
      let desc := bits (leNat c.blk) 128 64
      c.part == part && decide (c.word > 16) && decide (c.st = .active) && dies.contains die
        && (s.die die).tlb.any (fun e => e.hits c.part c.asid desc && e.named part kind asid va)
    | none => false

/-- The partition of the issuing control group's die; on a die without one a number that no partition has. -/
def State.ctlPart (s : State) : Nat := ((s.die (dieOf s.grp.core)).part).getD 256

/-- Whether a `qmm` of a group waits for its quad, so that the tile words that issue after it wait behind it in the tile unit (08 R263). -/
def Group.tileBusy (g : Group) : Bool := [g.p0, g.p1].any fun q => q.wait.any fun w => w.wk == 6

/-- The stores of rows that wait in the tile unit. -/
def Group.tileStores (g : Group) : List (List Loc) :=
  g.tileq.filterMap fun x => match x.op with | .store _ _ _ rows => some (rows.flatMap (·.2)) | _ => none

/-- Whether accesses meet bytes that a `tst` in the tile unit is to store. -/
def State.meetsStores (s : State) (r : State × Checked) : Bool :=
  match r.2 with
  | .ok l => l.any fun x => x.2.any fun c => s.grp.tileStores.any fun y => y.contains c
  | _ => false

/-- Whether a word waits for a `tst` of its group that is in the tile unit (log entry 97): a relaxed load or store of bytes that it stores to, and
every other word that may access memory or order accesses. -/
def State.tileHolds (s : State) (i : Instr) : Bool :=
  let meets (h : Hdr) (m : Mem) (glob : Bool) (k : AKind) (a : Nat) : Bool :=
    decide (m.ord ≠ .rlx) || s.meetsStores (s.check s.focus glob false k (s.accs glob m.am a (memOff m.off) (wbytes m.wd) (s.em h)))
  !s.grp.tileStores.isEmpty && match i with
    | .lds h m _ a => meets h m false .read a
    | .sts h m _ a => meets h m false .write a
    | .ldg h m _ a | .ldr h m _ a | .ldc h m _ a => meets h m true .read a
    | .stg h m _ a | .stc h m _ a => meets h m true .write a
    | .sfmt .. | .sfmtSwap .. | .qmm .. | .tzero .. | .tmov .. | .tmovToTile .. | .tscl .. | .tstat .. | .rot .. | .smaxSoftmax .. | .wcnt .. => false
    | .pairedWord _ h0 h1 => h0.op.isMem || h1.op.isMem
    | i => decide (encode i / 2 ^ 59 % 8 ≥ 4) || (decide (encode i / 2 ^ 59 % 8 ≥ 1) && i.uses.w.isEmpty)

/-- Whether a path of a group is in a sweep. -/
def Group.sweeps (g : Group) : Bool := g.p0.sweep.isSome || g.p1.sweep.isSome

/-- Whether the end of a sweep may raise ARI: a flag is enabled (06 R207). -/
def Group.flagTraps (g : Group) : Bool := bits g.fps.toNat 8 6 ≠ 0

/-- Whether a user trap would be a system trap: without a handler, or in one (01 R41, 13 R373). -/
def Group.trapStops (g : Group) : Bool := g.hpc = 0#64 || decide (g.uhc ≠ 0)

/-- Whether a word waits for a sweep of the other path, whose end may stop the group: every word that issued after the sweep would be cancelled
(13 R373). A word that may enable a flag waits too. -/
def Group.sweepHolds (g : Group) (i : Instr) : Bool :=
  g.sweeps && g.trapStops && (g.flagTraps || (match i with | .swr .. => true | _ => false))

/-- Whether a word's own entry holds it at issue (14 R418): a fence (07 R228), `wcnt` (07 R234), `twait` with Y = 0 (07 R247), a
command word (09 R287), a `spop` (09 R310), a `dfree` on a full queue outside a section (07 R250). -/
def State.waits (s : State) (i : Instr) : Bool :=
  s.grp.sweepHolds i || s.tileHolds i || match i with
  | .fence _ scp ord =>
    (decide (ord ≠ .acq) && s.grp.sbuf.any (fun a => a.unseen scp))
      || (decide (ord ≠ .rel) && s.pth.pend.any (fun q => q.cls = .ld))
  | .fenceAsync _ => s.grp.sbuf.any Access.scratch
  | .wcnt _ cl n => decide (s.pth.count cl > n)
  | .twait h _ _ a =>
    s.em h ≠ 0#64 && (match s.token (s.rs a) with | some (k, cur) => s.tokenStatus k cur == 0 | none => false)
  | .spop h d k | .spopPred h d k _ => s.em h ≠ 0#64 && s.spopWaits i d k
  | .dfree h a b => s.em h ≠ 0#64 && s.dfreeReason (s.rs a) (s.rs b) == 0 && s.grp.rsd == 0 && (s.part s.grp.part).dfqFull
  | .halt h _ => s.em h ≠ 0#64 && !(s.core s.grp.core).events.any s.evReady
  | .tlbinv h kind all a b =>
    s.em h ≠ 0#64 && s.lockHeld s.ctlPart kind (s.rs a).toNat (s.rs b).toNat (s.invDies s.ctlPart all)
  | .bflip h _ _ a b =>
    s.em h ≠ 0#64 && (s.recalls.any (fun r => r.gk == s.focus && !r.acked)
      || s.lockHeld s.ctlPart 2 (s.rs a).toNat (s.rs b).toNat (s.invDies s.ctlPart true))
  | .ctxsv h team a _ =>
    s.em h ≠ 0#64 && team && decide ((s.rs a).toNat < 64)
      && (let k := s.grp.core * Config.nSlots + (s.rs a).toNat
          let g := s.group k
          g.stopped && s.teamHeld g.team && !s.groups.any fun e => e.1 ≠ k && e.2.team == g.team)
  | i =>
    match cmdEngine i with
    | some (e, h, a) => s.em h ≠ 0#64 && s.cmdReason (s.rs a) == 0 && s.slotRule e == .hold
    | none => false

/-- How a word's own effect ends. -/
inductive Eff
  /-- The effect is in the state; the path goes on at PC + 8. -/
  | done (s : State)
  /-- The effect is in the state; the path goes on at an address. -/
  | goto (s : State) (pc : W64)
  /-- The word cannot issue now (14 R418): nothing changes. -/
  | wait
  /-- The effect is in the state and the path stays at the word: a scheduler-visible wait (01 R44) or a sweep (06 R207). -/
  | stay (s : State)
  /-- The effect is in the state, and it has placed the path itself (`exit`, `join`). -/
  | placed (s : State)
  /-- A system trap (13 R373). -/
  | trap (t : Trap)
  /-- The effect is in the state; a user trap follows (01 R38): cause, information words, whether the word re-executes. -/
  | user (s : State) (cause : Nat) (info0 info1 : W64) (reexec : Bool)

/-- The ILI trap (13 R375). -/
def ili (reason : Nat) : Eff := .trap { cause := 1, reason := reason }

/-- The ILS trap (13 R377). -/
def ils (reason : Nat) (addr : W64 := 0) (info0 : W64 := 0) (info1 : W64 := 0) : Eff :=
  .trap { cause := 4, reason := reason, addr := addr, info0 := info0, info1 := info1 }

/-- The PROT trap (13 R376). -/
def prot (reason : Nat) (addr : W64) (wr : Bool := false) (lane : Nat := 0) : Eff :=
  .trap { cause := 3, reason := reason, addr := addr, wr := wr, lane := lane }

/-- The park marker after a word that issued (02 R75); an earlier marker is spent, or the word could not have issued. -/
def Path.parkIf (p : Path) (pk : Bool) : Path := { p with park := pk }

/-- The path goes on at an address, with the park marker of the word. -/
def State.advance (s : State) (pc : W64) (pk : Bool) : State := s.setPth ({ s.pth with pc := pc }.parkIf pk)

/-- Whether the issuing path can issue at all (14 R418): its group is resident and not stopped, the path is ready and not held. -/
def State.canIssue (s : State) : Bool :=
  (tfind? s.groups s.focus).isSome && !s.grp.stopped && decide (s.pth.st = .ready) && !s.pth.held

/-- The state a word starts from: the free-value counter has moved on (log entry 6). -/
def State.tick (s : State) : State := { s with fresh := s.fresh + 1 }

/-- Whether values flow from the registers that a word reads to those that it writes (05 R143): data flow of classes 0 to 2, but for the
choosing words; both halves of a paired word. -/
def flows : Instr → Bool
  | .ssel .. | .vsel .. => false
  | .pairedWord .. => true
  | i => decide (encode i / 2 ^ 59 % 8 ≤ 2)

/-- Whether a word writes every lane of a vector register of its group. -/
def State.writesWhole (s : State) (i : Instr) : Bool :=
  match i, i.hdr? with
  | .pairedWord .., _ => false
  | _, some h => s.em h == fullMask s.grp.w
  | _, none => s.am == fullMask s.grp.w

/-- What a register's value, or a value outstanding for it, depends on (05 R143). -/
def Group.depOf (g : Group) (r : RF × Nat) : Nat :=
  g.pends.foldl (fun m q => match q.res, r.1 with
    | .s d _, .s => if d = r.2 then max m q.dep else m
    | .v d _, .v => if d = r.2 then max m q.dep else m
    | _, _ => m) (tget 0 g.obs.dep (regCode r.1 r.2))

/-- Whether a word acts on no lane. -/
def State.hollow (s : State) (i : Instr) : Bool := i.hdr?.any fun h => s.em h == 0#64

/-- A paired word (02 R62). -/
def isPaired : Instr → Bool
  | .pairedWord .. => true
  | _ => false

/-- What the values that a word computes depend on (05 R143). -/
def Group.flowDep (g : Group) (i : Instr) : Nat := if flows i then i.uses.r.foldl (fun m r => max m (g.depOf r)) 0 else 0

/-- A register that a word writes at once depends on `n`; `whole`: no lane of it keeps its earlier value. -/
def Group.flowTo (n : Nat) (whole : Bool) (g : Group) (r : RF × Nat) : Group :=
  match r.1 with
  | .s => g.setDep (regCode r.1 r.2) n true
  | .v => g.setDep (regCode r.1 r.2) n whole
  | _ => g

/-- What the registers depend on that a word writes (05 R143): those that its own outstanding results will write take it with them. Where
nothing depends on a read, nothing is kept; a word that acts on no lane writes nothing. -/
def State.flow (s : State) (i : Instr) : State :=
  let g := s.grp
  if (g.obs.dep.isEmpty && g.pends.all (fun q => q.dep = 0)) || s.hollow i then s
  else if (resClass i).isSome && !isPaired i then
    s.setPth { s.pth with pend := s.pth.pend.map fun q => if q.tpc = s.pc then { q with dep := max q.dep (g.flowDep i) } else q }
  else s.setGrp (i.uses.w.foldl (Group.flowTo (g.flowDep i) (s.writesWhole i)) g)

/-- A word of the path in focus raises a system trap: what issued before it completes first (13 R373), so it waits for a sweep of the other
path. -/
def State.trapWord (s : State) (word : W64) (t : Trap) : State := if s.grp.sweeps then s else s.sysTrap s.focus s.fpath word t

/-- A user trap after the effect of a word (01 R38), with its park marker where it goes on. -/
def State.endUser (t : State) (i : Instr) (c : Nat) (i0 i1 : W64) (re : Bool) : State :=
  (t.setPth (t.pth.parkIf (i.pk && !re))).userTrap (BitVec.ofNat 64 (encode i)) c i0 i1 re

/-- Ends a word. A word that stops its group, and a user trap beside a sweep whose own end may trap, waits for the sweep of the other path (13
R373). -/
def finish (i : Instr) (s : State) : Eff → State
  | .done t => (t.flow i).advance (s.pc + 8) i.pk
  | .goto t pc => t.advance pc i.pk
  | .wait => s
  | .stay t => (t.flow i).setPth (t.pth.parkIf i.pk)
  | .placed t => if (tfind? t.groups t.focus).isSome then t.setPth (t.pth.parkIf i.pk) else t
  | .trap t => s.trapWord (BitVec.ofNat 64 (encode i)) t
  | .user t c i0 i1 re =>
    if s.grp.sweeps && (s.grp.trapStops || s.grp.flagTraps) then s
    else (t.flow i).endUser i c i0 i1 re

/-- What every instruction word does around its own effect `body`: nothing where its path cannot issue or the word is held; the
ILI trap of the lowest reason (02 R76); otherwise the effect. All of it reads the registers once (02 R73, R74). -/
def word (i : Instr) (s : State) (body : State → Eff) : Host.Outcome State Fault Refusal :=
  if !s.canIssue then .next s
  else if s.tick.dynReason i ≠ 0 then .next (finish i s (ili (s.tick.dynReason i)))
  else if s.grp.held s.fpath i || s.tick.waits i then .next s
  else .next (finish i s (body s.tick))

/-- A group-wide word (02 R59): with an empty effective mask it has no effect. -/
def groupWide (h : Hdr) (body : State → Eff) (s : State) : Eff := if s.em h = 0#64 then .done s else body s

/-- Goes on with the checked accesses of a word; a failure traps, a stall waits for the member (01 R30). -/
def withAccess (r : State × Checked) (k : State → List (Acc × List Loc) → Eff) : Eff :=
  match r with
  | (s, .ok l) => k s l
  | (_, .trap t) => .trap t
  | (s, .stall wk rank) => .stay (s.enterWait wk (BitVec.ofNat 64 rank) 0 0 0 none)

/-! ## Flags at the end of a word -/

/-- Ends a word that raised `f`, with `info1` the lanes of an enabled flag: ARI where one is enabled (02 R56, 01 R38). -/
def endRaise (s : State) (f : FFlags) (info1 : Mask) : Eff :=
  let s1 := if f = 0#6 then s else s.setGrp (s.grp.raise f)
  if s.grp.enabled f = 0#6 then .done s1 else .user s1 3 (f.setWidth 64) info1 false

/-- Ends a word with flags per lane (02 R56). -/
def endFlags (s : State) (l : List (Nat × FFlags)) : Eff := endRaise s (orFlags (l.map (·.2))) (s.grp.enabledLanes l)

end Sys2Proof.Machine
end

