-- ==== Sys2Proof/Machine/Start.lean ====
section
/-! DEFINITION. How a group starts (01 R22, R23), the control group's start (13 R369, R370), which word a chosen group issues next
(01 R37, 14 R418, R421), and the placing of a loaded program for `State.withFetchWord` (log entry 2). -/

namespace Sys2Proof.Machine

/-- The lanes of a group (01 R17 GW). -/
def LRec.w (r : LRec) : Nat := 8 * 2 ^ r.gw

/-- Path slot 0 at group start: ready at ENTRY with the full mask (01 R22). -/
def Path.start (entry : Nat) (w : Nat) : Path :=
  { Path.idle with pc := BitVec.ofNat 64 entry, mask := fullMask w, owned := fullMask w, st := .ready }

/-- A group at its start (01 R22, R23): `idx` is the linear cluster index. -/
def Group.start (r : LRec) (lid asid team core gid rank idx octet : Nat) : Group :=
  { Group.empty with
    lid := lid, part := r.part, asid := asid, team := team, core := core, gid := gid, rank := rank, w := r.w,
    nv := 16 * (r.vr + 1), nt := r.nt, octet := octet, hpc := BitVec.ofNat 64 r.hpc, pri := r.pri,
    cx := idx % r.gx, cy := idx / r.gx % r.gy, cz := idx / r.gx / r.gy,
    gsh0 := BitVec.ofNat 64 (r.gx + r.gy * 2 ^ 16 + r.gz * 2 ^ 32),
    gsh1 := BitVec.ofNat 64 (r.cw + r.ch * 2 ^ 4 + r.tg * 2 ^ 8 + r.w * 2 ^ 16),
    sreg := tset 0#64 [] 0 (BitVec.ofNat 64 r.param), p0 := Path.start r.entry r.w, stopped := false }

/-- The team number of a core's control group. -/
def ctlTeam (core : Nat) : Nat := 2 ^ 32 + core

/-- The control group of a core at its start (13 R370): 16 lanes, 32 vector registers, one path, no tiles. -/
def Group.startCtl (core entry : Nat) : Group :=
  { Group.empty with
    ctl := true, team := ctlTeam core, core := core, lid := 2 ^ 32 + core, w := 16, nv := 32, nt := 0,
    p0 := Path.start entry 16, stopped := false }

/-- The control group's scratchpad, 64 KiB (13 R370). -/
def Team.ctl (core : Nat) : Team :=
  { Team.empty with lid := 2 ^ 32 + core, cluster := 2 ^ 32 + core, core := core, spb := 65536, tg := 1, past := false }

/-- Starts the control group of a core (16 R480 step 6). -/
def State.startCtl (s : State) (core entry : Nat) : State :=
  { s with groups := tput s.groups (core * Config.nSlots + 64) { Group.startCtl core entry with obs := Obs.start s.now },
           teams := tput s.teams (ctlTeam core) (Team.ctl core) }

/-! ## The next word of a chosen group -/

/-- What a chosen group does next: nothing, the trap of its fetch, a word that is not an instruction, or a word to execute. -/
inductive Next
  | idle
  | trap (t : Trap)
  | bad (w reason : Nat)
  | run (i : Instr)

/-- The reason of a word that the decoder refuses: a register beyond the allocation is the lower reason (02 R76). -/
def State.badReason (s : State) (r : Nat) (i : Option Instr) : Nat :=
  match i with
  | some i => if s.tick.dynReason i = 10 || s.tick.dynReason i = 11 then min r (s.tick.dynReason i) else r
  | none => r

/-- Points the model at a path of a group. -/
def State.at_ (s : State) (gk p : Nat) : State := { s with focus := gk, fpath := p }

/-- What the path in focus fetches and decodes. -/
def State.nextWord (s : State) : State × Next :=
  match s.fetch s.focus s.fpath with
  | (s1, .error t) => (s1, .trap t)
  | (s1, .ok w) =>
    match decode w with
    | .ok i => (s1, .run i)
    | .bad r i => (s1, .bad w (s1.badReason r i))

/-- Whether a path of a group is eligible (14 R418): it can issue, and its next word is not held. A fetch fault or a word that is
no instruction issues and traps. -/
def State.pathEligible (s : State) (gk p : Nat) : Bool :=
  let s1 := s.at_ gk p
  s1.canIssue && !(s1.pth.park && !s1.pth.pend.isEmpty) && s1.pth.sweep.isNone
    && (match s1.nextWord with
        | (s2, .run i) => s2.tick.dynReason i ≠ 0 || !(s2.grp.held p i || s2.tick.waits i)
        | _ => true)

/-- The path that takes a group's issue: the one that did not take the previous issue, where both are eligible (14 R421). -/
def State.choosePath (s : State) (gk : Nat) : Option Nat :=
  let o := 1 - (s.group gk).lastPath
  if s.pathEligible gk o then some o else if s.pathEligible gk (1 - o) then some (1 - o) else none

/-- A chosen group's issue: the state with its path in focus, and what it does. -/
def State.prepare (s : State) (gk : Nat) : State × Next :=
  match s.choosePath gk with
  | none => (s, .idle)
  | some p =>
    let s1 := s.at_ gk p
    (s1.setGrp { s1.grp with lastPath := p, idle := 0 }).nextWord

/-! ## A program loaded from outside -/

/-- Where the loaded program starts: 256 MiB into skein 0, mapped at the same virtual address. -/
def loadPc : Nat := 2 ^ 28

/-- Where the loader's tables stand: 128 MiB into skein 0. -/
def loadTables : Nat := 2 ^ 27

/-- The launch record of the loaded program: one group of 64 lanes with the largest allocation (01 R17). -/
def loadRec : LRec :=
  { entry := loadPc, hpc := 0, gx := 1, gy := 1, gz := 1, cw := 1, ch := 1, tg := 1, gw := 3, vr := 15, nt := 16, sps := 0,
    pri := 0, dc := false, part := 0, spb := 2 ^ 19, param := 0, tag := 0, nd := 0, deps := [] }

/-- The loader's partition 0: die 0, skein 0, one address space, its tables and its control block's values (15 R433, 14 R404). -/
def loadPart : Part :=
  { Part.empty with dies := 1, lsk := 1, nas := 1, ast := loadTables, pcba := loadTables + 2 ^ 20, fra := loadTables + 2 ^ 21,
                    frc := 256, rra := loadTables + 2 ^ 22, rrc := 256, gri := 64, dfqa := loadTables + 2 ^ 23, dfqc := 1024,
                    fpa := 2 ^ 29, fpl := 2 ^ 28 }

/-- The loader's tables: one address space whose first 1 GiB is mapped to itself, readable, writable and executable (15 R435 to
R437). -/
def loadCells : List (Nat × Nat) :=
  [(loadTables, 1 + (loadTables + 4096)), (loadTables + 4096, 1 + (loadTables + 8192)),
   (loadTables + 8192, 1 + (loadTables + 12288)), (loadTables + 12288, 0x1f)]

/-- Writes 8-byte words straight into physical memory. -/
def putWords (m : List Host.Cell) (l : List (Nat × Nat)) : List Host.Cell :=
  l.foldl (fun m e => Memory.writes m e.1 (leBytes 8 e.2)) m

/-- The capacities of the skeins of a whole module (00 R2). -/
def loadSkcap : List Nat := List.replicate 8 (2 ^ 36) ++ List.replicate 8 (2 ^ 38)

/-- The dies of a whole module, with every site and slice enabled (00 R1, 16 R457); die 0 belongs to a partition. -/
def loadDies (part : Option Nat) : Tab Die :=
  (List.range Config.nDies).map fun d => (d, { Die.init with cen := 2 ^ 88 - 1, sen := 2 ^ 64 - 1, part := if d = 0 then part else none })

/-- Their cores. -/
def loadCores : Tab Core := (List.range (Config.nDies * Config.nSites)).map fun c => (c, Core.init)

/-- The bytes of the module information record up to its skeins' capacities; the rest are 0 (16 R459). -/
def State.infoHead (s : State) : List Byte :=
  let die (d : Nat) : List Byte :=
    let x := s.die d
    leBytes 12 x.cen ++ leBytes 4 x.rgen ++ leBytes 8 x.sen ++ leBytes 8 x.stale
  leBytes 4 (1 + Config.nDies * 2 ^ 16) ++ leBytes 4 s.fwver ++ leBytes 8 s.serial ++ leBytes 8 s.qta ++ leBytes 8 s.mra
    ++ List.replicate 32 0#8 ++ (List.range Config.nDies).flatMap die
    ++ (List.range 16).flatMap (fun k => leBytes 8 ((s.skcap[k]?).getD 0))

/-- The 4,096 bytes of the module information record (16 R459). -/
def State.infoRecord (s : State) : List Byte := s.infoHead ++ List.replicate (4096 - s.infoHead.length) 0#8

/-- Writes the module information record (16 R459). -/
def State.putInfo (s : State) : State :=
  { s with mem := s.infoHead.zipIdx.foldr (fun c m => if c.1 = unlisted then m else Memory.write m c.2 c.1)
                    (s.mem.filter fun c => decide (4096 ≤ c.1)) }

/-- A program placed for a user group: partition, tables, one team with one group on core 0, and the group chosen to issue. -/
def State.loadUser (s : State) (w : Nat) : State :=
  { s with
    agenda := [], todo := [], chosen := [0], focus := 0, fpath := 0, up := true, qta := 2 ^ 20, skcap := loadSkcap,
    mem := putWords s.mem (loadCells ++ [(loadPc, w)]),
    dies := loadDies (some 0), cores := loadCores, parts := tput s.parts 0 loadPart,
    launches := tput s.launches 0 { lr := loadRec, lq := 0, rseq := 0, asid := 0, next := 1, teams := 0, die := none,
                                    unpl := false, abort := none, began := s.now },
    clusters := tput s.clusters 0 { lid := 0, idx := 0, cores := [0], started := [0], ended := [] },
    teams := tput s.teams 0 { Team.empty with core := 0, spb := 2 ^ 19, tg := 1, past := false },
    nextTeam := max s.nextTeam 1, nextCluster := max s.nextCluster 1, nextLaunch := max s.nextLaunch 1,
    groups := tput s.groups 0 (Group.start loadRec 0 0 0 0 0 0 0 0) }.putInfo

/-- A program placed for the control group of core 0, in the firmware region. -/
def State.loadCtl (s : State) (w : Nat) : State :=
  let s1 := { s with agenda := [], todo := [], chosen := [64], focus := 64, fpath := 0, up := true, qta := 2 ^ 20, skcap := loadSkcap,
                     mem := putWords s.mem [(2 ^ 16, w)], dies := loadDies none, cores := loadCores }
  s1.putInfo.startCtl 0 (2 ^ 16)

/-- Places a word as the first instruction of a loaded program: a word of class 7 that only the control group may issue for the
control group of core 0, any other for a user group of core 0 (log entry 2). -/
def State.loadWord (s : State) (w : Nat) : State :=
  match decode w with
  | .ok i => if isPrivileged i then s.loadCtl w else s.loadUser w
  | .bad _ _ => s.loadUser w

end Sys2Proof.Machine
end

