-- ==== Sys2Proof/Machine/Life.lean ====
section
/-! DEFINITION. How groups, teams and launches end (01 R25 to R27, R35; 14 R409), and finding groups wherever they are. -/

namespace Sys2Proof.Machine

/-- The slot key of a resident group, by launch, team and group identifier. -/
def State.findGroup (s : State) (lid team gid : Nat) : Option Nat :=
  (s.groups.find? fun e => e.2.lid == lid && e.2.team == team && e.2.gid == gid).map (·.1)

/-- Whether a group is saved. -/
def Saved.is (v : Saved) (lid team gid : Nat) : Bool := v.grp.lid == lid && v.grp.team == team && v.grp.gid == gid

/-- Whether a command of a launch still runs (01 R27). -/
def State.launchBusy (s : State) (lid : Nat) : Bool :=
  s.engs.any fun e => match e.2.cmd with | some c => c.lid == lid | none => false

/-- The number of teams of a grid. -/
def LRec.teams (r : LRec) : Nat := r.gx * r.gy * r.gz * r.cw * r.ch

/-- Sends the COMPLETE events of MARKERs that no longer wait for an earlier launch of the queue, in the order of its ring (16 R468). -/
def State.markers (s : State) (q : Nat) : State :=
  let x := s.lq q
  let waiting (n : Nat) : Bool := s.launches.any fun e => e.2.lq == q && decide (e.1 < n)
  let ready := x.markers.takeWhile fun m => !waiting m.2.2
  ready.foldl (fun a m =>
    a.emit (.lq q) 1 q ((x.part).getD 0) (leBytes 8 m.1 ++ leBytes 8 m.2.1 ++ leBytes 4 0 ++ leBytes 4 x.woff ++ leBytes 4 x.coff))
    (s.setLq q { x with markers := x.markers.drop ready.length })

/-- A launch completes when all its teams have ended and no command of it runs (01 R27); an aborted one when no group of it is
left, resident or saved, and no command of it runs (14 R409). -/
def State.tryEndLaunch (s : State) (lid : Nat) : State :=
  match tfind? s.launches lid with
  | none => s
  | some l =>
    let alive := s.groups.any (fun e => e.2.lid == lid) || s.saved.any (fun v => v.grp.lid == lid)
    let past := match l.abort with
      | none => decide (l.teams = l.lr.teams)
      | some _ => !alive
    if !past || s.launchBusy lid then s
    else
      let x := s.lq l.lq
      let s1 := { s with launches := tdel s.launches lid,
                         clusters := s.clusters.filter (fun (e : Nat × Cluster) => e.2.lid ≠ lid),
                         teams := s.teams.filter (fun (e : Nat × Team) => e.2.lid ≠ lid),
                         cores := s.cores.map fun (e : Nat × Core) => match e.2.resv with
                           | some (c, _) => if (s.cluster c).lid = lid then (e.1, { e.2 with resv := none }) else e
                           | none => e }
      let s2 := s1.setLq l.lq { x with done := x.done ++ [l.rseq] }
      (s2.emit (.lq l.lq) 1 l.lq l.lr.part (leBytes 8 l.rseq ++ leBytes 8 l.lr.tag ++ leBytes 4 ((l.abort).getD 0)
        ++ leBytes 4 x.woff ++ leBytes 4 x.coff)).markers l.lq

/-- A team ends when its groups have ended and no command that names its scratchpad runs (01 R26): its unobserved slots are free,
its phasers go, and its scratchpad stays until every member of its cluster has ended. -/
def State.tryEndTeam (s : State) (team : Nat) : State :=
  match tfind? s.teams team with
  | none => s
  | some t =>
    if t.past || t.ended.length < t.tg || s.teamBusy team then s
    else
      let s1 := s.setTeam team { t with past := true, phasers := [] }
      let s2 := { s1 with engs := s1.engs.map fun (e : Nat × EngSlot) => if e.2.held && e.2.team == team then (e.1, { e.2 with held := false }) else e }
      let c := s2.cluster t.cluster
      let c' := { c with ended := c.ended ++ [t.rank] }
      let s3 := { s2 with clusters := tput s2.clusters t.cluster c',
                          launches := tmod s2.launches t.lid fun l => { l with teams := l.teams + 1 } }
      let s4 := if c'.ended.length = c'.cores.length then
          { s3 with clusters := tdel s3.clusters t.cluster, teams := s3.teams.filter (fun e => e.2.cluster ≠ t.cluster) }
        else s3
      s4.tryEndLaunch t.lid

/-- Ends a group at once (13 R394 mode 1): its accesses are performed, its sections are counted ended, its slot is free, and a
pre-emption request for it is spent (13 R386). -/
def State.endGroup (s : State) (gk : Nat) : State :=
  let g := s.group gk
  let s1 := s.performAll gk
  let s1 := (s1.group gk).ends.foldl (fun a e => a.countEnd g.part g.core e.sec e.col) s1
  let s2 := if g.rsd > 0 then s1.countEnd g.part g.core g.sec g.col else s1
  let s2 := s2.setCore (coreOf gk) ((s2.core (coreOf gk)).clearPreq (slotOf gk))
  let s3 := { s2 with groups := tdel s2.groups gk,
                      teams := tmod s2.teams g.team fun t => { t with ended := t.ended ++ [g.gid] },
                      tqs := s2.tqs.map fun (e : Nat × TQueue) =>
                        (e.1, { e.2 with waits := e.2.waits.filter fun w => !(w.lid == g.lid && w.team == g.team && w.gid == g.gid) }) }
  s3.tryEndTeam g.team

/-- A group ends when both its paths have ended and every result is written (01 R25). -/
def State.tryEndGroup (s : State) (gk : Nat) : State :=
  let g := s.group gk
  if (tfind? s.groups gk).isSome && !g.ctl && decide (g.p0.st = .free) && decide (g.p1.st = .free) && g.pends.isEmpty then s.endGroup gk
  else s

/-- A path of a group ends (01 R35): its slot is free, its outstanding results stay the group's, a parked other path goes on. -/
def Group.endPath (g : Group) (p : Nat) : Group :=
  let q := g.path p
  let o := g.path (1 - p)
  let g1 := ({ g with orph := g.orph ++ q.pend }).setPath p Path.idle
  if o.st = .parked then g1.setPath (1 - p) { o with st := .ready, pc := o.jpc + 8 } else g1

end Sys2Proof.Machine
end

