-- ==== Sys2Proof/Machine/Scalar.lean ====
section
/-! DEFINITION. Scalar instructions, class 0 (06 R172 to R176; 02 R53, R54; 06 R203). -/

namespace Sys2Proof.Machine

/-- A scalar word whose result is `f` of the registers read at issue; no flag, fixed latency (06 R172). -/
def scalar (i : Instr) (d : Nat) (f : State → W64) (s : State) : Host.Outcome State Fault Refusal :=
  word i s fun s => .done (s.ws d (f s))

/-- A scalar ALU word (06 R172). -/
def alu (i : Instr) (d a : Nat) (b : SSrc) (f : W64 → W64 → W64) (s : State) : Host.Outcome State Fault Refusal :=
  scalar i d (fun s => f (s.rs a) (s.ssrc b)) s

/-- `sshl`: a × 2^b mod 2^64, 0 for a count of 64 or more (06 R172). -/
def shl64 (a b : W64) : W64 := if b.toNat < 64 then a <<< b.toNat else 0

/-- `sshr`: logical right shift (06 R172). -/
def shr64 (a b : W64) : W64 := if b.toNat < 64 then a >>> b.toNat else 0

/-- `ssra`: arithmetic right shift; all sign bits for a count of 64 or more (06 R172). -/
def sra64 (a b : W64) : W64 := if b.toNat < 64 then a.sshiftRight b.toNat else a.sshiftRight 63

/-- Bits 64 to 127 of the exact signed product (06 R172). -/
def mulh64 (a b : W64) : W64 := BitVec.ofInt 64 (a.toInt * b.toInt / (2 ^ 64 : Nat))

/-- Bits 64 to 127 of the exact unsigned product (06 R172). -/
def mulhu64 (a b : W64) : W64 := BitVec.ofNat 64 (a.toNat * b.toNat / 2 ^ 64)

/-- `sadd` (06 R172). -/
def execSadd (pk : Bool) (d a : Nat) (b : SSrc) (s : State) := alu (.sadd pk d a b) d a b (· + ·) s
/-- `ssub` (06 R172). -/
def execSsub (pk : Bool) (d a : Nat) (b : SSrc) (s : State) := alu (.ssub pk d a b) d a b (· - ·) s
/-- `smul` (06 R172). -/
def execSmul (pk : Bool) (d a : Nat) (b : SSrc) (s : State) := alu (.smul pk d a b) d a b (· * ·) s
/-- `smulh` (06 R172). -/
def execSmulh (pk : Bool) (d a : Nat) (b : SSrc) (s : State) := alu (.smulh pk d a b) d a b mulh64 s
/-- `smulhu` (06 R172). -/
def execSmulhu (pk : Bool) (d a : Nat) (b : SSrc) (s : State) := alu (.smulhu pk d a b) d a b mulhu64 s
/-- `sand` (06 R172). -/
def execSand (pk : Bool) (d a : Nat) (b : SSrc) (s : State) := alu (.sand pk d a b) d a b (· &&& ·) s
/-- `sor` (06 R172). -/
def execSor (pk : Bool) (d a : Nat) (b : SSrc) (s : State) := alu (.sor pk d a b) d a b (· ||| ·) s
/-- `sxor` (06 R172). -/
def execSxor (pk : Bool) (d a : Nat) (b : SSrc) (s : State) := alu (.sxor pk d a b) d a b (· ^^^ ·) s
/-- `sandn` (06 R172). -/
def execSandn (pk : Bool) (d a : Nat) (b : SSrc) (s : State) := alu (.sandn pk d a b) d a b (fun x y => x &&& ~~~y) s
/-- `sshl` (06 R172). -/
def execSshl (pk : Bool) (d a : Nat) (b : SSrc) (s : State) := alu (.sshl pk d a b) d a b shl64 s
/-- `sshr` (06 R172). -/
def execSshr (pk : Bool) (d a : Nat) (b : SSrc) (s : State) := alu (.sshr pk d a b) d a b shr64 s
/-- `ssra` (06 R172). -/
def execSsra (pk : Bool) (d a : Nat) (b : SSrc) (s : State) := alu (.ssra pk d a b) d a b sra64 s
/-- `smin` (06 R172). -/
def execSmin (pk : Bool) (d a : Nat) (b : SSrc) (s : State) :=
  alu (.smin pk d a b) d a b (fun x y => if x.sle y then x else y) s
/-- `smax` (06 R172). -/
def execSmax (pk : Bool) (d a : Nat) (b : SSrc) (s : State) :=
  alu (.smax pk d a b) d a b (fun x y => if x.sle y then y else x) s
/-- `sminu` (06 R172). -/
def execSminu (pk : Bool) (d a : Nat) (b : SSrc) (s : State) :=
  alu (.sminu pk d a b) d a b (fun x y => if x.ule y then x else y) s
/-- `smaxu` (06 R172). -/
def execSmaxu (pk : Bool) (d a : Nat) (b : SSrc) (s : State) :=
  alu (.smaxu pk d a b) d a b (fun x y => if x.ule y then y else x) s

/-- `sset` (06 R173). -/
def execSset (pk : Bool) (d a b : Nat) (cc : ICond) (s : State) :=
  scalar (.sset pk d a b cc) d (fun s => if icond cc (s.rs a) (s.rs b) then 1 else 0) s
/-- `ssel` (06 R173). -/
def execSsel (pk : Bool) (d a b c : Nat) (s : State) :=
  scalar (.ssel pk d a b c) d (fun s => if s.rs c ≠ 0 then s.rs a else s.rs b) s
/-- `smov` (06 R173). -/
def execSmov (pk : Bool) (d a : Nat) (s : State) := scalar (.smov pk d a) d (fun s => s.rs a) s
/-- `sli` (06 R174). -/
def execSli (pk : Bool) (d : Nat) (k : BitVec 40) (s : State) := scalar (.sli pk d k) d (fun _ => k.signExtend 64) s
/-- `slih` (06 R174): it reads its destination. -/
def execSlih (pk : Bool) (d : Nat) (k : BitVec 32) (s : State) :=
  scalar (.slih pk d k) d (fun s => (k.setWidth 64 <<< 32) ||| (s.rs d &&& 0xffffffff#64)) s
/-- The field of `sbfx` (06 R175). -/
def bfx64 (a : W64) (pos len : Nat) (sx : Bool) : W64 :=
  let f := bits a.toNat pos len
  if sx then BitVec.ofNat 64 (modInt 64 (sxInt len f)) else BitVec.ofNat 64 f
/-- `sbfx` (06 R175). -/
def execSbfx (pk : Bool) (d a pos len : Nat) (sx : Bool) (s : State) :=
  scalar (.sbfx pk d a pos len sx) d (fun s => bfx64 (s.rs a) pos len sx) s
/-- `sclz` (06 R175). -/
def execSclz (pk : Bool) (d a : Nat) (s : State) :=
  scalar (.sclz pk d a) d (fun s => BitVec.ofNat 64 (clz 64 (s.rs a).toNat)) s
/-- `spopc` (06 R175). -/
def execSpopc (pk : Bool) (d a : Nat) (s : State) :=
  scalar (.spopc pk d a) d (fun s => BitVec.ofNat 64 (popc 64 (s.rs a).toNat)) s

/-- The cycle counter as `srd` returns it: some value between issue and result, never below an earlier read of the path (02 R54,
log entry 7). -/
def State.readCyc (s : State) : Nat := max s.pth.lastCyc (s.cycOf s.focus + Config.cycDelay s.fresh)

/-- The value of a special register other than LANEID (02 R53). -/
def State.special (s : State) (idx : Nat) : W64 :=
  let g := s.grp
  match idx with
  | 1 => BitVec.ofNat 64 g.gid
  | 2 => BitVec.ofNat 64 g.rank
  | 3 => BitVec.ofNat 64 g.cx
  | 4 => BitVec.ofNat 64 g.cy
  | 5 => BitVec.ofNat 64 g.cz
  | 6 => g.gsh0
  | 7 => g.gsh1
  | 8 => BitVec.ofNat 64 s.readCyc
  | 9 => BitVec.ofNat 64 (s.part (s.partOf g)).gsq
  | 10 => g.fps
  | _ => BitVec.ofNat 64 g.rsd

/-- The path remembers a cycle counter it has read (02 R54). -/
def State.noteCyc (s : State) (idx : Nat) : State :=
  if idx = 8 then s.setPth { s.pth with lastCyc := s.readCyc } else s

/-- `srd` to a scalar register (02 R53, R54; 06 R176). -/
def execSrd (pk : Bool) (d idx : Nat) (s : State) :=
  word (.srd pk d idx) s fun s => .done ((s.noteCyc idx).ws d (s.special idx))
/-- `srd` to a vector register: every lane of the active mask (02 R53, 06 R176). -/
def execSrdVector (pk : Bool) (d idx : Nat) (s : State) :=
  word (.srdVector pk d idx) s fun s =>
    .done ((s.noteCyc idx).wv d ((lanesOf s.am).map fun l =>
      (l, if idx = 0 then BitVec.ofNat 32 l else (s.special idx).setWidth 32)))
/-- The bits of FPS that `swr` writes (02 R55, R56). -/
def fpsMask : W64 := 0x3f3f#64
/-- `swr` (02 R53, R56): index 10, the FP status word. -/
def execSwr (pk : Bool) (idx a : Nat) (s : State) :=
  word (.swr pk idx a) s fun s => .done (s.setGrp { s.grp with fps := s.rs a &&& fpsMask })
/-- Whether `swc` accepts a value of `sc` (06 R202, R203). -/
def scOk (a : W64) : Bool :=
  let v := a.toNat
  !bit v 55 && bits v 61 3 == 0 && bits v 50 2 != 3 && decide (bits v 56 4 < 12)
    && bits v 0 2 == 0 && bits v 16 2 == 0 && bits v 32 2 == 0
/-- `swc` (06 R203): a value it does not accept raises ILI with reason 12. -/
def execSwc (pk : Bool) (a : Nat) (s : State) :=
  word (.swc pk a) s fun s => if scOk (s.rs a) then .done (s.setGrp { s.grp with sc := s.rs a }) else ili 12

end Sys2Proof.Machine
end

