-- ==== Sys2Proof/Machine/VecInt.lean ====
section
/-! DEFINITION. Vector integer instructions, class 1 (06 R169, R184 to R191). Each operation is a function of one lane's values;
the sweep forms (06 R204) use the same functions. -/

namespace Sys2Proof.Machine

/-! ## Vector words -/

/-- A word whose result in each lane of the effective mask is a lane operation of that lane's sources: fixed latency, flags once
per word (06 R168, 02 R56). `src` gives the lane's three sources. -/
def vec (i : Instr) (h : Hdr) (d : Nat) (op : LaneOp) (src : State → Nat → W32 × W32 × W32) (s : State) :
    Host.Outcome State Fault Refusal :=
  word i s fun s =>
    let rs := (lanesOf (s.em h)).map fun l =>
      let (a, b, c) := src s l
      (l, op a b c)
    endFlags (s.wv d (rs.map fun r => (r.1, r.2.1))) (rs.map fun r => (r.1, r.2.2))

/-- Sources vA and a second source (06 R169). -/
def srcVB (e a : Nat) (b : VSrc) (s : State) (l : Nat) : W32 × W32 × W32 := (s.rv a l, s.vsrc e b l, 0)
/-- Sources vA and a shift count (06 R169). -/
def srcVZ (e a : Nat) (b : VSrc) (s : State) (l : Nat) : W32 × W32 × W32 := (s.rv a l, s.vzsrc e b l, 0)
/-- Sources vA, vB and vC. -/
def src3 (a b c : Nat) (s : State) (l : Nat) : W32 × W32 × W32 := (s.rv a l, s.rv b l, s.rv c l)

/-- `vadd` (06 R184). -/
def execVadd (h : Hdr) (wd : Width) (d a : Nat) (b : VSrc) (s : State) :=
  vec (.vadd h wd d a b) h d (lane2 (wbits wd) eAdd) (srcVB (wbits wd) a b) s
/-- `vsub` (06 R184). -/
def execVsub (h : Hdr) (wd : Width) (d a : Nat) (b : VSrc) (s : State) :=
  vec (.vsub h wd d a b) h d (lane2 (wbits wd) eSub) (srcVB (wbits wd) a b) s
/-- `vadds` (06 R185). -/
def execVadds (h : Hdr) (wd : Width) (sx : Bool) (d a : Nat) (b : VSrc) (s : State) :=
  vec (.vadds h wd sx d a b) h d (laneAdds (wbits wd) sx) (srcVB (wbits wd) a b) s
/-- `vsubs` (06 R185). -/
def execVsubs (h : Hdr) (wd : Width) (sx : Bool) (d a : Nat) (b : VSrc) (s : State) :=
  vec (.vsubs h wd sx d a b) h d (laneSubs (wbits wd) sx) (srcVB (wbits wd) a b) s
/-- `vmul` (06 R184). -/
def execVmul (h : Hdr) (wd : Width) (d a : Nat) (b : VSrc) (s : State) :=
  vec (.vmul h wd d a b) h d (lane2 (wbits wd) eMul) (srcVB (wbits wd) a b) s
/-- `vmulh` (06 R184). -/
def execVmulh (h : Hdr) (wd : Width) (d a : Nat) (b : VSrc) (s : State) :=
  vec (.vmulh h wd d a b) h d (lane2 (wbits wd) eMulh) (srcVB (wbits wd) a b) s
/-- `vmulhu` (06 R184). -/
def execVmulhu (h : Hdr) (wd : Width) (d a : Nat) (b : VSrc) (s : State) :=
  vec (.vmulhu h wd d a b) h d (lane2 (wbits wd) eMulhu) (srcVB (wbits wd) a b) s
/-- `vmad` (06 R184). -/
def execVmad (h : Hdr) (d a b c : Nat) (s : State) := vec (.vmad h d a b c) h d laneMad (src3 a b c) s
/-- `vand` (06 R184). -/
def execVand (h : Hdr) (d a : Nat) (b : VSrc) (s : State) :=
  vec (.vand h d a b) h d (laneW fun a b _ => a &&& b) (srcVB 32 a b) s
/-- `vor` (06 R184). -/
def execVor (h : Hdr) (d a : Nat) (b : VSrc) (s : State) :=
  vec (.vor h d a b) h d (laneW fun a b _ => a ||| b) (srcVB 32 a b) s
/-- `vxor` (06 R184). -/
def execVxor (h : Hdr) (d a : Nat) (b : VSrc) (s : State) :=
  vec (.vxor h d a b) h d (laneW fun a b _ => a ^^^ b) (srcVB 32 a b) s
/-- `vandn` (06 R184). -/
def execVandn (h : Hdr) (d a : Nat) (b : VSrc) (s : State) := vec (.vandn h d a b) h d laneAndn (srcVB 32 a b) s
/-- `vshl` (06 R184). -/
def execVshl (h : Hdr) (wd : Width) (d a : Nat) (b : VSrc) (s : State) :=
  vec (.vshl h wd d a b) h d (lane2 (wbits wd) eShl) (srcVZ (wbits wd) a b) s
/-- `vshr` (06 R184). -/
def execVshr (h : Hdr) (wd : Width) (d a : Nat) (b : VSrc) (s : State) :=
  vec (.vshr h wd d a b) h d (lane2 (wbits wd) eShr) (srcVZ (wbits wd) a b) s
/-- `vsra` (06 R184). -/
def execVsra (h : Hdr) (wd : Width) (d a : Nat) (b : VSrc) (s : State) :=
  vec (.vsra h wd d a b) h d (lane2 (wbits wd) eSra) (srcVZ (wbits wd) a b) s
/-- `vmin` (06 R184). -/
def execVmin (h : Hdr) (wd : Width) (d a : Nat) (b : VSrc) (s : State) :=
  vec (.vmin h wd d a b) h d (lane2 (wbits wd) eMin) (srcVB (wbits wd) a b) s
/-- `vmax` (06 R184). -/
def execVmax (h : Hdr) (wd : Width) (d a : Nat) (b : VSrc) (s : State) :=
  vec (.vmax h wd d a b) h d (lane2 (wbits wd) eMax) (srcVB (wbits wd) a b) s
/-- `vminu` (06 R184). -/
def execVminu (h : Hdr) (wd : Width) (d a : Nat) (b : VSrc) (s : State) :=
  vec (.vminu h wd d a b) h d (lane2 (wbits wd) eMinu) (srcVB (wbits wd) a b) s
/-- `vmaxu` (06 R184). -/
def execVmaxu (h : Hdr) (wd : Width) (d a : Nat) (b : VSrc) (s : State) :=
  vec (.vmaxu h wd d a b) h d (lane2 (wbits wd) eMaxu) (srcVB (wbits wd) a b) s
/-- `vabs` (06 R185). -/
def execVabs (h : Hdr) (wd : Width) (st : Bool) (d a : Nat) (s : State) :=
  vec (.vabs h wd st d a) h d (laneAbs (wbits wd) st) (src3 a a a) s
/-- `vsel` (06 R187). -/
def execVsel (h : Hdr) (d a b p : Nat) (s : State) :=
  vec (.vsel h d a b p) h d (laneW fun a _ _ => a) (fun s l => (if s.rp p l then s.rv a l else s.rv b l, 0, 0)) s
/-- A comparison of lanes into a predicate (06 R186, R194). -/
def vecCmp (i : Instr) (h : Hdr) (d a b : Nat) (f : W32 → W32 → Bool) (s : State) : Host.Outcome State Fault Refusal :=
  word i s fun s =>
    let em := s.em h
    .done (s.wp d em (maskOf ((lanesOf em).filter fun l => f (s.rv a l) (s.rv b l))))
/-- `vcmp` (06 R186). -/
def execVcmp (h : Hdr) (d a b : Nat) (cc : ICond) (s : State) := vecCmp (.vcmp h d a b cc) h d a b (icond cc) s
/-- `vbfx` (06 R188). -/
def execVbfx (h : Hdr) (sx : Bool) (d a b : Nat) (s : State) := vec (.vbfx h sx d a b) h d (laneBfx sx) (src3 a b b) s
/-- `vbfi` (06 R188). -/
def execVbfi (h : Hdr) (d a b : Nat) (s : State) := vec (.vbfi h d a b) h d laneBfi (src3 a b d) s
/-- `vfsh` (06 R189). -/
def execVfsh (h : Hdr) (d a b c : Nat) (s : State) := vec (.vfsh h d a b c) h d laneFsh (src3 a b c) s
/-- `vclz` (06 R184). -/
def execVclz (h : Hdr) (wd : Width) (d a : Nat) (s : State) := vec (.vclz h wd d a) h d (laneClz (wbits wd)) (src3 a a a) s
/-- `vpopc` (06 R184). -/
def execVpopc (h : Hdr) (wd : Width) (d a : Nat) (s : State) := vec (.vpopc h wd d a) h d (lanePopc (wbits wd)) (src3 a a a) s
/-- `vbrev` (06 R184). -/
def execVbrev (h : Hdr) (wd : Width) (d a : Nat) (s : State) := vec (.vbrev h wd d a) h d (laneBrev (wbits wd)) (src3 a a a) s
/-- `vmov` (06 R190). -/
def execVmov (h : Hdr) (d a : Nat) (s : State) := vec (.vmov h d a) h d (laneW fun a _ _ => a) (src3 a a a) s
/-- `vli` (06 R190). -/
def execVli (h : Hdr) (d : Nat) (k : BitVec 32) (s : State) := vec (.vli h d k) h d (laneW fun _ _ _ => k) (fun _ _ => (0, 0, 0)) s
/-- `vdp4` (06 R191). -/
def execVdp4 (h : Hdr) (sx st : Bool) (d a b c : Nat) (s : State) := vec (.vdp4 h sx st d a b c) h d (laneDp4 sx st) (src3 a b c) s

end Sys2Proof.Machine
end

