-- ==== Sys2Proof/Machine/VecFloat.lean ====
section
/-! DEFINITION. Vector float instructions, class 2 (06 R170, R192 to R201). Each operation is a function of one lane's values; the
sweep forms use the same functions. -/

namespace Sys2Proof.Machine

/-- A word whose results are of class x: as `vec`, the result outstanding until X_RESULT_WRITE (02 R72). -/
def vecX (i : Instr) (h : Hdr) (d : Nat) (op : W32 → Fl) (a : Nat) (s : State) : Host.Outcome State Fault Refusal :=
  word i s fun s =>
    let rs := (lanesOf (s.em h)).map fun l => (l, op (s.rv a l))
    endFlags (s.addPendV .x d (rs.map fun r => (r.1, r.2.1)) (encode i)) (rs.map fun r => (r.1, r.2.2))

/-- `fadd` (06 R193). -/
def execFadd (h : Hdr) (st : Bool) (rm : Rnd) (d a b : Nat) (s : State) :=
  vec (.fadd h st rm d a b) h d (laneF rm st (fvAdd rm)) (src3 a b b) s
/-- `fsub` (06 R193). -/
def execFsub (h : Hdr) (st : Bool) (rm : Rnd) (d a b : Nat) (s : State) :=
  vec (.fsub h st rm d a b) h d (laneF rm st (fvSub rm)) (src3 a b b) s
/-- `fmul` (06 R193). -/
def execFmul (h : Hdr) (st : Bool) (rm : Rnd) (d a b : Nat) (s : State) :=
  vec (.fmul h st rm d a b) h d (laneF rm st fvMul) (src3 a b b) s
/-- `ffma` (06 R193). -/
def execFfma (h : Hdr) (st : Bool) (rm : Rnd) (d a b c : Nat) (s : State) :=
  vec (.ffma h st rm d a b c) h d (laneF rm st (fvFma rm)) (src3 a b c) s
/-- `fmin` (06 R194). -/
def execFmin (h : Hdr) (d a b : Nat) (s : State) := vec (.fmin h d a b) h d (laneMinMax false) (src3 a b b) s
/-- `fmax` (06 R194). -/
def execFmax (h : Hdr) (d a b : Nat) (s : State) := vec (.fmax h d a b) h d (laneMinMax true) (src3 a b b) s
/-- `fcmp` (06 R194). -/
def execFcmp (h : Hdr) (d a b : Nat) (cc : FCond) (s : State) := vecCmp (.fcmp h d a b cc) h d a b (fcond cc) s
/-- `frcp` (06 R195, 03 R104). -/
def execFrcp (h : Hdr) (d a : Nat) (s : State) := vecX (.frcp h d a) h d frcp32 a s
/-- `frsq` (06 R195, 03 R105). -/
def execFrsq (h : Hdr) (d a : Nat) (s : State) := vecX (.frsq h d a) h d frsq32 a s
/-- `fex2` (06 R195, 03 R106). -/
def execFex2 (h : Hdr) (d a : Nat) (s : State) := vecX (.fex2 h d a) h d fex232 a s
/-- `flg2` (06 R195, 03 R107). -/
def execFlg2 (h : Hdr) (d a : Nat) (s : State) := vecX (.flg2 h d a) h d flg232 a s
/-- `fcvt` (06 R196). -/
def execFcvt (h : Hdr) (st : Bool) (rm : Rnd) (dty sty : Ty) (d a : Nat) (s : State) :=
  vec (.fcvt h st rm dty sty d a) h d (laneCvt st rm dty sty) (src3 a a a) s
/-- `fpk` (06 R197). -/
def execFpk (h : Hdr) (st : Bool) (rm : Rnd) (ty : Ty) (k d a b : Nat) (s : State) :=
  vec (.fpk h st rm ty k d a b) h d (lanePk st rm ty k) (src3 a b d) s
/-- `funpk` (06 R198). -/
def execFunpk (h : Hdr) (ty : Ty) (j d a : Nat) (s : State) := vec (.funpk h ty j d a) h d (laneUnpk ty j) (src3 a a a) s
/-- `vhad` (06 R199): 16 or 32 results of class x. -/
def execVhad (h : Hdr) (big : Bool) (d a : Nat) (s : State) :=
  word (.vhad h big d a) s fun s =>
    let k := if big then 5 else 4
    let rs := (lanesOf (s.em h)).map fun l => (l, hadamard k 2 ((List.range (2 ^ k)).map fun i => (s.rv (a + i) l, 0#6)))
    let add (t : State) (i : Nat) : State :=
      t.addPendV .x (d + i) (rs.map fun r => (r.1, (r.2.getD i (flc 0)).1)) (encode (.vhad h big d a))
    endFlags ((List.range (2 ^ k)).foldl add s) (rs.map fun r => (r.1, orFlags (r.2.map (·.2))))
/-- `hadd2` (06 R200). -/
def execHadd2 (h : Hdr) (st : Bool) (rm : Rnd) (d a b : Nat) (s : State) :=
  vec (.hadd2 h st rm d a b) h d (laneSub bf16 rm st (fvAdd rm)) (src3 a b b) s
/-- `hmul2` (06 R200). -/
def execHmul2 (h : Hdr) (st : Bool) (rm : Rnd) (d a b : Nat) (s : State) :=
  vec (.hmul2 h st rm d a b) h d (laneSub bf16 rm st fvMul) (src3 a b b) s
/-- `hfma2` (06 R200). -/
def execHfma2 (h : Hdr) (st : Bool) (rm : Rnd) (d a b c : Nat) (s : State) :=
  vec (.hfma2 h st rm d a b c) h d (laneSub bf16 rm st (fvFma rm)) (src3 a b c) s
/-- `q8add` (06 R201). -/
def execQ8add (h : Hdr) (st : Bool) (rm : Rnd) (e5 : Bool) (d a b : Nat) (s : State) :=
  vec (.q8add h st rm e5 d a b) h d (laneSub (q8fmt e5) rm st (fvAdd rm)) (src3 a b b) s
/-- `q8mul` (06 R201). -/
def execQ8mul (h : Hdr) (st : Bool) (rm : Rnd) (e5 : Bool) (d a b : Nat) (s : State) :=
  vec (.q8mul h st rm e5 d a b) h d (laneSub (q8fmt e5) rm st fvMul) (src3 a b b) s

end Sys2Proof.Machine
end

