-- ==== Sys2Proof/Machine/Cross.lean ====
section
/-! DEFINITION. Cross-lane and predicate instructions, class 3 (06 R209 to R218; 03 R99). -/

namespace Sys2Proof.Machine

/-- A class-3 word that writes lanes of its effective mask: class x (02 R72). `f` answers the value of a lane, or keeps it. -/
def cross (i : Instr) (h : Hdr) (d : Nat) (f : State → Mask → Nat → Option W32) (s : State) : Host.Outcome State Fault Refusal :=
  word i s fun s =>
    let em := s.em h
    .done (s.addPendV .x d ((lanesOf em).filterMap fun l => (f s em l).map fun v => (l, v)) (encode i))

/-- `vperm` (06 R211). -/
def execVperm (h : Hdr) (d a b : Nat) (s : State) :=
  cross (.vperm h d a b) h d (fun s _ l => some (s.rv a ((s.rv b l).toNat % s.grp.w))) s
/-- `vpush`: the highest-numbered sender wins (06 R212). -/
def execVpush (h : Hdr) (d a b : Nat) (s : State) :=
  cross (.vpush h d a b) h d
    (fun s em l => ((lanesOf em).reverse.find? fun x => (s.rv b x).toNat % s.grp.w == l).map fun x => s.rv a x) s
/-- `vshfx` (06 R213). -/
def execVshfx (h : Hdr) (d a m : Nat) (s : State) :=
  cross (.vshfx h d a m) h d (fun s _ l => some (s.rv a (l ^^^ m))) s
/-- `vshfu` (06 R213). -/
def execVshfu (h : Hdr) (d a m : Nat) (s : State) :=
  cross (.vshfu h d a m) h d (fun s _ l => some (s.rv a (if l ≥ m then l - m else l))) s
/-- `vshfd` (06 R213). -/
def execVshfd (h : Hdr) (d a m : Nat) (s : State) :=
  cross (.vshfd h d a m) h d (fun s _ l => some (s.rv a (if l + m < s.grp.w then l + m else l))) s
/-- `vbcast` of a lane (06 R214). -/
def execVbcast (h : Hdr) (d a k : Nat) (s : State) := cross (.vbcast h d a k) h d (fun s _ _ => some (s.rv a k)) s
/-- `vbcast` of a scalar register (06 R214). -/
def execVbcastScalar (h : Hdr) (d a : Nat) (s : State) :=
  cross (.vbcastScalar h d a) h d (fun s _ _ => some ((s.rs a).setWidth 32)) s

/-- The identity of a reduction (06 R215). -/
def redId : ROp → W32
  | .add | .maxu | .or | .xor => 0#32
  | .min => 0x7fffffff#32
  | .max | .fadd => 0x80000000#32
  | .minu | .and => 0xffffffff#32
  | .fmin => 0x7f800000#32
  | .fmax => 0xff800000#32

/-- One step of a reduction (06 R215). -/
def redStep (op : ROp) (x y : W32) : W32 × FFlags :=
  match op with
  | .add => (x + y, 0#6)
  | .min => (if x.sle y then x else y, 0#6)
  | .max => (if x.sle y then y else x, 0#6)
  | .minu => (if x.ule y then x else y, 0#6)
  | .maxu => (if x.ule y then y else x, 0#6)
  | .and => (x &&& y, 0#6)
  | .or => (x ||| y, 0#6)
  | .xor => (x ^^^ y, 0#6)
  | .fadd => laneF .rne false (fvAdd .rne) x y 0
  | .fmin => laneMinMax false x y 0
  | .fmax => laneMinMax true x y 0

/-- A node of the tree, with the flags of the nodes below it. -/
def redNode (op : ROp) (x y : Fl) : Fl :=
  let r := redStep op x.1 y.1
  (r.1, x.2 ||| y.2 ||| r.2)

/-- The lanes of a reduction: a lane outside the effective mask supplies the identity (06 R215). -/
def State.redLanes (s : State) (op : ROp) (a : Nat) (em : Mask) : List Fl :=
  (List.range s.grp.w).map fun l => (if mbit em l then s.rv a l else redId op, 0#6)

/-- The value of `vred` (06 R215): six levels reach the root of up to 64 lanes. -/
def State.red (s : State) (op : ROp) (a : Nat) (em : Mask) : Fl := tree (redNode op) 6 (s.redLanes op a em)

/-- `vred` to a scalar register (06 R215). -/
def execVred (h : Hdr) (d a : Nat) (op : ROp) (s : State) :=
  word (.vred h d a op) s fun s =>
    let r := s.red op a (s.em h)
    endRaise (s.addPend .x (.s d (r.1.setWidth 64)) (BitVec.ofNat 64 (encode (.vred h d a op))) []) r.2 (s.em h)
/-- `vred` to a vector register (06 R215). -/
def execVredVector (h : Hdr) (d a : Nat) (op : ROp) (s : State) :=
  word (.vredVector h d a op) s fun s =>
    let r := s.red op a (s.em h)
    endRaise (s.addPendV .x d ((lanesOf (s.em h)).map fun l => (l, r.1)) (encode (.vredVector h d a op))) r.2 (s.em h)

/-- The left fold of a scan over the elements after the first: the running value before each lane, the value with it, and the
step's flags (06 R216). -/
def scanFrom (op : ROp) (acc : W32) : List (Nat × W32) → List (Nat × W32 × W32 × FFlags)
  | [] => []
  | (l, x) :: r =>
    let y := redStep op acc x
    (l, acc, y.1, y.2) :: scanFrom op y.1 r

/-- The steps of a scan: lane 0's element is taken as it stands (06 R216). -/
def State.scan (s : State) (op : ROp) (a : Nat) (em : Mask) : List (Nat × W32 × W32 × FFlags) :=
  match (List.range s.grp.w).map fun l => (l, if mbit em l then s.rv a l else redId op) with
  | [] => []
  | (l, x) :: r => (l, redId op, x, 0#6) :: scanFrom op x r

/-- A scan word (06 R216): each lane of the effective mask takes its step's value, or with `excl` the value before it; the flags of
a step belong to its lane. -/
def scanWord (i : Instr) (h : Hdr) (d a : Nat) (op : ROp) (excl : Bool) (s : State) : Host.Outcome State Fault Refusal :=
  word i s fun s =>
    let st := (s.scan op a (s.em h)).filter fun r => mbit (s.em h) r.1
    endFlags (s.addPendV .x d (st.map fun r => (r.1, if excl then r.2.1 else r.2.2.1)) (encode i)) (st.map fun r => (r.1, r.2.2.2))

/-- `vscan`, inclusive (06 R216). -/
def execVscan (h : Hdr) (d a : Nat) (op : ROp) (s : State) := scanWord (.vscan h d a op) h d a op false s
/-- `vscan`, exclusive (06 R216). -/
def execVscanExcl (h : Hdr) (d a : Nat) (op : ROp) (s : State) := scanWord (.vscanExcl h d a op) h d a op true s

/-- `vballot` (06 R217). -/
def execVballot (h : Hdr) (d a : Nat) (s : State) :=
  word (.vballot h d a) s fun s =>
    .done (s.addPend .x (.s d (s.rpm a &&& s.em h)) (BitVec.ofNat 64 (encode (.vballot h d a))) [])
/-- `vfirst` (06 R217). -/
def execVfirst (h : Hdr) (d a : Nat) (s : State) :=
  word (.vfirst h d a) s fun s =>
    .done (s.addPend .x (.s d (BitVec.ofNat 64 ((lanesOf (s.rpm a &&& s.em h)).headD 64)))
      (BitVec.ofNat 64 (encode (.vfirst h d a))) [])

/-- A predicate word: fixed latency, lanes of the effective mask only (06 R218). -/
def predWord (i : Instr) (h : Hdr) (d : Nat) (f : State → Mask) (s : State) : Host.Outcome State Fault Refusal :=
  word i s fun s => .done (s.wp d (s.em h) (f s))

/-- `pand` (06 R218). -/
def execPand (h : Hdr) (d a b : Nat) (s : State) := predWord (.pand h d a b) h d (fun s => s.rpm a &&& s.rpm b) s
/-- `por` (06 R218). -/
def execPor (h : Hdr) (d a b : Nat) (s : State) := predWord (.por h d a b) h d (fun s => s.rpm a ||| s.rpm b) s
/-- `pxor` (06 R218). -/
def execPxor (h : Hdr) (d a b : Nat) (s : State) := predWord (.pxor h d a b) h d (fun s => s.rpm a ^^^ s.rpm b) s
/-- `pnot` (06 R218). -/
def execPnot (h : Hdr) (d a : Nat) (s : State) := predWord (.pnot h d a) h d (fun s => ~~~(s.rpm a)) s
/-- `pmov` (06 R218). -/
def execPmov (h : Hdr) (d a : Nat) (s : State) := predWord (.pmov h d a) h d (fun s => s.rpm a) s
/-- `pset` from a scalar register (06 R218). -/
def execPset (h : Hdr) (d a : Nat) (s : State) := predWord (.pset h d a) h d (fun s => s.rs a) s
/-- `pset` of a constant (06 R218). -/
def execPsetImm (h : Hdr) (d : Nat) (k : Bool) (s : State) :=
  predWord (.psetImm h d k) h d (fun _ => if k then ~~~0#64 else 0#64) s

end Sys2Proof.Machine
end

