-- ==== Sys2Proof/Machine/MemOps.lean ====
section
/-! DEFINITION. Memory instructions, class 4 (07 R219 to R231; 04 R121). A load reads at issue, its group's pending stores first,
and its result is outstanding until LD_RESULT_WRITE; a store waits among the group's pending stores until ACCESS_PERFORMED
(log entry 5). -/

namespace Sys2Proof.Machine

/-- The lanes of a word with the global addresses that they wait for (16 R476, R477). -/
def remoteOf (l : List (Acc × List Loc)) : List (Nat × Nat) :=
  l.filterMap fun x => match x.2.head? with | some (.gpa pa) => some (x.1.lane, pa) | _ => none

/-- After a load whose data memory reports as uncorrectable, the trap MCE (13 R375): it resumes at the next word. -/
def loadEnd (i : Instr) (bad : Option (Acc × List Loc)) (s : State) : Eff :=
  match bad with
  | none => .done s
  | some x =>
    if s.grp.sweeps then .wait
    else .placed (s.sysTrap s.focus s.fpath (BitVec.ofNat 64 (encode i))
      { cause := 9, reason := 0, addr := BitVec.ofNat 64 (x.1.addr + (x.2.takeWhile fun c => !s.poisoned c).length), lane := x.1.lane,
        adv := true })

/-- What the address of a class-4 access depends on (05 R143). -/
def Group.addrDep (g : Group) (glob : Bool) (am : AMode) (a : Nat) : Nat :=
  match am with
  | .lane => if glob then max (g.depOf (.v, a)) (g.depOf (.v, a + 1)) else g.depOf (.v, a)
  | _ => g.depOf (.s, a)

/-- Adds the results of a load, with what each depends on. -/
def State.addLoads (s : State) (i : Instr) (am : AMode) (d z : Nat) (sx : Bool) (vals : List (Nat × ReadRes)) (remote : List (Nat × Nat)) : State :=
  (loadResults am d z sx (vals.map fun v => (v.1, leNat v.2.bytes))).foldl
    (fun a r => a.addPend .ld r (BitVec.ofNat 64 (encode i)) remote (vals.foldl (fun m v => max m v.2.dep) 0)) s

/-- Reads the accesses of a word in lane order. -/
def readLanes (rd : State → Acc → List Loc → State × ReadRes) (s : State) (l : List (Acc × List Loc)) : State × List (Nat × ReadRes) :=
  l.foldl (fun acc x => let (t, v) := rd acc.1 x.1 x.2; (t, acc.2 ++ [(x.1.lane, v)])) (s, [])

/-- A load word: `rd` reads one access (07 R221, R224); lanes whose data carry an uncorrectable error keep their old values (13 R375). -/
def loadWith (i : Instr) (h : Hdr) (m : Mem) (glob : Bool) (d a : Nat) (rd : State → Acc → List Loc → State × ReadRes) (s : State) :
    Host.Outcome State Fault Refusal :=
  word i s fun s =>
    let z := wbytes m.wd
    withAccess (s.check s.focus glob false .read (s.accs glob m.am a (memOff m.off) z (s.em h))) fun s l =>
      let good := l.filter fun x => !x.2.any s.poisoned
      let r := readLanes rd s good
      let t := if m.ord = .acq then r.1.acquireRo s.focus else r.1
      loadEnd i (l.find? fun x => x.2.any s.poisoned) (t.addLoads i m.am d z m.sx r.2 (remoteOf good))

/-- The parts of an access that are indivisible: all of it where it is aligned to its size; otherwise each byte (05 R133), and of scratchpad what
lies in one aligned 4-byte word (04 R117). -/
def atoms {α : Type} (key : α → Loc) (x : Acc) (l : List α) : List (List α) :=
  if x.addr % x.n = 0 then [l] else if l.any fun y => (key y).global then l.map fun y => [y] else byWord key l

/-- Pending accesses that a lane sees before they are performed (05 R145): the group's global ones, and its own to scratchpad; a uniform access
stands in every lane's program order. -/
def seesOwn (am : AMode) (lane : Nat) (a : Access) : Bool := decide (am = .uniform) || !a.scratch || mbit a.lanes lane

/-- What a lane of a group reads at locations (05 R133, R134, R142). -/
def readCurrent (m : Mem) (dep : Nat) (s : State) (x : Acc) (l : List Loc) : State × ReadRes :=
  let acq := if m.ord = .acq then some m.scp else none
  (atoms id x l).foldl (fun acc y =>
    let (t, r) := acc.1.readAs s.focus (seesOwn m.am x.lane) acq dep (8 * x.lane + acc.2.bytes.length) y
    (t, ⟨acc.2.bytes ++ r.bytes, max acc.2.dep r.dep⟩)) (s, ⟨[], 0⟩)

/-- `lds` (07 R224). -/
def execLds (h : Hdr) (m : Mem) (d a : Nat) (s : State) := loadWith (.lds h m d a) h m false d a (readCurrent m (s.grp.addrDep false m.am a)) s
/-- `ldg` (07 R224). -/
def execLdg (h : Hdr) (m : Mem) (d a : Nat) (s : State) := loadWith (.ldg h m d a) h m true d a (readCurrent m (s.grp.addrDep true m.am a)) s
/-- `ldc`: the value rules of `ldg` (07 R225). -/
def execLdc (h : Hdr) (m : Mem) (d a : Nat) (s : State) := loadWith (.ldc h m d a) h m true d a (readCurrent m (s.grp.addrDep true m.am a)) s

/-- Whether the page of an address is host-biased (15 R437, R452): the cached translation that the access has used says so. -/
def State.hostBiased (s : State) (gk va : Nat) : Bool :=
  let g := s.group gk
  match (s.die (dieOf g.core)).tlb.find? fun e => e.hits g.part g.asid va with
  | some e => !g.ctl && bit e.pte.toNat 6 && !bit e.pte.toNat 5
  | none => false

/-- Fills a read-only line from its home slice (04 R121): its bytes at a stamp since the group's last `rinv` and acquire, or since its grid
began (05 R156; which of them, log entry 5). -/
def State.fillRo (s : State) (n : Nat) : RoLine :=
  let locs := (List.range 128).map fun i => Loc.gpa (n * 128 + i)
  match s.pick locs (max s.grp.obs.base s.grp.obs.rofloor) n with
  | some t => ⟨n, t, locs.map (s.byteAt t)⟩
  | none => ⟨n, s.now, locs.map s.rb⟩

/-- Reads a byte through the read-only lines of the issuing core (04 R121): a line that it holds since what the group must see, unless it was
replaced (log entry 92); otherwise one that it fills. -/
def readRo (s : State) (l : Loc) : State × Byte :=
  match l with
  | .gpa pa =>
    let core := s.grp.core
    let c := s.core core
    let n := pa / 128
    let fill : State × Byte :=
      let e := s.fillRo n
      (s.setCore core { c with ro := e :: c.ro.filter fun x => x.line ≠ n }, e.bytes.getD (pa % 128) 0)
    (match c.ro.find? fun e => e.line == n with
     | some e =>
       if decide (e.at_ < s.grp.obs.rofloor) then fill
       else if e.bytes.getD (pa % 128) 0 = s.rb l then (s, e.bytes.getD (pa % 128) 0)
       else if Config.dropped s.fresh n then fill
       else (s, e.bytes.getD (pa % 128) 0)
     | none => fill)
  | l => (s, s.rb l)

/-- Reads bytes through the read-only lines; a host-biased page has none, and is read at its home slice (05 R161). An access that straddles two
pages is read byte by byte, each as its page says. -/
def readRoAll (m : Mem) (dep : Nat) (s : State) (x : Acc) (l : List Loc) : State × ReadRes :=
  let cached (s : State) (l : List Loc) : State × ReadRes :=
    let r := l.foldl (fun acc y => let (t, b) := readRo acc.1 y; (t, acc.2 ++ [b])) (s, [])
    (r.1, ⟨r.2, 0⟩)
  let biased := s.hostBiased s.focus x.addr
  if biased = s.hostBiased s.focus (x.addr + x.n - 1) then if biased then readCurrent m dep s x l else cached s l
  else l.zipIdx.foldl (fun acc y =>
    let a := x.addr + y.2
    let (t, r) := if acc.1.hostBiased s.focus a then readCurrent m dep acc.1 ⟨x.lane, a, 1⟩ [y.1] else cached acc.1 [y.1]
    (t, ⟨acc.2.bytes ++ r.bytes, max acc.2.dep r.dep⟩)) (s, ⟨[], 0⟩)

/-- `ldr` (04 R121, 07 R224). -/
def execLdr (h : Hdr) (m : Mem) (d a : Nat) (s : State) := loadWith (.ldr h m d a) h m true d a (readRoAll m (s.grp.addrDep true m.am a)) s

/-- After the effect of a `.sys` fence or release, a lost remote write of the group is reported: the trap MCE, which resumes at the
next word (16 R476, 13 R375). -/
def mceAfter (i : Instr) (sys : Bool) : Eff → Eff
  | .done s =>
    match s.grp.lostRemote with
    | some a =>
      if sys then
        if s.grp.sweeps then .wait else
        .placed ((s.setGrp { s.grp with lostRemote := none }).sysTrap s.focus s.fpath (BitVec.ofNat 64 (encode i))
          { cause := 9, reason := 0, addr := BitVec.ofNat 64 a, adv := true })
      else .done s
    | none => .done s
  | e => e

/-- The pending accesses of a store word (05 R132, R133, R136): one for each lane, or for each indivisible part of a lane that is
not aligned; of lanes that write one location only the highest writes it. -/
def storeAccs (rel : Bool) (scps : List Scope) (lanes : Acc → Mask) (data : Acc → List Byte) : List (Acc × List Loc) → List Access
  | [] => []
  | x :: r =>
    let cells := (x.2.zip (data x.1)).filter fun c => !r.any fun y => y.2.contains c.1
    ((atoms Prod.fst x.1 cells).filter fun c => !c.isEmpty).map (fun c => ⟨rel, scps, lanes x.1, c⟩) ++ storeAccs rel scps lanes data r

/-- The lanes in whose program order an access of a class-4 word stands (05 R132). -/
def accLanes (am : AMode) (em : Mask) (x : Acc) : Mask := if am = .uniform then em else 1#64 <<< x.lane

/-- A store word (07 R221, R224): the data read at issue. -/
def storeWord (i : Instr) (h : Hdr) (m : Mem) (glob : Bool) (d a : Nat) (s : State) : Host.Outcome State Fault Refusal :=
  word i s fun s =>
    let z := wbytes m.wd
    mceAfter i (m.ord = .rel && m.scp = .sys) <|
      withAccess (s.check s.focus glob false .write (s.accs glob m.am a (memOff m.off) z (s.em h))) fun s l =>
        .done (s.pushStores (storeAccs (m.ord = .rel) (s.grp.relScopes (m.ord = .rel) m.scp) (accLanes m.am (s.em h))
          (fun x => leBytes z (s.data m.am d x.lane z)) l))

/-- `sts` (07 R224). -/
def execSts (h : Hdr) (m : Mem) (d a : Nat) (s : State) := storeWord (.sts h m d a) h m false d a s
/-- `stg` (07 R224). -/
def execStg (h : Hdr) (m : Mem) (d a : Nat) (s : State) := storeWord (.stg h m d a) h m true d a s
/-- `stc`: the value rules of `stg` (07 R225). -/
def execStc (h : Hdr) (m : Mem) (d a : Nat) (s : State) := storeWord (.stc h m d a) h m true d a s

/-! ## Atomics and reductions -/

/-- The new value of an RMW on z bytes, none where nothing is written (07 R229, R230): `c` is the comparison value of `cas`. -/
def amoNew (op : AOp) (z old b c : Nat) : Option Nat :=
  let n := 8 * z
  let le := decide (sxInt n old ≤ sxInt n b)
  match op with
  | .add => some ((old + b) % 2 ^ n)
  | .min => some (if le then old else b)
  | .max => some (if le then b else old)
  | .minu => some (min old b)
  | .maxu => some (max old b)
  | .and => some (old &&& b)
  | .or => some (old ||| b)
  | .xor => some (old ^^^ b)
  | .exch => some b
  | .cas => if old = c then some b else none
  | .fadd => some (laneF .rne false (fvAdd .rne) (BitVec.ofNat 32 old) (BitVec.ofNat 32 b) 0).1.toNat
  | .fmin => some (laneMinMax false (BitVec.ofNat 32 old) (BitVec.ofNat 32 b) 0).1.toNat
  | .fmax => some (laneMinMax true (BitVec.ofNat 32 old) (BitVec.ofNat 32 b) 0).1.toNat

/-- One RMW of the issuing group at a location (05 R135): the state and the old value. It reads the last write there, acquires from its
releases, and where it writes goes on with them (05 R140) and may be a release itself. -/
def State.rmw (s : State) (m : Amo) (op : AOp) (l : List Loc) (b c : Nat) : State × ReadRes :=
  let z := l.length
  let old := leNat (l.map s.rb)
  let g := s.grp
  let me := s.who g
  let rs := (s.relsAt l s.now).filter fun r => covers r.scp r.who me
  let syn := synced (if m.ord = .acq || m.ord = .ar then some m.scp else none) me rs
  let s1 := s.observeWith s.focus fun o =>
    { o with floor := max o.floor (lastRel syn), heard := o.heard ++ rs, seen := (l, s.now + 1) :: o.seen }
  let res : ReadRes := ⟨leBytes z old, lastRel rs⟩
  match amoNew op z old b c with
  | some v =>
    let cells := l.zip (leBytes z v)
    ((s1.putCells cells).addRels me (g.relScopes (m.ord = .rel || m.ord = .ar) m.scp) cells, res)
  | none => (s1, res)

/-- A reduction of the issuing group that gets no answer is lost as a remote write is (16 R476): it is not performed, and counted. -/
def State.dropRed (s : State) (pa : Option Nat) : State := (s.setGrp { s.grp with lostRemote := pa, deaf := none }).countLost

/-- An atomic or reduction word (07 R230): the group's pending stores are performed first, then each lane's RMW in ascending lane
order. `ret`: the old values are returned to register `d`. -/
def amoWord (i : Instr) (h : Hdr) (m : Amo) (op : AOp) (glob ret : Bool) (d a b : Nat) (s : State) :
    Host.Outcome State Fault Refusal :=
  word i s fun s =>
    let z := wbytes m.wd
    let ops (l : Nat) : Nat × Nat := (s.data m.am b l z, s.data m.am d l z)
    mceAfter i ((m.ord = .rel || m.ord = .ar) && m.scp = .sys) <|
      withAccess (s.check s.focus glob true .rmw (s.accs glob m.am a 0 z (s.em h))) fun s l =>
        let gone := if ret then none else l.find? fun x => (s.noAnswer s.focus x.2).isSome
        let kept := l.filter fun x => gone.all fun y => y.1.lane ≠ x.1.lane
        let r := kept.foldl (fun (acc : State × List (Nat × ReadRes)) x =>
          let (t, old) := acc.1.rmw m op x.2 (ops x.1.lane).1 (ops x.1.lane).2
          (t, acc.2 ++ [(x.1.lane, old)])) (s.performAll s.focus, [])
        let t := if m.ord = .acq || m.ord = .ar then r.1.acquireRo s.focus else r.1
        .done (match gone with
          | some x => t.dropRed (x.2.findSome? fun c => match c with | .gpa pa => some pa | _ => none)
          | none => if ret then t.addLoads i m.am d z false r.2 (remoteOf l) else t)

/-- `atom` (07 R230). -/
def execAtom (h : Hdr) (m : Amo) (op : AOp) (d a b : Nat) (s : State) := amoWord (.atom h m op d a b) h m op true true d a b s
/-- `atoms` (07 R230). -/
def execAtoms (h : Hdr) (m : Amo) (op : AOp) (d a b : Nat) (s : State) := amoWord (.atoms h m op d a b) h m op false true d a b s
/-- `red` (07 R230). -/
def execRed (h : Hdr) (m : Amo) (op : AOp) (a b : Nat) (s : State) := amoWord (.red h m op a b) h m op true false 0 a b s

/-! ## Fences, read-only invalidation, prefetch -/

/-- `fence` (07 R228): once it issues, the accesses it waits for are performed; a lost remote write is reported (16 R476). -/
def execFence (pk : Bool) (scp : Scope) (ord : Order) (s : State) :=
  word (.fence pk scp ord) s fun s => mceAfter (.fence pk scp ord) (scp = .sys)
    (.done (match ord with
      | .acq => s.acquireFence s.focus scp
      | .ar => s.fullFence s.focus scp
      | _ => s.releaseFence s.focus scp))
/-- `fence.async` (07 R228, 05 R146). -/
def execFenceAsync (pk : Bool) (s : State) :=
  word (.fenceAsync pk) s fun s => .done (s.observeWith s.focus fun o => { o with afence := s.now })

/-- The cores that `rinv` covers (07 R227). -/
def State.rinvCores (s : State) (scp : Scope) : List Nat :=
  let g := s.grp
  match scp with
  | .ln | .gp | .tm => [g.core]
  | .cl => g.core :: (s.cluster (s.team g.team).cluster).cores.filter (· ≠ g.core)
  | _ => (s.teams.filter fun e => e.2.lid == g.lid && !e.2.saved).map fun e => e.2.core

/-- `rinv` (07 R227). -/
def execRinv (pk : Bool) (scp : Scope) (s : State) :=
  word (.rinv pk scp) s fun s =>
    .done (((s.rinvCores scp).foldl (fun a c => a.setCore c { a.core c with ro := [] }) s).observeWith s.focus fun o => { o with rinv := true })

/-- `pf`: no architectural effect (07 R226). -/
def execPf (h : Hdr) (wd : Width) (am : AMode) (l2 : Bool) (off : BitVec 16) (a : Nat) (s : State) :=
  word (.pf h wd am l2 off a) s fun s => .done s

end Sys2Proof.Machine
end

