-- ==== Sys2Proof/Machine/Phaser.lean ====
section
/-! DEFINITION. Phasers (07 R235 to R245): the state of 32 bytes, registration, arrival, flip, waiting, and the waking of waiters
(14 R422). -/

namespace Sys2Proof.Machine

/-- The fields of a phaser (07 R236); `ah` holds AH1 to AH7. -/
structure Ph where
  phase : Nat
  nsig : Nat
  nadd : Nat
  ndrop : Nat
  nfree : Nat
  count : Nat
  ah : List Nat
  deriving DecidableEq, Repr

/-- The phaser that 32 bytes hold, as a number (07 R236). -/
def Ph.ofNum (v : Nat) : Ph :=
  { phase := bits v 0 32, nsig := bits v 32 16, nadd := bits v 48 16, ndrop := bits v 64 16, nfree := bits v 80 16,
    count := bits v 96 48, ah := (List.range 7).map fun i => bits v (144 + 16 * i) 16 }

/-- The bytes of a phaser, as a number. -/
def Ph.num (p : Ph) : Nat :=
  p.phase % 2 ^ 32 + p.nsig % 2 ^ 16 * 2 ^ 32 + p.nadd % 2 ^ 16 * 2 ^ 48 + p.ndrop % 2 ^ 16 * 2 ^ 64 + p.nfree % 2 ^ 16 * 2 ^ 80
    + p.count % 2 ^ 48 * 2 ^ 96
    + (List.range 7).foldl (fun acc i => acc + p.ah.getD i 0 % 2 ^ 16 * 2 ^ (144 + 16 * i)) 0

/-- A new phaser of b places (07 R239). -/
def Ph.new (b : Nat) : Ph := { phase := 0, nsig := b, nadd := 0, ndrop := 0, nfree := b, count := b, ah := List.replicate 7 0 }

/-- One round of the flip (07 R241). -/
def Ph.flipOnce (p : Ph) : Ph :=
  let n := (p.nsig + p.nadd + 2 ^ 16 - p.ndrop) % 2 ^ 16
  { p with
    phase := (p.phase + 1) % 2 ^ 32, nsig := n, nadd := 0, ndrop := 0,
    count := (n + 2 ^ 48 - p.ah.getD 0 0) % 2 ^ 48, ah := p.ah.drop 1 ++ [0] }

/-- The flip (07 R241): rounds until COUNT ≠ 0 or NSIG = 0. After seven rounds every AH is 0, so that eight rounds suffice. -/
def Ph.flip : Nat → Ph → Ph
  | 0, p => p
  | n + 1, p =>
    let q := p.flipOnce
    if q.count ≠ 0 || q.nsig = 0 then q else Ph.flip n q

/-- Subtracts n from COUNT, one after another: each that reaches 0 flips (07 R241, R245); a COUNT of 0 wraps (log entry 94). -/
def Ph.subN : Nat → Nat → Ph → Ph
  | 0, _, p => p
  | fuel + 1, n, p =>
    if n = 0 then p
    else if p.count = 0 || n < p.count then { p with count := (p.count + 2 ^ 48 - n % 2 ^ 48) % 2 ^ 48 }
    else Ph.subN fuel (n - p.count) (Ph.flip 9 { p with count := 0 })

/-- Subtracts n from COUNT (07 R241, R245). -/
def Ph.sub (p : Ph) (n : Nat) : Ph := Ph.subN n n p

/-- The distance of a member phase ahead of PHASE (07 R242). -/
def Ph.ahead (p : Ph) (mp : Nat) : Nat := (mp + 2 ^ 32 - p.phase) % 2 ^ 32

/-- Whether an arrival waits at the seven-phase limit (07 R242). -/
def Ph.limit (p : Ph) (mp : Nat) : Bool := decide (8 ≤ p.ahead mp) && decide (p.ahead mp < 2 ^ 31)

/-- An arrival for a member phase (07 R242). -/
def Ph.arrive (p : Ph) (mp : Nat) : Ph :=
  let d := p.ahead mp
  if d = 0 then p.sub 1
  else if d ≤ 7 then { p with ah := setIdx p.ah (d - 1) fun n => (n + 1) % 2 ^ 16 }
  else p

/-- Whether the phase of a token has ended (07 R244). -/
def Ph.ended (p : Ph) (tok : Nat) : Bool :=
  let d := (p.phase + 2 ^ 32 - bits tok 0 32) % 2 ^ 32
  decide (1 ≤ d) && decide (d < 2 ^ 31)

/-- A phaser token (07 R242). -/
def phToken (phase k : Nat) : W64 := BitVec.ofNat 64 (phase % 2 ^ 32 + k * 2 ^ 32 + 2 ^ 63)

/-- The phaser at a location. -/
def State.phaser (s : State) (l : Loc) : Ph := Ph.ofNum (s.lnum l 32)

/-- The bytes of a phaser at a location. -/
def phCells (l : Loc) (p : Ph) : List (Loc × Byte) := (List.range 32).zipWith (fun i b => (l.plus i, b)) (leBytes 32 p.num)

/-- Updates a phaser: the write of an RMW (05 R135), after which the releases at its bytes stand (05 R140). -/
def State.setPhaser (s : State) (l : Loc) (p : Ph) : State := s.putCells (phCells l p)

/-- A group's update of a phaser, a release at a scope where `rel` says so (05 R139, R152). -/
def State.phaserAs (s : State) (gk : Nat) (rel : Bool) (scp : Scope) (l : Loc) (p : Ph) : State :=
  let g := s.group gk
  (((s.observeWith gk fun o => o.saw ((phCells l p).map (·.1)) (s.now + 1)).setPhaser l p).addRels (s.who g) (g.relScopes rel scp)
    (phCells l p))

/-- Initialises a phaser, a relaxed write of its bytes (07 R239): no arrival is counted at it. -/
def State.newPhaser (s : State) (gk : Nat) (l : Loc) (p : Ph) : State :=
  { s.writeAs gk (phCells l p) with arrivals := s.arrivals.filter fun a => a.loc ≠ l }

/-- Counts an arrival in a phase of a phaser (05 R152). -/
def State.addArrival (s : State) (l : Loc) (phase : Nat) (y : Sync) : State := { s with arrivals := ⟨l, phase, y⟩ :: s.arrivals }

/-- What the arrivals that are counted in a phase of a phaser give those that wait for its end (05 R152). -/
def State.arrivalsIn (s : State) (l : Loc) (phase : Nat) : List Sync :=
  (s.arrivals.filter fun a => decide (a.loc = l) && decide (a.phase = phase)).map (·.sync)

/-- A wait of a group on a phaser's token acquires, at the scope of its word, what arrived in the token's phase (05 R148, R152). -/
def State.acquirePhase (s : State) (gk : Nat) (scp : Scope) (l : Loc) (tok : W64) : State :=
  s.acquireFrom gk scp (s.arrivalsIn l (bits tok.toNat 0 32))

/-- A registration slot of a group. -/
def Group.slot (g : Group) (k : Nat) : RegSlot := tget RegSlot.init g.slots k

/-- Replaces a registration slot. -/
def Group.setSlot (g : Group) (k : Nat) (e : RegSlot) : Group := { g with slots := tset RegSlot.init g.slots k e }

/-- Arrives through slot `k` of a group (07 R242), not held by the limit: the state and the token. An arrival that is counted is a release at the
scope of its word (05 R152). -/
def State.arriveSlot (s : State) (gk k : Nat) (l : Loc) (scp : Scope) : State × W64 :=
  let g := s.group gk
  let e := g.slot k
  let p := s.phaser l
  if e.mode = .wait then (s, phToken p.phase k)
  else
    let s1 := s.phaserAs gk true scp l (p.arrive e.mp)
    let s2 := if p.ahead e.mp ≤ 7 then s1.addArrival l e.mp (s1.syncOf gk scp) else s1
    let g1 := s2.group gk
    (s2.setGroup gk (g1.setSlot k { e with mp := (e.mp + 1) % 2 ^ 32 }), phToken e.mp k)

/-- A waiting path completes its word: it is ready at an address (14 R422). -/
def Path.wake (q : Path) (pc : W64) : Path := { q with st := .ready, wait := none, pc := pc }

/-- Where the phaser of a waiting word stands now: its handle translated afresh, so that a moved page loses no waiter (14 R422, 15 R451). -/
def State.waitLoc (s : State) (gk : Nat) (w : Wait) : Option Loc :=
  match (s.access gk (!w.wv2.getLsbD 63) false .read ⟨0, bits w.wv2.toNat 0 57, 32⟩).2 with
  | .ok (x :: _) => some x
  | _ => w.loc

/-- The write that a waiting arrival at `.sys` reports lost when it completes (16 R476). -/
def Group.owes (g : Group) (w : Wait) : Option Nat := if w.word = 0#64 then none else g.lostRemote

/-- Whether a waiter at a phaser wakes (14 R422): its token's phase has ended, or the limit no longer holds it. One that is to trap waits for a
sweep of the other path (13 R373). -/
def State.phWakes (s : State) (l : Loc) (gk p : Nat) : Bool :=
  let g := s.group gk
  let q := g.path p
  match q.wait with
  | some w =>
    decide (q.st = .waiting) && (w.wk == 1 || w.wk == 2) && !((g.owes w).isSome && g.sweeps) && decide (s.waitLoc gk w = some l)
      && (if w.wk = 1 then (s.phaser l).ended w.wv1.toNat
          else w.wk == 2 && !(s.phaser l).limit (g.slot (bits w.wv1.toNat 32 3)).mp)
  | none => false

/-- The path of a word that waited at a phaser goes on at the next word; a lost remote write is reported there (16 R476). -/
def State.phGoOn (s : State) (gk p : Nat) (w : Wait) : State :=
  let g := s.group gk
  let q := g.path p
  match g.owes w with
  | none => s.setGroup gk (g.setPath p (q.wake (q.pc + 8)))
  | some a =>
    (s.setGroup gk ({ g with lostRemote := none }.setPath p (q.wake q.pc))).sysTrap gk p w.word
      { cause := 9, reason := 0, addr := BitVec.ofNat 64 a, adv := true }

/-- Completes the waiting word of a path at a phaser: `phwait` and `pharw` go on, with an acquire (05 R152); a held `pharr` arrives, and a held
`pharw` then waits on its token (07 R242, R244); its token goes to sD over what the other path has written there meanwhile (01 R36; log entry 108). -/
def State.phComplete (s : State) (gk p : Nat) (l : Loc) : State :=
  let g := s.group gk
  let q := g.path p
  match q.wait with
  | none => s
  | some w =>
    if w.wk = 1 then (s.acquirePhase gk w.scp l w.wv1).phGoOn gk p w
    else
      let (s1, tok) := (s.performAll gk).arriveSlot gk (bits w.wv1.toNat 32 3) l w.scp
      let s2 := s1.setGroup gk ((s1.group gk).ws p w.d tok)
      if w.c = 0 then s2.phGoOn gk p w
      else if (s2.phaser l).ended tok.toNat then (s2.acquirePhase gk w.scp l tok).phGoOn gk p w
      else
        let g2 := s2.group gk
        s2.setGroup gk (g2.setPath p { g2.path p with wait := some { w with wk := 1, wv1 := tok } })

/-- Every path slot that waits, by group slot and path. -/
def State.waiters (s : State) : List (Nat × Nat) :=
  s.groups.flatMap fun e => (List.range 2).filterMap fun p => if (e.2.path p).wait.isSome then some (e.1, p) else none

/-- Wakes the waiters of a phaser, one after another, `n` at most: an arrival of a woken `pharr` may flip the phaser again. -/
def State.wakePhaser (l : Loc) : Nat → State → State
  | 0, s => s
  | n + 1, s =>
    match s.waiters.find? (fun x => s.phWakes l x.1 x.2) with
    | some x => State.wakePhaser l n (s.phComplete x.1 x.2 l)
    | none => s

/-- Wakes every waiter of a phaser whose condition now holds (07 R239, R241): a path wakes twice at most. -/
def State.wakeAt (s : State) (l : Loc) : State := s.wakePhaser l (2 * s.waiters.length)

/-- Why a handle is refused (07 R235), with the lowest reason: none where its layout is right. -/
def handleReason (h : W64) : Option Nat :=
  let v := h.toNat
  if bits v 57 6 ≠ 0 then some 1
  else if bit v 63 && bits v 27 30 ≠ 0 then some 2
  else none

/-- Locates a phaser for a word of the issuing group (07 R235, R237), then goes on; a stall waits for the member. -/
def withPhaser (s : State) (h : W64) (k : AKind) (body : State → Loc → Eff) : Eff :=
  let a := bits h.toNat 0 57
  match handleReason h with
  | some r => prot r h k.wr
  | none =>
    withAccess (s.check s.focus (!h.getLsbD 63) true k [⟨0, a, 32⟩]) fun s1 l =>
      match l.head? with
      | some (_, x :: _) => body (s1.performAll s1.focus) x
      | _ => .done s1

/-- Scratchpad phasers held on a core (07 R238). -/
def State.phaserSlots (s : State) (core : Nat) : Nat :=
  (s.teams.filter fun e => e.2.core == core && !e.2.saved).foldl (fun n e => n + e.2.phasers.length) 0

/-- `phinit` (07 R238, R239); its handle and page are judged before b and the slot (log entry 95). -/
def execPhinit (h : Hdr) (a b : Nat) (s : State) :=
  word (.phinit h a b) s fun s => groupWide h (fun s =>
    let hd := s.rs a
    let n := (s.rs b).toNat
    withPhaser s hd .write fun s l =>
      if n > 65535 then ils 12 hd hd (s.rs b)
      else
        let slot : Option (Option (Nat × Nat)) := match l with
          | .gpa _ => some none
          | .sp t o =>
            if (s.team t).phasers.contains o then some none
            else if s.phaserSlots (s.team t).core ≥ 128 then none else some (some (t, o))
        match slot with
        | none => ils 12 hd hd (s.rs b)
        | some r =>
          let s1 := match r with
            | some (t, o) => s.setTeam t { s.team t with phasers := (s.team t).phasers ++ [o] }
            | none => s
          .done ((s1.newPhaser s1.focus l (Ph.new n)).wakeAt l)) s

/-- `phreg` (07 R240). -/
def execPhreg (h : Hdr) (k a : Nat) (mode : PhMode) (s : State) :=
  word (.phreg h k a mode) s fun s => groupWide h (fun s =>
    let hd := s.rs a
    if !(s.grp.slot k).free then ils 11 hd hd 0
    else
      withPhaser s hd .rmw fun s l =>
        let p := s.phaser l
        let put (s : State) (mp : Nat) : Eff := .done (s.setGrp (s.grp.setSlot k ⟨hd, mode, false, true, mp⟩))
        if mode = .wait then put s 0
        else if p.nfree > 0 then put (s.phaserAs s.focus false .ln l { p with nfree := p.nfree - 1 }) p.phase
        else if p.nsig + p.nadd = 65535 + p.ndrop then ils 12 hd hd 0
        else put (s.phaserAs s.focus false .ln l { p with nadd := p.nadd + 1 }) ((p.phase + 1) % 2 ^ 32)) s

/-- `phdrop` (07 R243). -/
def execPhdrop (h : Hdr) (k : Nat) (s : State) :=
  word (.phdrop h k) s fun s => groupWide h (fun s =>
    let e := s.grp.slot k
    if e.free then ils 11
    else
      withPhaser s e.h .rmw fun s l =>
        let p := s.phaser l
        let free (s : State) : State := s.setGrp (s.grp.setSlot k { e with free := true })
        if e.mode = .wait then .done (free s)
        else if e.mp ≠ p.phase then ils 11 e.h
        else .done ((free (s.phaserAs s.focus false .ln l ({ p with ndrop := (p.ndrop + 1) % 2 ^ 16 }.sub 1))).wakeAt l)) s

/-- The arrival of `pharr` and `pharw` through slot `k` into sD (07 R242): held at the limit, it waits; `go` says what follows. -/
def arriveWord (s : State) (scp : Scope) (wd : W64) (d k c : Nat) (go : State → Loc → W64 → Eff) : Eff :=
  let e := s.grp.slot k
  if e.free then ils 11
  else
    withPhaser s e.h .rmw fun s l =>
      if e.mode ≠ .wait && (s.phaser l).limit e.mp then .stay (s.enterWait 2 (phToken e.mp k) e.h d c (some l) scp wd)
      else
        let (s1, tok) := s.arriveSlot s.focus k l scp
        go ((s1.ws d tok).wakeAt l) l tok

/-- The word that a waiting arrival keeps for the report of a lost write: only at `.sys` (16 R476). -/
def sysWord (scp : Scope) (i : Instr) : W64 := if scp = .sys then BitVec.ofNat 64 (encode i) else 0#64

/-- `pharr` (07 R242): a release at its scope. -/
def execPharr (h : Hdr) (scp : Scope) (d k : Nat) (s : State) :=
  word (.pharr h scp d k) s fun s =>
    mceAfter (.pharr h scp d k) (scp = .sys && s.em h ≠ 0#64) <|
      groupWide h (fun s => arriveWord s scp (sysWord scp (.pharr h scp d k)) d k 0 fun s _ _ => .done s) s

/-- Waits on a token at a phaser, or goes on where its phase has ended, with an acquire (07 R244, 05 R152). -/
def waitToken (s : State) (scp : Scope) (wd : W64) (l : Loc) (tok hd : W64) (d : Nat) : Eff :=
  if (s.phaser l).ended tok.toNat then .done (s.acquirePhase s.focus scp l tok)
  else .stay (s.enterWait 1 tok hd d 0 (some l) scp wd)

/-- `phwait` (07 R244); a malformed token is judged before its slot (log entry 96). -/
def execPhwait (h : Hdr) (scp : Scope) (a : Nat) (s : State) :=
  word (.phwait h scp a) s fun s => groupWide h (fun s =>
    let tok := s.rs a
    let e := s.grp.slot (bits tok.toNat 32 3)
    if !tok.getLsbD 63 || bits tok.toNat 35 28 ≠ 0 then ils 13 tok tok 0
    else if e.free && !e.ever then ils 11 tok tok 0
    else withPhaser s e.h .read fun s l => waitToken s scp 0 l tok e.h 0) s

/-- `pharw`: an arrival, then a wait on its token (07 R244). -/
def execPharw (h : Hdr) (scp : Scope) (d k : Nat) (s : State) :=
  word (.pharw h scp d k) s fun s =>
    mceAfter (.pharw h scp d k) (scp = .sys && s.em h ≠ 0#64) <|
      groupWide h (fun s => let wd := sysWord scp (.pharw h scp d k)
        arriveWord s scp wd d k 1 fun s l tok => waitToken s scp wd l tok (s.grp.slot k).h d) s

end Sys2Proof.Machine
end

