-- ==== Sys2Proof/Machine/Frame.lean ====
section
/-! DEFINITION. The context frame (13 R380 to R383): a group as 8-byte words at frame offsets, the debug window that shows the same
words (13 R384), and a group read back from a frame. -/

namespace Sys2Proof.Machine

/-- The length of a frame, F (13 R380). -/
def Group.frameLen (g : Group) : Nat := 4096 + 4 * g.w * g.nv + 4096 * g.nt

/-- STATE of a path slot as its code (13 R382). -/
def PSt.code : PSt → Nat
  | .free => 0
  | .ready => 1
  | .waiting => 2
  | .parked => 3

/-- STATE from its code. -/
def PSt.ofCode : Nat → PSt
  | 1 => .ready
  | 2 => .waiting
  | 3 => .parked
  | _ => .free

/-- A mode of a registration as its code (07 R240). -/
def phModeCode : PhMode → Nat
  | .sig => 0
  | .wait => 1
  | .sigwait => 2

/-- A mode from its code. -/
def phModeOf : Nat → PhMode
  | 1 => .wait
  | 2 => .sigwait
  | _ => .sig

/-- A stack entry as five words (13 R382). -/
def StackEnt.word (e : StackEnt) : Nat → Nat
  | 0 => e.rpc.toNat
  | 1 => e.rmask.toNat
  | 2 => e.full.toNat
  | 3 => (e.jpc.getD 0).toNat
  | _ => b2n e.second + 2 * b2n e.jpc.isSome

/-- A path slot record as 48 words (13 R382); entry 0 is the bottom of the stack (log entry 41). -/
def Path.word (q : Path) (j : Nat) : Nat :=
  let wk := match q.wait with | some w => w.wk | none => 0
  let v1 := match q.wait with | some w => w.wv1.toNat | none => 0
  let v2 := match q.wait with | some w => w.wv2.toNat | none => 0
  match j with
  | 0 => q.pc.toNat
  | 1 => q.mask.toNat
  | 2 => q.owned.toNat
  | 3 => q.jpc.toNat
  | 4 => q.st.code + q.stack.length * 2 ^ 2 + b2n q.held * 2 ^ 6 + q.swi % 2 ^ 12 * 2 ^ 8 + wk * 2 ^ 20 + v1 % 2 ^ 32 * 2 ^ 32
  | 5 => v1 / 2 ^ 32 + v2 % 2 ^ 32 * 2 ^ 32
  | 6 => v2 / 2 ^ 32
  | _ =>
    if j < 8 then 0
    else match q.stack.reverse[(j - 8) / 5]? with
      | some e => e.word ((j - 8) % 5)
      | none => 0

/-- A registration slot as two words (13 R380). -/
def RegSlot.word (e : RegSlot) (j : Nat) : Nat :=
  if j = 0 then e.h.toNat else phModeCode e.mode + b2n e.free * 4 + b2n e.ever * 8 + e.mp % 2 ^ 32 * 2 ^ 32

/-- A stream as nine words (13 R380). -/
def Stream.word (x : Stream) (j : Nat) : Nat :=
  if j < 8 then leNat ((x.desc.drop (8 * j)).take 8) else x.rnd % 2 ^ 32 + b2n x.cfg * 2 ^ 32

/-- Two 32-bit values as a word. -/
def pair32 (a b : W32) : Nat := a.toNat + b.toNat * 2 ^ 32

/-- Word `k` of the frame of a group (13 R380, R381): byte offset 8k. `cyc` is CYCS and `tfa` is TFA. -/
def Group.frameWord (g : Group) (cyc tfa k : Nat) : Nat :=
  if k < 16 then
    match k with
    | 0 => 1 + (g.w / 8).log2 * 2 ^ 16 + (g.nv / 16 - 1) * 2 ^ 18 + g.nt * 2 ^ 22 + g.gid * 2 ^ 27
      + g.rank * 2 ^ 32 + g.part * 2 ^ 40 + dieOf g.core * 2 ^ 48 + g.core % Config.nSites * 2 ^ 51
    | 1 => g.lid
    | 2 => tfa
    | 3 => g.rsd + b2n g.col * 2 ^ 4 + g.uhc * 2 ^ 16 + g.qrc % 2 ^ 32 * 2 ^ 32
    | 4 => g.hpc.toNat
    | 5 => cyc
    | 6 => g.wdt
    | _ => 0
  else if k < 64 then g.p0.word (k - 16)
  else if k < 112 then g.p1.word (k - 64)
  else if k < 240 then (if k = 239 then 0 else (tget 0#64 g.sreg (k - 112)).toNat)
  else if k < 252 then (tget 0#64 g.preg (k - 240)).toNat
  else if k < 256 then (match k with | 252 => g.fm.toNat | 253 => g.sc.toNat | 254 => g.fps.toNat | _ => 0)
  else if k < 264 then pair32 (tget 0#32 g.tstat (2 * (k - 256))) (tget 0#32 g.tstat (2 * (k - 256) + 1))
  else if k < 280 then (g.slot ((k - 264) / 2)).word ((k - 264) % 2)
  else if k < 316 then (tget Stream.init g.streams ((k - 280) / 9)).word ((k - 280) % 9)
  else if k < 380 then pair32 (tget 0#32 g.fq (2 * (k - 316))) (tget 0#32 g.fq (2 * (k - 316) + 1))
  else if 384 ≤ k && k < 392 then (match g.trap with | some r => leNat ((r.bytes.drop (8 * (k - 384))).take 8) | none => 0)
  else if k < 512 then 0
  else
    let m := 2 * (k - 512)
    if m < g.w * g.nv then
      let v (e : Nat) : W32 := tget 0#32 g.vreg (e / g.w * 64 + e % g.w)
      pair32 (v m) (v (m + 1))
    else
      let e := m - g.w * g.nv
      pair32 (tget 0#32 g.tile e) (tget 0#32 g.tile (e + 1))

/-- A path as a frame holds it: a `qmm` wait is not kept (13 R383). -/
def Path.kept (q : Path) : Path :=
  match q.wait with
  | some w => if w.wk = 6 then { q with st := .ready, wait := none } else q
  | none => q

/-- A group as a frame saved now would hold it (13 R383, R384). -/
def Group.kept (g : Group) : Group := { g with p0 := g.p0.kept, p1 := g.p1.kept }

/-- Writes the frame of a group at a physical address (13 R387). -/
def State.writeFrame (s : State) (g : Group) (a tfa : Nat) : State :=
  let cyc := (s.die (dieOf g.core)).cyc
  (List.range (g.frameLen / 8)).foldl (fun t k => t.wnum (a + 8 * k) 8 (g.frameWord cyc tfa k)) s

/-- A list of entries without the default, for a canonical table. -/
def tabOf {α : Type} [DecidableEq α] (dflt : α) (n : Nat) (key : Nat → Nat) (f : Nat → α) : Tab α :=
  (List.range n).filterMap fun i => if f i = dflt then none else some (key i, f i)

/-- Half `i` of the 32-bit values that stand from word `base` up. -/
def half32 (rd : Nat → Nat) (base i : Nat) : W32 := BitVec.ofNat 32 (rd (base + i / 2) / 2 ^ (32 * (i % 2)))

/-- A stack entry from its words (13 R382). -/
def StackEnt.ofWords (rd : Nat → Nat) (b : Nat) : StackEnt :=
  { rpc := BitVec.ofNat 64 (rd b), rmask := BitVec.ofNat 64 (rd (b + 1)), full := BitVec.ofNat 64 (rd (b + 2)),
    jpc := if bit (rd (b + 4)) 1 then some (BitVec.ofNat 64 (rd (b + 3))) else none, second := bit (rd (b + 4)) 0 }

/-- The bits of a tile status word that it defines (08 R264). -/
def tstatBits : W32 := 0x00000f1f#32

/-- A trap record from its words (13 R374): none where all are zero. -/
def TrapRec.ofWords (rd : Nat → Nat) (b : Nat) : Option TrapRec :=
  let w0 := rd b
  if (List.range 8).all fun i => rd (b + i) == 0 then none
  else some { cause := bits w0 0 8, reason := bits w0 8 8, ps := bits w0 16 1, fetch := bit w0 17, wr := bit w0 18, ucause := bits w0 24 8,
              lane := bits w0 32 6, tpc := BitVec.ofNat 64 (rd (b + 1)), word := BitVec.ofNat 64 (rd (b + 2)),
              addr := BitVec.ofNat 64 (rd (b + 3)), info0 := BitVec.ofNat 64 (rd (b + 4)), info1 := BitVec.ofNat 64 (rd (b + 5)),
              cyc := BitVec.ofNat 64 (rd (b + 6)) }

/-- A path slot from its record (13 R382); `q` gives what the frame does not hold of a wait or a sweep in progress. -/
def Path.ofWords (q : Path) (rd : Nat → Nat) (b : Nat) : Path :=
  let w4 := rd (b + 4)
  let wk := bits w4 20 4
  let v1 := BitVec.ofNat 64 (w4 / 2 ^ 32 + rd (b + 5) % 2 ^ 32 * 2 ^ 32)
  let v2 := BitVec.ofNat 64 (rd (b + 5) / 2 ^ 32 + rd (b + 6) % 2 ^ 32 * 2 ^ 32)
  let old := q.wait.getD ⟨0, 0, 0, 0, 0, none, .ln, 0⟩
  { q with
    pc := BitVec.ofNat 64 (rd b), mask := BitVec.ofNat 64 (rd (b + 1)) &&& BitVec.ofNat 64 (rd (b + 2)), owned := BitVec.ofNat 64 (rd (b + 2)),
    jpc := BitVec.ofNat 64 (rd (b + 3)), st := PSt.ofCode (bits w4 0 2),
    stack := ((List.range (min (bits w4 2 4) 8)).map fun i => StackEnt.ofWords rd (b + 8 + 5 * i)).reverse,
    held := bit w4 6, park := false, pend := [], swi := bits w4 8 12,
    wait := if wk = 0 then none else some { old with wk := wk, wv1 := v1, wv2 := v2 } }

/-- A stream from its words (13 R380); its fetched rounds are not saved (09 R311). -/
def Stream.ofWords (rd : Nat → Nat) (b : Nat) : Stream :=
  { Stream.init with
    cfg := bit (rd (b + 8)) 32, rnd := bits (rd (b + 8)) 0 32,
    desc := if bit (rd (b + 8)) 32 then (List.range 8).flatMap fun j => leBytes 8 (rd (b + j)) else [] }

/-- A registration slot from its words (13 R380). -/
def RegSlot.ofWords (rd : Nat → Nat) (b : Nat) : RegSlot :=
  { h := BitVec.ofNat 64 (rd b), mode := phModeOf (bits (rd (b + 1)) 0 2), free := bit (rd (b + 1)) 2, ever := bit (rd (b + 1)) 3,
    mp := bits (rd (b + 1)) 32 32 }

/-- A value where it is legal, the old one where it is not. -/
def legal (ok : W64 → Bool) (old v : W64) : W64 := if ok v then v else old

/-- A group read back from a frame (13 R380 to R382): `rd` gives the frame's words, `g` what the frame does not hold. Reserved bits of FPS and of
the tile status words read 0 (00 R8, 02 R56), and `fm` and `sc` keep a legal value (02 R55, 13 R385), whatever the frame holds there. -/
def Group.ofFrame (g : Group) (rd : Nat → Nat) : Group :=
  let h := rd 0
  let w := 8 * 2 ^ bits h 16 2
  let nv := 16 * (bits h 18 4 + 1)
  let nt := bits h 22 5
  let vb := 512 + w * nv / 2
  { g with
    w := w, nv := nv, nt := nt, gid := bits h 27 4, rank := bits h 32 4, lid := rd 1,
    rsd := bits (rd 3) 0 4, col := bit (rd 3) 4, uhc := bits (rd 3) 16 8, qrc := bits (rd 3) 32 32,
    hpc := BitVec.ofNat 64 (rd 4), wdt := rd 6,
    p0 := g.p0.ofWords rd 16, p1 := g.p1.ofWords rd 64,
    sreg := tabOf 0#64 127 id fun n => BitVec.ofNat 64 (rd (112 + n)),
    preg := tabOf 0#64 12 id fun n => BitVec.ofNat 64 (rd (240 + n)) &&& fullMask w,
    fm := legal fmOk g.fm (BitVec.ofNat 64 (rd 252)), sc := legal scOk g.sc (BitVec.ofNat 64 (rd 253)),
    fps := BitVec.ofNat 64 (rd 254) &&& fpsMask, tstat := tabOf 0#32 16 id fun t => half32 rd 256 t &&& tstatBits,
    slots := tabOf RegSlot.init 8 id fun k => RegSlot.ofWords rd (264 + 2 * k),
    streams := tabOf Stream.init 4 id fun k => Stream.ofWords rd (280 + 9 * k),
    fq := tabOf 0#32 128 id (half32 rd 316),
    vreg := tabOf 0#32 (w * nv) (fun e => e / w * 64 + e % w) (half32 rd 512),
    tile := tabOf 0#32 (1024 * nt) id (half32 rd vb), orph := [],
    trap := TrapRec.ofWords rd 384 }

/-- The words of a frame in memory. -/
def State.frameRd (s : State) (a k : Nat) : Nat := s.rnum (a + 8 * k) 8

/-- A saved group as it stands in its frame. -/
def State.savedGroup (s : State) (v : Saved) : Group := v.grp.ofFrame (s.frameRd v.addr)

/-- Completes the waiting word of path `p` of a saved group in its frame: the path is ready at the next word (14 R422). -/
def State.savedWake (s : State) (v : Saved) (p : Nat) (regs : List (Nat × W64)) : State :=
  let b := 16 + 48 * p
  let s1 := regs.foldl (fun t r =>
    if r.1 < 127 then t.wnum (v.addr + 8 * (112 + r.1)) 8 r.2.toNat
    else t.wnum (v.addr + 8 * (b + 1)) 8 (r.2 &&& BitVec.ofNat 64 (t.frameRd v.addr (b + 2))).toNat) s
  let w4 := s.frameRd v.addr (b + 4)
  let w4' := bits w4 0 20 / 4 * 4 + PSt.ready.code + bits w4 24 8 * 2 ^ 24
  let s2 := ((s1.wnum (v.addr + 8 * b) 8 ((s.frameRd v.addr b + 8) % 2 ^ 64)).wnum (v.addr + 8 * (b + 4)) 8 w4').wnum
    (v.addr + 8 * (b + 5)) 16 0
  { s2 with saved := s2.saved.map fun x =>
      if x.addr = v.addr then { x with grp := x.grp.setPath p { x.grp.path p with wait := none, st := .ready } } else x }

/-- A saved context by the group it holds. -/
def State.findSaved (s : State) (lid team gid : Nat) : Option Saved := s.saved.find? fun v => v.is lid team gid

end Sys2Proof.Machine
end

