-- ==== Sys2Proof/Machine/Sync.lean ====
section
/-! DEFINITION. Result counts, engine tokens, read sections, grace periods and deferred frees (07 R234, R246 to R250), and the waking
of waiters on tokens and grace periods (14 R422). -/

namespace Sys2Proof.Machine

/-- `wcnt`: it issues once at most `n` results of its class are outstanding (07 R234). -/
def execWcnt (pk : Bool) (cl : RCls) (n : Nat) (s : State) := word (.wcnt pk cl n) s fun s => .done s

/-! ## Tokens -/

/-- An observation of a token's status frees a slot whose command ended with status 2 or 3 (09 R287). -/
def State.observe (s : State) (k : Nat) (cur : Bool) : State :=
  let e := s.eng k
  if cur && decide (e.status ≥ 2) then s.setEng k { e with held := false } else s

/-- The status of a token, and its observation where it is not pending: none for a token that is refused (07 R246). -/
def State.readToken (s : State) (a : W64) : Option (State × Nat) :=
  (s.token a).map fun t => (s.observe t.1 t.2, s.tokenStatus t.1 t.2)

/-- What the completion of a token's command gives those that observe it (05 R153). -/
def State.tokenSync (s : State) (a : W64) : List Sync :=
  match s.token a with
  | some (k, _) => ((s.eng k).past.find? fun y => y.1 == bits a.toNat 0 32).toList.map (·.2)
  | none => []

/-- Goes on with the status of a token; a refused token traps (07 R246). -/
def withToken (s : State) (a : W64) (k : State → Nat → Eff) : Eff :=
  match s.readToken a with
  | some (t, n) => k t n
  | none => ils 14 a a 0

/-- `ttest` (07 R247): where it reports completion it is an acquire (05 R153). -/
def execTtest (h : Hdr) (scp : Scope) (d a : Nat) (s : State) :=
  word (.ttest h scp d a) s fun s => groupWide h (fun s =>
    withToken s (s.rs a) fun t n => .done ((if n = 0 then t else t.acquireFrom t.focus scp (s.tokenSync (s.rs a))).ws d (BitVec.ofNat 64 n))) s

/-- `twait` with Y = 0: it issues once the command is no longer pending (07 R247), and is an acquire (05 R153). -/
def execTwait (h : Hdr) (scp : Scope) (d a : Nat) (s : State) :=
  word (.twait h scp d a) s fun s => groupWide h (fun s =>
    withToken s (s.rs a) fun t n => .done ((t.acquireFrom t.focus scp (s.tokenSync (s.rs a))).ws d (BitVec.ofNat 64 n))) s

/-- `twait.y` (07 R247): a scheduler-visible wait while the command is pending. -/
def execTwaitY (h : Hdr) (scp : Scope) (d a : Nat) (off : BitVec 14) (s : State) :=
  word (.twaitY h scp d a off) s fun s => groupWide h (fun s =>
    let target := s.pc + 8 * off.signExtend 64
    withToken s (s.rs a) fun t n =>
      if n = 0 then .stay (s.enterWait 3 (s.rs a) target d 0 none scp)
      else .goto ((t.acquireFrom t.focus scp (s.tokenSync (s.rs a))).ws d (BitVec.ofNat 64 n)) target) s

/-- Completes a `twait.y` of a resident path: the status is written, with an acquire, and it goes on at its target (07 R247, 05 R153). What the
other path has written to that register meanwhile is overwritten (01 R36; log entry 108). -/
def State.tokenComplete (s : State) (gk p : Nat) : State :=
  let g := s.group gk
  match (g.path p).wait with
  | some w =>
    (match s.readToken w.wv1 with
     | some (t, n) =>
       if n = 0 then s
       else
         let u := t.acquireFrom gk w.scp (s.tokenSync w.wv1)
         let g1 := (u.group gk).ws p w.d (BitVec.ofNat 64 n)
         u.setGroup gk (g1.setPath p ((g1.path p).wake w.wv2))
     | none => s)
  | none => s

/-- The resident paths that wait with a wait kind. -/
def State.waitersOf (s : State) (wk : Nat) : List (Nat × Nat × Wait) :=
  s.waiters.filterMap fun x => match ((s.group x.1).path x.2).wait with
    | some w => if w.wk = wk then some (x.1, x.2, w) else none
    | none => none

/-- Wakes every resident `twait.y` whose token has left Pending (14 R422). -/
def State.wakeTokens (s : State) : State := (s.waitersOf 3).foldl (fun a x => a.tokenComplete x.1 x.2.1) s

/-! ## Read sections and grace periods -/

/-- `rsb` (07 R248): the section takes its core's current colour (14 R424) and begins with an acquire (05 R158). -/
def execRsb (pk : Bool) (s : State) :=
  word (.rsb pk) s fun s =>
    if s.grp.rsd = 15 then ils 7
    else if s.grp.rsd > 0 then .done (s.setGrp { s.grp with rsd := s.grp.rsd + 1 })
    else
      let s := s.acquireAll s.focus
      let g := s.grp
      let col := (s.core g.core).colour
      let s1 := s.setGrp { g with rsd := 1, col := col, wdt := 0, sec := s.nextSec }
      .done ({ s1 with nextSec := s1.nextSec + 1 }.setPart g.part ((s1.part g.part).incOc g.core col))

/-- The streams of a group with rounds not yet delivered, their reads placed at their `sstr` (09 R310): what is fetched ahead may be fetched again (09
R311), so its value is not fixed. -/
def Group.liveStreams (g : Group) : List Nat :=
  (List.range 4).filter fun k => let x := tget Stream.init g.streams k; x.cfg && decide (x.rnd < x.nRounds g.w)

/-- `rse` (07 R248): the section is counted ended once the group's earlier accesses are performed, those of its streams too (05 R157). -/
def execRse (pk : Bool) (s : State) :=
  word (.rse pk) s fun s =>
    let g := s.grp
    if g.rsd = 0 then ils 8
    else if g.rsd > 1 then .done (s.setGrp { g with rsd := g.rsd - 1 })
    else
      .done ((s.setGrp { g with rsd := 0, col := false, wdt := 0,
                                ends := g.ends ++ [⟨g.sbuf.length, g.liveStreams, g.col, g.sec⟩] }).countEnds s.focus)

/-- `gsync` (07 R249): a release, a request and a wait for its target. -/
def execGsync (pk : Bool) (d : Nat) (s : State) :=
  word (.gsync pk d) s fun s =>
    let g := s.grp
    if g.rsd > 0 then ils 9
    else
      let s1 := s.performAll s.focus
      let p := s1.part g.part
      .stay ((s1.setPart g.part p.request).enterWait 4 (BitVec.ofNat 64 p.target) 0 d 0 none)

/-- Completes a `gsync` of a resident path: GSQ at resumption goes to sD (07 R249), over what the other path has written there meanwhile (01 R36; log
entry 108), with an acquire (05 R159). -/
def State.gsyncComplete (s : State) (gk p : Nat) : State :=
  let g := s.group gk
  match (g.path p).wait with
  | some w =>
    let g1 := g.ws p w.d (BitVec.ofNat 64 (s.part g.part).gsq)
    (s.setGroup gk (g1.setPath p ((g1.path p).wake ((g1.path p).pc + 8)))).acquireAll gk
  | none => s

/-- Wakes every resident `gsync` of a partition whose target GSQ has reached (14 R422). -/
def State.wakeGsync (s : State) (part : Nat) : State :=
  (s.waitersOf 4).foldl (fun a x =>
    if (a.group x.1).part = part && decide (x.2.2.wv1.toNat ≤ (a.part part).gsq) then a.gsyncComplete x.1 x.2.1 else a) s

/-- `dfree` (07 R250): the append requests a grace period, which is a release at `.dev` (05 R158). -/
def execDfree (h : Hdr) (a b : Nat) (s : State) :=
  word (.dfree h a b) s fun s => groupWide h (fun s =>
    let x := s.rs a
    let y := s.rs b
    let r := s.dfreeReason x y
    let g := s.grp
    if r ≠ 0 then prot r x
    else if (s.part g.part).dfqFull && decide (g.rsd > 0) then ils 10 x x y
    else .done ((s.performAll s.focus).dfAppend g.part x.toNat (bits y.toNat 16 8) (bits y.toNat 0 16))) s

end Sys2Proof.Machine
end

