-- ==== Sys2Proof/Machine/Queue.lean ====
section
/-! DEFINITION. Tile queues (07 R251 to R254, 14 R431, R432): the ring in memory, the waiting pops in order. -/

namespace Sys2Proof.Machine

/-- A queue that a word of the issuing group names: its capacity and ring, where it is assigned to the group's partition (07 R251). -/
def State.ownQueue (s : State) (q : W64) : Option (Nat × Nat) :=
  if q.toNat ≥ 4096 then none
  else match s.tqRecord q.toNat with
    | some (part, cap, ring) => if part = s.grp.part then some (cap, ring) else none
    | none => none

/-- Goes on with a queue of the group's partition; another traps (07 R251). -/
def withQueue (s : State) (q : W64) (k : State → Nat → Nat → Nat → Eff) : Eff :=
  match s.ownQueue q with
  | some (cap, ring) => k s q.toNat cap ring
  | none => prot 5 q

/-- A queue's counters. -/
def State.tq (s : State) (q : Nat) : TQueue := tget TQueue.init s.tqs q

/-- Replaces a queue's counters. -/
def State.setTq (s : State) (q : Nat) (x : TQueue) : State := { s with tqs := tput s.tqs q x }

/-- Writes the results of a waiting pop and readies its path, in its slot or in its frame (14 R422); it acquires `y`, what pushed its entry or
closed the queue (05 R154). What the other path has written there meanwhile is overwritten (01 R36; log entry 108). -/
def State.popComplete (s : State) (w : TqWait) (e0 e1 st : W64) (y : List Sync) : State :=
  let out (x : Wait) : List (Nat × W64) := [(x.d, e0), (x.d + 1, e1), (x.c, st)]
  match s.findGroup w.lid w.team w.gid with
  | some gk =>
    let g := s.group gk
    (match (g.path w.path).wait with
     | some x =>
       let g1 := (out x).foldl (fun g r => g.ws w.path r.1 r.2) g
       (s.setGroup gk (g1.setPath w.path ((g1.path w.path).wake ((g1.path w.path).pc + 8)))).acquireFrom gk x.scp y
     | none => s)
  | none =>
    match s.findSaved w.lid w.team w.gid with
    | some v => (match (v.grp.path w.path).wait with | some x => s.savedWake v w.path (out x) | none => s)
    | none => s

/-- `tqpush` (07 R252): an entry goes at once to the pop that has waited longest. -/
def execTqpush (h : Hdr) (scp : Scope) (d a b c : Nat) (s : State) :=
  word (.tqpush h scp d a b c) s fun s =>
    mceAfter (.tqpush h scp d a b c) (scp = .sys && s.em h ≠ 0#64) <| groupWide h (fun s =>
      withQueue s (s.rs a) fun s q cap ring =>
        let x := s.tq q
        let e0 := s.rs b
        let e1 := s.rs c
        if x.closed then .done (s.ws d 2)
        else
          match x.waits with
          | w :: ws =>
            let s1 := s.performAll s.focus
            .done (((s1.setTq q { x with waits := ws }).popComplete w e0 e1 1 [s1.syncOf s1.focus scp]).ws d 1)
          | [] =>
            if x.tail - x.head ≥ cap then .done (s.ws d 0)
            else
              let at_ := ring + 16 * (x.tail % cap)
              let s1 := ((s.performAll s.focus).wnum at_ 8 e0.toNat).wnum (at_ + 8) 8 e1.toNat
              .done ((s1.setTq q { x with tail := x.tail + 1, pushes := x.pushes ++ [s1.syncOf s1.focus scp] }).ws d 1)) s

/-- `tqpop` (07 R253): three results of class ld, or a scheduler-visible wait. -/
def execTqpop (h : Hdr) (scp : Scope) (d a c : Nat) (s : State) :=
  word (.tqpop h scp d a c) s fun s => groupWide h (fun s =>
    withQueue s (s.rs a) fun s q cap ring =>
      let x := s.tq q
      let give (s : State) (y : List Sync) (e0 e1 st : W64) : Eff :=
        .done ((s.acquireFrom s.focus scp y).addPends .ld [.s d e0, .s (d + 1) e1, .s c st] (encode (.tqpop h scp d a c)))
      if x.head < x.tail then
        let at_ := ring + 16 * (x.head % cap)
        give (s.setTq q { x with head := x.head + 1, pushes := x.pushes.drop 1 }) (x.pushes.take 1) (BitVec.ofNat 64 (s.rnum at_ 8))
          (BitVec.ofNat 64 (s.rnum (at_ + 8) 8)) 1
      else if x.closed then give s x.closing.toList 0 0 0
      else
        let g := s.grp
        .stay ((s.setTq q { x with waits := x.waits ++ [⟨g.lid, g.team, g.gid, s.fpath⟩] }).enterWait 5 (s.rs a) 0 d c none scp)) s

/-- `tqclose` (07 R254): a release; every waiting pop is served with status 0. -/
def execTqclose (h : Hdr) (scp : Scope) (a : Nat) (s : State) :=
  word (.tqclose h scp a) s fun s =>
    mceAfter (.tqclose h scp a) (scp = .sys && s.em h ≠ 0#64) <| groupWide h (fun s =>
      withQueue s (s.rs a) fun s q _ _ =>
        let x := s.tq q
        let s1 := s.performAll s.focus
        let y := s1.syncOf s1.focus scp
        .done (x.waits.foldl (fun t w => t.popComplete w 0 0 0 [y])
          (s1.setTq q { x with closed := true, waits := [], closing := if x.closed then x.closing else some y }))) s

/-- `tqclose … open` (07 R254). -/
def execTqcloseOpen (h : Hdr) (scp : Scope) (a : Nat) (s : State) :=
  word (.tqcloseOpen h scp a) s fun s =>
    mceAfter (.tqcloseOpen h scp a) (scp = .sys && s.em h ≠ 0#64) <| groupWide h (fun s =>
      withQueue s (s.rs a) fun s q _ _ => .done ((s.performAll s.focus).setTq q { s.tq q with closed := false, closing := none })) s

end Sys2Proof.Machine
end

