-- ==== Sys2Proof/Machine/Matrix.lean ====
section
/-! DEFINITION. Split-operand matrix instructions, class 6 (08 R255 to R281). A tile word reads its register and memory operands at issue and hands
its step to the tile unit; the results it counts stay outstanding until TILE_WORD_PERFORM. -/

namespace Sys2Proof.Machine

/-! ## Operands -/

/-- The registers of a block's A operand in a lane. -/
def State.aRegs (s : State) (ta : Ty) (c a l : Nat) : List W32 := (List.range (c * aRegsPerBlock ta)).map fun i => s.rv (a + i) l

/-- Goes on with what the group reads in ranges (08 R261); a read that gets no answer is the trap MCE (16 R476). -/
def withAnswer (s : State) (ls : List (List Loc)) (k : State → List (List Byte) → Eff) : Eff :=
  match s.noAnswer s.focus ls.flatten with
  | some a => .trap { cause := 9, reason := 0, addr := BitVec.ofNat 64 a, adv := true }
  | none => let r := s.readRanges s.focus ls; k r.1 r.2

/-- Goes on with `n` lines from an address, read as the group's own reads (08 R261). -/
def withLines (s : State) (glob : Bool) (a : W64) (n : Nat) (k : State → List Line → Eff) : Eff :=
  withAccess (s.check s.focus glob false .read
      ((List.range n).map fun i => ⟨0, (a + BitVec.ofNat 64 (128 * i)).toNat, 128⟩)) fun s l => withAnswer s (l.map fun x => x.2) k

/-- Goes on with the blocks of a run (08 R260): each with its address; a block whose line 0 tells no length ends the run. -/
def fetchRun (glob : Bool) : Nat → W64 → State → List (W64 × List Line) → (State → List (W64 × List Line) → Eff) → Eff
  | 0, _, s, acc, k => k s acc.reverse
  | n + 1, a, s, acc, k =>
    withLines s glob a 1 fun s l0 =>
      let h := lineHdr (l0.getD 0 [])
      if lineZeroOk (l0.getD 0 []) then
        let nl := blockLines h.bf h.cap
        withLines s glob (a + 128) (nl - 1) fun s rest =>
          fetchRun glob n (a + BitVec.ofNat 64 (128 * nl)) s ((a, l0 ++ rest) :: acc) k
      else k s ((a, l0) :: acc).reverse

/-- The reason of an address that is not valid (04 R112, R114), none where it is. -/
def State.invalid (s : State) (glob : Bool) (x : Acc) : Option Nat :=
  if glob then (if x.addr + x.n > 2 ^ 57 then some 1 else none)
  else match s.gsaccess s.focus x.addr x.n with
    | .error (.fail _ (.prot r)) => some r
    | _ => none

/-- Checks accesses whose common address has an alignment of its own (08 R267, R271): of a misaligned one validity comes first; the accesses of
an aligned one are judged in address order (08 R261). -/
def withAligned (s : State) (glob mis : Bool) (a : W64) (k : AKind) (l : List Acc) (body : State → List (Acc × List Loc) → Eff) :
    Eff :=
  if mis then
    match l.findSome? fun x => (s.invalid glob x).map fun r => (x, r) with
    | some (x, r) => prot r (BitVec.ofNat 64 x.addr) k.wr x.lane
    | none => prot 3 a k.wr
  else withAccess (s.check s.focus glob false k l) body

/-- The lines of an operand in consecutive bytes, from its first byte (08 R261). -/
def lineAccs (a n : Nat) : List Acc :=
  (List.range ((a + n + 127) / 128 - a / 128)).map fun i =>
    let lo := max a ((a / 128 + i) * 128)
    ⟨0, lo, min (a + n) ((a / 128 + i + 1) * 128) - lo⟩

/-- The first bad line of a run: block, line, reason (08 R262, R277). -/
def firstBad (accepts : Nat → Bool) (bs : List (W64 × List Line)) : Option (Nat × Nat × Nat) :=
  (List.range bs.length).findSome? fun j =>
    let ls := (bs.getD j (0, [])).2
    match judgeBlock .free ls with
    | some (l, t) => some (j, l, t)
    | none => if accepts (lineHdr (ls.getD 0 [])).bf then none else some (j, 0, 11)

/-- The information words of ILF (08 R278). -/
def ilfInfo (a : W64) (line why tile block : Nat) (isDec : Bool) : W64 × W64 :=
  (a + BitVec.ofNat 64 (128 * line), BitVec.ofNat 64 (why + tile * 2 ^ 8 + b2n isDec * 2 ^ 12 + block * 2 ^ 16))

/-- A tile word's step (08 R263): at once, or behind a `qmm` of the group that waits for its quad. -/
def State.tileStep (s : State) (i : Instr) (op : TOp) : State :=
  let g := s.grp
  if g.tileBusy then
    (s.setGrp { g with tileq := g.tileq ++ [⟨s.fresh, op⟩] }).addPends .tile
      ((g.tileResults op).map fun r => .q s.fresh r.reg.1 r.reg.2) (encode i)
  else (s.setGrp (g.tileWrite op)).addPends .tile (g.tileResults op) (encode i)

/-- A split product word (08 R277). -/
def product (i : Instr) (h : Hdr) (ta : Ty) (glob : Bool) (c d a b : Nat) (accepts : Nat → Bool) (body : Bool) (s : State) :
    Host.Outcome State Fault Refusal :=
  word i s fun s => groupWide h (fun s =>
    let em := s.em h
    let fm := s.grp.fm
    let regs := (lanesOf em).map fun l => (l, s.aRegs ta c a l)
    fetchRun glob c (s.rs b &&& ~~~127#64) s [] fun s bs =>
      match firstBad accepts bs with
      | some (j, l, why) =>
        let info := ilfInfo (bs.getD j (0, [])).1 l why d j false
        if !fmIlt fm then .done (s.tileStep i (.bad d why))
        else if s.grp.tileBusy then .wait
        else .user (s.tileStep i (.bad d why)) 2 info.1 info.2 false
      | none =>
        .done (s.tileStep i (.merge d em ta body (bs.any fun x => (lineHdr (x.2.getD 0 [])).hs ≠ fmAht fm) regs (bs.map (·.2))))) s

/-- `smm` (08 R277, R262). -/
def execSmm (h : Hdr) (ta : Ty) (g : Bool) (c d a b : Nat) (s : State) :=
  product (.smm h ta g c d a b) h ta g c d a b (fun bf => decide (1 ≤ bf) && decide (bf ≤ 3)) true s
/-- `smms` (08 R277, R262). -/
def execSmms (h : Hdr) (ta : Ty) (g : Bool) (c d a b : Nat) (s : State) :=
  product (.smms h ta g c d a b) h ta g c d a b (fun bf => decide (4 ≤ bf) && decide (bf ≤ 6)) true s
/-- `pmm` (08 R277, R262). -/
def execPmm (h : Hdr) (ta : Ty) (g : Bool) (c d a b : Nat) (s : State) :=
  product (.pmm h ta g c d a b) h ta g c d a b (fun bf => bf == 0) false s

/-! ## Dense products (08 R279 to R281) -/

/-- `dmm` (08 R279). -/
def execDmm (h : Hdr) (tb ta : Ty) (st g : Bool) (c d a b : Nat) (s : State) :=
  word (.dmm h tb ta st g c d a b) s fun s => groupWide h (fun s =>
    let em := s.em h
    let regs := (lanesOf em).map fun l => (l, s.aRegs ta c a l)
    withLines s g (s.rs b &&& ~~~127#64) (2 * bSize tb * c) fun s ls =>
      .done (s.tileStep (.dmm h tb ta st g c d a b) (.dense d em tb ta st c regs ls.flatten))) s

/-- The quarter of a member: element e in lane e mod W of v(B + e / W) (08 R280). -/
def State.quarter (s : State) (b : Nat) : List W32 := (List.range 64).map fun e => s.rv (b + e / s.grp.w) (e % s.grp.w)

/-- Element (k, n) of the B block that four quarters form (08 R280). -/
def quadB (tb : Ty) (qs : List QArr) (k n : Nat) : FV :=
  match qs.find? fun x => x.g % 4 = k / 4 with
  | some x => bVal tb ((x.quarter.getD (16 * (k % 4) + n) 0).toNat % 2 ^ (8 * bSize tb))
  | none => .fin false 0 0

/-- The first arrivals of the four members of a quad, where each has one that waits (08 R280, R281). -/
def rendezvous (l : List QArr) (quad : Nat) : Option (List QArr) :=
  (List.range 4).mapM fun q => (l.find? fun x => x.g = 4 * quad + q).filter fun x => !x.void

/-- A member's arrival takes the place of the word that it reissues, or comes last (08 R280, R281). -/
def arrive (l : List QArr) (x : QArr) : List QArr :=
  if l.any fun y => y.void && y.gk == x.gk && y.path == x.path then
    l.map fun y => if y.void && y.gk == x.gk && y.path == x.path then x else y
  else l ++ [x]

/-- A member of a complete rendezvous updates its tile and goes on (08 R280), and the tile words behind it are performed (08 R263). -/
def State.quadUpdate (s : State) (qs : List QArr) (x : QArr) : State :=
  let g := s.group x.gk
  let f (l n : Nat) (v : W32) : Fl :=
    denseElem x.tb x.ta x.st 1 (((x.aregs.find? fun e => e.1 = l).map (·.2)).getD []) (fun _ k => quadB x.tb qs k n) v
  let g1 := g.writeProduct x.d x.em false f
  let q := g1.path x.path
  let q1 := { q with st := .ready, wait := none, pc := q.pc + 8, pend := q.pend ++ [⟨.tile, .t x.d, q.pc, x.word, [], 0⟩], park := x.pk }
  s.setGroup x.gk (({ g1 with qrc := (g1.qrc + 1) % 2 ^ 32 }).setPath x.path q1).drainTiles

/-- A member of a mismatched rendezvous stops at its `qmm` with the illegal-state trap (08 R281). -/
def State.quadTrap (s : State) (x : QArr) : State :=
  let g := s.group x.gk
  let s1 := s.setGroup x.gk (g.setPath x.path { g.path x.path with st := .ready, wait := none }).drainTiles
  s1.sysTrap x.gk x.path x.word { cause := 4, reason := 6 }

/-- `qmm` (08 R280, R281): the member's arrival at its rendezvous, whatever its effective mask. -/
def execQmm (h : Hdr) (tb ta : Ty) (st : Bool) (tag d a b : Nat) (s : State) :=
  word (.qmm h tb ta st tag d a b) s fun s =>
    let g := s.grp
    let t := s.team g.team
    if g.gid / 4 * 4 + 3 ≥ t.tg then ils 5
    else
      let em := s.em h
      let x : QArr := { g := g.gid, gk := s.focus, path := s.fpath, tag := tag, tb := tb, ta := ta, st := st, d := d, em := em, pk := h.pk,
                        quarter := s.quarter b, aregs := (lanesOf em).map fun l => (l, s.aRegs ta 1 a l),
                        word := BitVec.ofNat 64 (encode (.qmm h tb ta st tag d a b)), void := false }
      let all := arrive t.quads x
      let s1 := (s.setTeam g.team { t with quads := all }).enterWait 6 (BitVec.ofNat 64 tag) 0 0 0 none
      match rendezvous all (g.gid / 4) with
      | none => .stay s1
      | some qs =>
        if qs.all fun y => y.tag == tag && y.tb == tb && y.st == st then
          .placed (qs.foldl (fun a y => a.quadUpdate qs y) (s1.setTeam g.team { t with quads := all.filter fun y => !qs.contains y }))
        else if qs.any fun y => (s.group y.gk).sweeps then .wait
        else
          .placed (qs.foldl State.quadTrap
            (s1.setTeam g.team { t with quads := all.map fun y => if qs.contains y then { y with void := true } else y }))

/-! ## Tile words (08 R266 to R270) -/

/-- `sfmt` (08 R256). -/
def execSfmt (h : Hdr) (a : Nat) (s : State) :=
  word (.sfmt h a) s fun s => groupWide h (fun s =>
    if fmOk (s.rs a) then .done (s.setGrp { s.grp with fm := s.rs a }) else ili 12) s
/-- `sfmt` with the old mode: a result of class tile (08 R256). -/
def execSfmtSwap (h : Hdr) (d a : Nat) (s : State) :=
  word (.sfmtSwap h d a) s fun s => groupWide h (fun s =>
    if fmOk (s.rs a) then
      let old := s.grp.fm
      .done ((s.setGrp { s.grp with fm := s.rs a }).addPend .tile (.s d old) (BitVec.ofNat 64 (encode (.sfmtSwap h d a))) [])
    else ili 12) s
/-- `tzero` (08 R266). -/
def execTzero (h : Hdr) (d : Nat) (s : State) :=
  word (.tzero h d) s fun s => groupWide h (fun s =>
    .done (s.tileStep (.tzero h d) (.zero d))) s

/-- The rows that a tile move covers (08 R267). -/
def moveRows (full : Bool) (em : Mask) : List Nat := if full then List.range 64 else lanesOf em

/-- The accesses of a tile move: a row of 64 bytes each (08 R267). -/
def rowAccs (a : W64) (rows : List Nat) : List Acc := rows.map fun r => ⟨0, (a + BitVec.ofNat 64 (64 * r)).toNat, 64⟩

/-- `tld` (08 R267). -/
def execTld (h : Hdr) (full g : Bool) (d a : Nat) (s : State) :=
  word (.tld h full g d a) s fun s => groupWide h (fun s =>
    let x := s.rs a
    let rows := moveRows full (s.em h)
    withAligned s g (x.toNat % 128 ≠ 0) x .read (rowAccs x rows) fun s l => withAnswer s (l.map fun x => x.2) fun s bs =>
      let vals := (rows.zip bs).flatMap fun r => (List.range 16).map fun n => (r.1, n, BitVec.ofNat 32 (leNat ((r.2.drop (4 * n)).take 4)))
      .done (s.tileStep (.tld h full g d a) (.load d full vals))) s
/-- `tst` (08 R267). -/
def execTst (h : Hdr) (i32 full g : Bool) (d a : Nat) (s : State) :=
  word (.tst h i32 full g d a) s fun s => groupWide h (fun s =>
    let x := s.rs a
    let rows := moveRows full (s.em h)
    withAligned s g (x.toNat % 128 ≠ 0) x .write (rowAccs x rows) fun s l =>
      .done (s.tileStep (.tst h i32 full g d a) (.store i32 d (s.em h) (rows.zip (l.map fun x => x.2))))) s
/-- `tmov` to vector registers: 16 results of class tile (08 R268). -/
def execTmov (h : Hdr) (i32 : Bool) (d a : Nat) (s : State) :=
  word (.tmov h i32 d a) s fun s => groupWide h (fun s => .done (s.tileStep (.tmov h i32 d a) (.read i32 d a (s.em h)))) s
/-- `tmov` to a tile (08 R268). -/
def execTmovToTile (h : Hdr) (d a : Nat) (s : State) :=
  word (.tmovToTile h d a) s fun s => groupWide h (fun s =>
    .done (s.tileStep (.tmovToTile h d a) (.load d false
      ((lanesOf (s.em h)).flatMap fun l => (List.range 16).map fun n => (l, n, s.rv (a + n) l))))) s
/-- `tscl` (08 R269). -/
def execTscl (h : Hdr) (d a : Nat) (s : State) :=
  word (.tscl h d a) s fun s => groupWide h (fun s =>
    .done (s.tileStep (.tscl h d a) (.scale d ((lanesOf (s.em h)).map fun l => (l, s.rv a l))))) s
/-- `tstat` (08 R270). -/
def execTstat (h : Hdr) (clr : Bool) (d a : Nat) (s : State) :=
  word (.tstat h clr d a) s fun s => groupWide h (fun s => .done (s.tileStep (.tstat h clr d a) (.stat clr d a))) s

/-! ## Encoding and decoding blocks (08 R271 to R276) -/

/-- The source of `enc` as FP32 values, column by column (08 R271). -/
def encSource (bf : Bool) (k0 : Nat) (bytes : List Byte) : List (List Fl) :=
  let z := if bf then 2 else 4
  (List.range 16).map fun n => (List.range k0).map fun k =>
    let v := leNat ((bytes.drop (z * (k0 * n + k))).take z)
    (BitVec.ofNat 32 (if bf then v * 2 ^ 16 else v), 0#6)

/-- The columns after the transform (08 R271). -/
def encTransform (ehs : Nat) (cols : List (List Fl)) : List (List Fl) :=
  match ehs with
  | 1 => cols.map (hadamard 4 2)
  | 2 => cols.map (hadamard 5 3)
  | _ => cols

/-- Block `b` of the transformed columns: index 16k + n. -/
def encElems (cols : List (List Fl)) (b : Nat) : Elems :=
  (List.range 256).map fun c => (((cols.getD (c % 16) []).getD (16 * b + c / 16) (flc 0))).1

/-- `enc` (08 R271 to R275). -/
def execEnc (h : Hdr) (bf g : Bool) (d a : Nat) (s : State) :=
  word (.enc h bf g d a) s fun s => groupWide h (fun s =>
    let fm := s.grp.fm
    let src := s.rs a
    let dst := s.rs d &&& ~~~127#64
    let k0 := if fmEhs fm = 2 then 32 else 16
    let nb := k0 / 16
    let nl := nb * blockLines (fmEbf fm) (fmEcap fm)
    withAligned s false (src.toNat % 64 ≠ 0) src .read (lineAccs src.toNat ((if bf then 2 else 4) * 16 * k0)) fun s l =>
      let (s, bytes) := s.readWide s.focus (l.flatMap fun x => x.2)
      withAccess (s.check s.focus g false .write
          ((List.range nl).map fun i => ⟨0, (dst + BitVec.ofNat 64 (128 * i)).toNat, 128⟩)) fun s dl =>
        let cols := encTransform (fmEhs fm) (encSource bf k0 bytes)
        let blocks := (List.range nb).map (encElems cols)
        match (List.range nb).find? fun b => !(overs fm (blocks.getD b [])).isEmpty with
        | some b =>
          let info := ovfInfo fm src b (blocks.getD b [])
          .user s 1 info.1 info.2 true
        | none =>
          let out := (blocks.flatMap (encodeBlock fm)).flatten
          .done (s.pushWords (s.em h) ((dl.flatMap fun x => x.2).zip out))) s

/-- The code of a decoded element (08 R276). -/
def decElem (bf : Bool) (ls : List Line) (k n : Nat) : Nat :=
  let t := if bf then bf16 else fp32
  let o := match (outliers ls).find? fun o => o.1 = 16 * k + n with
    | some o => o.2
    | none => .fin false 0 0
  (t.roundR .rne false ((bodyValue (lineHdr (ls.getD 0 [])).bf ls k n).add .rne o)).1

/-- `dec` (08 R276): an ill-formed block is written as NaN, and raises ILF with ILT. The block's lines are checked and read before the
destination is checked (log entry 77). -/
def execDec (h : Hdr) (bf g : Bool) (d a : Nat) (s : State) :=
  word (.dec h bf g d a) s fun s => groupWide h (fun s =>
    let fm := s.grp.fm
    let dst := s.rs d
    let z := if bf then 2 else 4
    fetchRun g 1 (s.rs a &&& ~~~127#64) s [] fun s bs =>
      withAligned s false (dst.toNat % 64 ≠ 0) dst .write (lineAccs dst.toNat (256 * z)) fun s dl =>
        let x := bs.getD 0 (0, [])
        let bad := judgeBlock .free x.2
        let code (i : Nat) : Nat :=
          if bad.isSome then (if bf then 0x7fc0 else 0x7fc00000) else decElem bf x.2 (i % 16) (i / 16)
        let s1 := s.pushWords (s.em h) ((dl.flatMap fun x => x.2).zip ((List.range 256).flatMap fun i => leBytes z (code i)))
        match bad with
        | some (l, t) =>
          let info := ilfInfo x.1 l t 0 0 true
          if fmIlt fm then .user s1 2 info.1 info.2 false else .done s1
        | none => .done s1) s

end Sys2Proof.Machine
end

