-- ==== Sys2Proof/Machine/Attention.lean ====
section
/-! DEFINITION. The attention words of class 6 that act at once: the frequency table, `rot`, `btinv`, `smax` and `cred` (10 R318 to R321,
R338 to R341). -/

namespace Sys2Proof.Machine

/-- Entry i of a frequency table (10 R320). -/
def fqAt (fq : Tab W32) (i : Nat) : W32 := tget 0#32 fq i

/-- `rset` (10 R320). -/
def execRset (h : Hdr) (a : Nat) (s : State) :=
  word (.rset h a) s fun s => groupWide h (fun s =>
    let x := s.rs a
    withAligned s false (x.toNat % 128 ≠ 0) x .read [⟨0, x.toNat, 512⟩] fun s l =>
      let (s, bytes) := s.readWide s.focus (l.flatMap fun e => e.2)
      let fq := (List.range 128).foldl
        (fun t i => tset 0#32 t i (BitVec.ofNat 32 (leNat ((bytes.drop (4 * i)).take 4)))) ([] : Tab W32)
      .done (s.setGrp { s.grp with fq := fq })) s

/-- The phase of a position and a frequency (03 R109). -/
def phase (p f : W32) : Nat := p.toNat * f.toNat % 2 ^ 32

/-- `rot` (10 R321): 2n results of class tile. -/
def execRot (h : Hdr) (d a b n : Nat) (s : State) :=
  word (.rot h d a b n) s fun s =>
    let ls := lanesOf (s.em h)
    let pair (i l : Nat) : Fl × Fl :=
      rotatePair (rotary (phase (s.rv b l) (fqAt s.grp.fq i))) (s.rv (a + 2 * i) l, 0#6) (s.rv (a + 2 * i + 1) l, 0#6)
    .done ((List.range n).foldl (fun t i =>
      let ys := ls.map fun l => (l, pair i l)
      (t.addPendV .tile (d + 2 * i) (ys.map fun y => (y.1, y.2.1.1)) (encode (.rot h d a b n))).addPendV .tile (d + 2 * i + 1)
        (ys.map fun y => (y.1, y.2.2.1)) (encode (.rot h d a b n))) s)

/-- The cores whose block-table caches `btinv` covers (10 R338). -/
def State.btCores (s : State) (scp : Scope) : List Nat :=
  match scp with
  | .dev | .sys => (s.cores.filter fun e => (s.part s.grp.part).dies.testBit (dieOf e.1)).map fun e => e.1
  | _ => s.rinvCores scp

/-- `btinv` (10 R338). -/
def execBtinv (h : Hdr) (scp : Scope) (a : Nat) (s : State) :=
  word (.btinv h scp a) s fun s => groupWide h (fun s =>
    let x := s.rs a
    if x.toNat ≥ 2 ^ 57 then prot 1 x
    else if x.toNat % 64 ≠ 0 then prot 3 x
    else
      let keep (e : BtEnt) : Bool := x ≠ 0#64 && !(e.asid == s.grp.asid && e.desc == x.toNat)
      .done ((s.btCores scp).foldl (fun t c => t.setCore c { t.core c with btc := (t.core c).btc.filter keep }) s)) s

/-! ## Soft-max and merge -/

/-- `smax` (10 R339). -/
def execSmaxSoftmax (h : Hdr) (d a : Nat) (s : State) :=
  word (.smaxSoftmax h d a) s fun s => groupWide h (fun s =>
    .done (s.tileStep (.smaxSoftmax h d a) (.smax d a ((lanesOf (s.em h)).map fun l =>
      (l, s.rv a l, s.rv (a + 1) l, bits (s.rv (a + 3) l).toNat 0 16))))) s

/-- The running merge of a row (10 R341): maximum, sum, outputs. -/
structure Merge where
  m : Fl
  s : Fl
  o : List Fl
  deriving DecidableEq, Repr

/-- Merges one member's row (10 R341): its maximum, sum and outputs. -/
def Merge.add (x : Merge) (mr lr : W32) (o : Nat → W32) : Merge :=
  if mr = flNegInf.1 then x
  else
    let mn := flMax x.m (mr, 0#6)
    let a := flE (flSub x.m mn)
    let b := flE (flSub (mr, 0#6) mn)
    { m := mn, s := flFma (lr, 0#6) b (flMul x.s a),
      o := (List.range 16).map fun n => flFma (o n, 0#6) b (flMul (x.o.getD n (flc 0)) a) }

/-- The end of a merge (10 R341): the outputs, the log-sum and the status word, with the flags of every step. -/
def Merge.done (x : Merge) : List Fl × Fl × W32 :=
  if x.m.1 = flNegInf.1 || x.s.1 = 0#32 then
    (x.o.map fun v => (0#32, v.2), (flNegInf.1, x.m.2 ||| x.s.2), 1#32)
  else
    let r := frcp32 x.s.1
    let q : Fl := (r.1, x.s.2 ||| r.2)
    let o := x.o.map fun v => flMul v q
    let g := flg232 x.s.1
    let lse := flFma (g.1, x.s.2 ||| g.2) (flc 0x3f317218) x.m
    let nan := (dec32 x.m.1).isNan || (dec32 x.s.1).isNan || (dec32 lse.1).isNan || o.any fun v => (dec32 v.1).isNan
    (o, lse, if nan then 2#32 else 0#32)

/-- One row of `cred` from the records of the members, as their bytes (10 R340, R341). -/
def credRow (recs : List (List Byte)) (l : Nat) : List Fl × Fl × W32 :=
  let f (r : List Byte) (i : Nat) : W32 := BitVec.ofNat 32 (leNat ((r.drop i).take 4))
  (recs.foldl (fun (x : Merge) r => x.add (f r (4096 + 4 * l)) (f r (4352 + 4 * l)) fun n => f r (64 * l + 4 * n))
    ⟨flNegInf, flc 0, List.replicate 16 (flc 0)⟩).done

/-- `cred` (10 R341). -/
def execCred (h : Hdr) (m d a b : Nat) (s : State) :=
  word (.cred h m d a b) s fun s => groupWide h (fun s =>
    let x := s.rs b
    let ranks := (List.range 12).filter fun r => m.testBit r
    let at_ (r : Nat) : Acc := ⟨0, x.toNat + 2 ^ 22 + r * 2 ^ 23, 4608⟩
    if x.toNat ≥ 2 ^ 22 then prot 2 x
    else
      withAligned s false (x.toNat % 128 ≠ 0) x .read (ranks.map at_) fun s l =>
        let (s, recs) := s.readRanges s.focus (l.map fun e => e.2)
        let rows := (lanesOf (s.em h)).map fun l => (l, credRow recs l)
        .done (s.tileStep (.cred h m d a b) (.cred d a (rows.map fun r => (r.1, r.2.1.map (·.1), r.2.2.1.1, r.2.2.2))
          (orFlags (rows.flatMap fun r => r.2.2.1.2 :: r.2.1.map (·.2)))))) s

end Sys2Proof.Machine
end

