-- ==== Sys2Proof/Machine/Stream.lean ====
section
/-! DEFINITION. The indirect streams (09 R307 to R311): their words and the engine's fetching ahead. -/

namespace Sys2Proof.Machine

/-- A stream of a group. -/
def Group.stream (g : Group) (k : Nat) : Stream := tget Stream.init g.streams k

/-- Replaces a stream of a group. -/
def Group.setStream (g : Group) (k : Nat) (x : Stream) : Group := { g with streams := tset Stream.init g.streams k x }

/-- Whether a descriptor passes the checks of `sstr` (09 R308). -/
def streamOk (desc : List Byte) : Bool :=
  let v := leNat desc
  let esz := bits v 8 2
  bits v 0 8 == 6 && bits v 14 50 == 0 && bits v 256 256 == 0 && bits v 192 32 ≠ 0 && !(bit v 10 && decide (esz > 1))

/-- The reads of a stream's configuration are all delivered or given up: no section's end waits for them any more (05 R157). -/
def State.streamDone (s : State) (gk k : Nat) : State :=
  let g := s.group gk
  if g.ends.isEmpty then s
  else (s.setGroup gk { g with ends := g.ends.map fun e => { e with strm := e.strm.filter (· ≠ k) } }).countEnds gk

/-- `sstr` (09 R308). The group's earlier writes are performed, so that the stream's reads see them and none after them (09 R310). -/
def execSstr (h : Hdr) (k a : Nat) (s : State) :=
  word (.sstr h k a) s fun s => groupWide h (fun s =>
    let x := s.rs a
    if x.toNat ≥ 2 ^ 22 || x.toNat + 64 > (s.team s.grp.team).spb then prot 2 x
    else if x.toNat % 64 ≠ 0 then prot 3 x
    else
      let desc := s.cmdBlock x.toNat
      if streamOk desc then
        let s1 := s.performAll s.focus
        .done ((s1.setGrp (s1.grp.setStream k { Stream.init with cfg := true, desc := desc })).streamDone s.focus k)
      else ils 16 x) s

/-- The value of an element in a lane (09 R309): low word and high word. -/
def Stream.value (x : Stream) (v : W64) : W32 × W32 :=
  let z := 2 ^ x.fld 8 2
  if z = 8 then (v.setWidth 32, (v >>> 32).setWidth 32) else (BitVec.ofNat 32 (extend 32 z (bit (leNat x.desc) 10) v.toNat), 0)

/-- `spop` (09 R309, R310): `p` is the predicate of the predicate form. A round whose reads wait for a member of the cluster is waited for as that
member is (01 R30, R44). -/
def popWord (i : Instr) (h : Hdr) (d k : Nat) (p : Option Nat) (s : State) : Host.Outcome State Fault Refusal :=
  word i s fun s => groupWide h (fun s =>
    let g := s.grp
    let x := g.stream k
    let wide := x.fld 8 2 == 3
    if !x.cfg then ils 16
    else if wide && decide (d + 1 ≥ g.nv) then ili 11
    else if wide && d % 2 == 1 then ils 16
    else match s.streamStall x with
    | some (wk, r) => .stay (s.enterWait wk (BitVec.ofNat 64 r) 0 0 0 none)
    | none =>
      let r : StreamRound := x.rounds.headD ⟨[], []⟩
      let ls := lanesOf (s.em h)
      match r.faults.find? fun f => ls.contains f.lane with
      | some f => prot 6 f.addr false f.lane
      | none =>
        let val (l : Nat) : W32 × W32 := match tfind? r.vals l with | some v => x.value v | none => (0, 0)
        let inside := ls.filter fun l => decide (x.rnd * g.w + l < x.fld 192 32)
        let s1 := s.setGrp (g.setStream k { x with rnd := x.rnd + 1, rounds := x.rounds.drop 1 })
        let s2 := s1.addPendV .ld d (ls.map fun l => (l, (val l).1)) (encode i)
        let s3 := if wide then s2.addPendV .ld (d + 1) (ls.map fun l => (l, (val l).2)) (encode i) else s2
        let s4 := match p with
          | some n => s3.addPend .ld (.p n (s.em h) (maskOf inside)) (BitVec.ofNat 64 (encode i)) []
          | none => s3
        .done (if x.rnd + 1 ≥ x.nRounds g.w then s4.streamDone s.focus k else s4)) s

/-- `spop` (09 R309). -/
def execSpop (h : Hdr) (d k : Nat) (s : State) := popWord (.spop h d k) h d k none s
/-- `spop` with a predicate (09 R309). -/
def execSpopPred (h : Hdr) (d k p : Nat) (s : State) := popWord (.spopPred h d k p) h d k (some p) s

/-- `sdrop` (09 R311). -/
def execSdrop (h : Hdr) (k : Nat) (s : State) :=
  word (.sdrop h k) s fun s => groupWide h (fun s =>
    .done ((s.setGrp (s.grp.setStream k Stream.init)).streamDone s.focus k)) s

/-- What reading one element of a stream finds: its value, a fault held back, a page that is not there, or a member to wait for. A page declared
unresolvable is a fault of the round that needs it, mapped or not by then (15 R449). -/
inductive ElemRead
  | val (v : W64)
  | fault (addr : W64)
  | page (va why lvl : Nat)
  | stall (rank : Nat)
  deriving DecidableEq, Repr

/-- Reads `z` bytes for a stream (09 R310), `bad` being its pages declared unresolvable. -/
def State.streamRead (s : State) (gk : Nat) (bad : List Nat) (glob : Bool) (a z : Nat) : State × ElemRead :=
  if glob && bad.any fun b => decide (a < b + 65536) && decide (b < a + z) then (s, .fault (BitVec.ofNat 64 a)) else
  match s.access gk glob false .read ⟨0, a, z⟩ with
  | (s1, .ok ls) =>
    if ls.any s1.poisoned then (s1, .fault (BitVec.ofNat 64 a))
    else
      let (s2, bs) := (locWords ls).zipIdx.foldl (fun acc w =>
        let (t, r) := acc.1.readAs gk (fun _ => false) none 0 w.2 w.1
        (t, acc.2 ++ r.bytes)) (s1, [])
      (s2, .val (BitVec.ofNat 64 (leNat bs)))
  | (s1, .error (.fail va (.page why lvl))) => (s1, .page va why lvl)
  | (s1, .error (.fail _ _)) => (s1, .fault (BitVec.ofNat 64 a))
  | (s1, .error (.stall _ r)) => (s1, .stall r)

/-- Reads element `e` of a stream: its index first, unless the stream is direct (09 R307). -/
def State.streamElem (s : State) (gk : Nat) (x : Stream) (e : Nat) : State × ElemRead :=
  let go (s : State) (i : Nat) : State × ElemRead :=
    s.streamRead gk x.bad (x.fld 11 1 == 1) ((x.fld 64 64 + i * x.fld 224 32) % 2 ^ 64) (2 ^ x.fld 8 2)
  if x.fld 12 1 = 1 then go s e
  else
    match s.streamRead gk x.bad (x.fld 13 1 == 1) ((x.fld 128 64 + 4 * e) % 2 ^ 64) 4 with
    | (s1, .val v) => go s1 v.toNat
    | r => r

/-- Fetches the lanes of a round, in order, until one waits for a page or a member (09 R310). -/
def State.streamLanes (s : State) (gk : Nat) (x : Stream) (base : Nat) (r : StreamRound) :
    List Nat → State × Except ElemRead StreamRound
  | [] => (s, .ok r)
  | l :: ls =>
    match s.streamElem gk x (base + l) with
    | (s1, .val v) => s1.streamLanes gk x base { r with vals := r.vals ++ [(l, v)] } ls
    | (s1, .fault a) => s1.streamLanes gk x base { r with faults := r.faults ++ [⟨l, a⟩] } ls
    | (s1, e) => (s1, .error e)

/-- The round a stream would fetch next, where it may run ahead (09 R310): at most 32 rounds, none while a page is awaited. -/
def Stream.nextRound (x : Stream) (w : Nat) : Option Nat :=
  let r := x.rnd + x.rounds.length
  if x.cfg && x.susp.isNone && decide (x.rounds.length < 32) && decide (r < x.nRounds w) then some r else none

/-- The engine fetches the next round of a stream (09 R310). -/
def execStreamFetch (gk k : Nat) (s : State) : Host.Outcome State Fault Refusal :=
  let g := s.group gk
  let x := g.stream k
  match (tfind? s.groups gk).isSome, x.nextRound g.w with
  | true, some r =>
    let lanes := (List.range g.w).filter fun l => decide (r * g.w + l < x.fld 192 32)
    let put (s : State) (y : Stream) : State := s.setGroup gk ((s.group gk).setStream k y)
    (match s.streamLanes gk x (r * g.w) ⟨[], []⟩ lanes with
     | (s1, .ok rd) => .next (put s1 { x with rounds := x.rounds ++ [rd], bad := [], stall := none })
     | (s1, .error (.page va why lvl)) =>
       let (p, fid) := (s1.part g.part).attach g.asid (va, why, lvl) 1 3 (dieOf g.core) (g.core % Config.nSites)
         (.stream g.lid g.team g.gid k)
       .next (put (s1.setPart g.part p) { x with susp := some fid })
     | (s1, .error (.stall r)) => .next (put s1 { x with stall := some r })
     | (s1, .error _) => .next s1)
  | _, _ => .next s

end Sys2Proof.Machine
end

