-- ==== Sys2Proof/Machine/Sweep.lean ====
section
/-! DEFINITION. Paired words (02 R62 to R67) and the sweep forms (06 R202 to R208). A sweep word makes its checks and starts its path's
sweep; SWEEP_ITERATION performs one iteration. -/

namespace Sys2Proof.Machine

/-! ## Paired words -/

/-- What a half writes: nothing, a scalar register, lanes of a vector register with their flags, lanes of a predicate register. -/
inductive HalfRes
  | none
  | s (d : Nat) (v : W64)
  | v (d : Nat) (l : List (Nat × W32 × FFlags))
  | p (d : Nat) (lanes vals : Mask)

/-- The effective mask of a half: its own guard, GN = 0 (02 R65). -/
def State.halfEm (s : State) (h : Half) : Mask := s.em ⟨h.hg, false, false⟩

/-- The constant of `sli` and `vli` halves: sx12(HS × 16 + HI) (02 R63). -/
def halfK12 (h : Half) : BitVec 12 := BitVec.ofNat 12 (h.hs * 16 + h.hi)

/-- The lane operation of a class-1 or class-2 half, on the lane's vD, vS and HI (02 R63); none for other halves. -/
def halfLane (h : Half) : Option (W32 → W32 → W32 × FFlags) :=
  let k : W32 := BitVec.ofNat 32 h.hi
  let two (op : LaneOp) : Option (W32 → W32 → W32 × FFlags) := some fun d s => op d s 0
  let imm (op : LaneOp) : Option (W32 → W32 → W32 × FFlags) := some fun _ s => op s k 0
  match h.op with
  | .vadd => two (lane2 32 eAdd)
  | .vsub => two (lane2 32 eSub)
  | .vand => two (laneW fun a b _ => a &&& b)
  | .vor => two (laneW fun a b _ => a ||| b)
  | .vxor => two (laneW fun a b _ => a ^^^ b)
  | .vmin => two (lane2 32 eMin)
  | .vmax => two (lane2 32 eMax)
  | .vmov => some fun _ s => (s, 0#6)
  | .vshl => imm (lane2 32 eShl)
  | .vshr => imm (lane2 32 eShr)
  | .vsra => imm (lane2 32 eSra)
  | .vli => some fun _ _ => ((halfK12 h).signExtend 32, 0#6)
  | .vaddi => imm (lane2 32 eAdd)
  | .fadd => two (laneF .rne false (fvAdd .rne))
  | .fsub => two (laneF .rne false (fvSub .rne))
  | .fmul => two (laneF .rne false fvMul)
  | .fmin => two (laneMinMax false)
  | .fmax => two (laneMinMax true)
  | .hadd2 => two (laneSub bf16 .rne false (fvAdd .rne))
  | .hmul2 => two (laneSub bf16 .rne false fvMul)
  | _ => none

/-- The value of a class-0 half (02 R63); none for other halves. -/
def State.halfScalar (s : State) (h : Half) : Option W64 :=
  let d := s.rs h.hd
  let b := s.rs h.hs
  match h.op with
  | .sadd => some (d + b)
  | .ssub => some (d - b)
  | .sand => some (d &&& b)
  | .sor => some (d ||| b)
  | .sxor => some (d ^^^ b)
  | .sshl => some (shl64 b (BitVec.ofNat 64 h.hi))
  | .sshr => some (shr64 b (BitVec.ofNat 64 h.hi))
  | .smov => some b
  | .sli => some ((halfK12 h).signExtend 64)
  | .saddi => some (b + BitVec.ofNat 64 h.hi)
  | _ => none

/-- The value of a predicate half (02 R63); none for other halves. -/
def State.halfPred (s : State) (h : Half) : Option Mask :=
  let d := s.rpm h.hd
  let b := s.rpm h.hs
  match h.op with
  | .pand => some (d &&& b)
  | .por => some (d ||| b)
  | .pxor => some (d ^^^ b)
  | .pnot => some (~~~b)
  | .pmov => some b
  | _ => none

/-- What a half that does not access memory writes, from the sources read at issue (02 R65). -/
def State.half (s : State) (h : Half) : HalfRes :=
  match s.halfScalar h, s.halfPred h, halfLane h with
  | some v, _, _ => .s h.hd v
  | none, some v, _ => .p h.hd (s.halfEm h) v
  | none, none, some f => .v h.hd ((lanesOf (s.halfEm h)).map fun l => (l, f (s.rv h.hd l) (s.rv h.hs l)))
  | none, none, none => .none

/-- Writes a half's result. -/
def State.putHalf (s : State) : HalfRes → State
  | .none => s
  | .s d v => s.ws d v
  | .v d l => s.wv d (l.map fun r => (r.1, r.2.1))
  | .p d ls vs => s.wp d ls vs

/-- The flags that a half raises in each lane. -/
def HalfRes.flags : HalfRes → List (Nat × FFlags)
  | .v _ l => l.map fun r => (r.1, r.2.2)
  | _ => []

/-- A memory half (02 R63): `lds.w` or `sts.w`. -/
def halfIsMem (h : Half) : Bool := h.op = .lds || h.op = .sts

/-- The accesses of a memory half (02 R63). -/
def State.halfAccs (s : State) (h : Half) : List Acc :=
  (lanesOf (s.halfEm h)).map fun l =>
    ⟨l, ((s.rv (if h.op = .lds then h.hs else h.hd) l).setWidth 64 + BitVec.ofNat 64 (4 * h.hi)).toNat, 4⟩

/-- A memory half as a class-4 word: relaxed words at per-lane addresses (02 R63). -/
def halfMem : Mem := { wd := .w, sx := false, am := .lane, scp := .ln, ord := .rlx, off := 0 }

/-- A paired word (02 R65, R67): sources first, then the memory half's checks, then every effect. -/
def execPairedWord (pk : Bool) (h0 h1 : Half) (s : State) :=
  word (.pairedWord pk h0 h1) s fun s =>
    let r0 := s.half h0
    let r1 := s.half h1
    let fin (t : State) : Eff := endFlags ((t.putHalf r0).putHalf r1) (r0.flags ++ r1.flags)
    match [h0, h1].find? halfIsMem with
    | none => fin s
    | some h =>
      withAccess (s.check s.focus false false (if h.op = .lds then .read else .write) (s.halfAccs h)) fun t l =>
        if h.op = .lds then
          let r := readLanes (readCurrent halfMem (s.grp.depOf (.v, h.hs))) t l
          fin (r.1.addLoads (.pairedWord pk h0 h1) .lane h.hd 4 false r.2 [])
        else
          fin (t.pushStores (storeAccs false (t.grp.relScopes false .ln) (fun x => 1#64 <<< x.lane) (fun x => leBytes 4 (s.rv h.hs x.lane).toNat) l))

/-! ## Sweeps -/

/-- A signed step of `sc` (06 R202): 0 destination, 1 first source, 2 second source. -/
def scStep (sc : W64) (k : Nat) : Int := sxInt 16 (bits sc.toNat (16 * k) 16)

/-- EW as an element width in bits (06 R202). -/
def scWidth (sc : W64) : Nat :=
  match bits sc.toNat 50 2 with
  | 1 => 16
  | 2 => 8
  | _ => 32

/-- RM of `sc` (06 R202). -/
def scRnd (sc : W64) : Rnd :=
  match bits sc.toNat 52 2 with
  | 1 => .rz
  | 2 => .ru
  | 3 => .rd
  | _ => .rne

/-- ST of `sc` (06 R202). -/
def scSat (sc : W64) : Bool := sc.getLsbD 54

/-- The operation of a class-1 sweep that takes EW; ST is not allowed (06 R204). -/
def sweepE (sc : W64) (op : Nat → LaneOp) : Option (Nat → LaneOp) := if scSat sc then none else some fun _ => op (scWidth sc)

/-- The operation of a class-1 sweep of words only; ST is not allowed (06 R204). -/
def sweepW (sc : W64) (op : LaneOp) : Option (Nat → LaneOp) := if scSat sc || scWidth sc ≠ 32 then none else some fun _ => op

/-- The operation of a class-2 sweep that takes RM and ST (06 R204). -/
def sweepF (sc : W64) (op : Rnd → Bool → LaneOp) : Option (Nat → LaneOp) := some fun _ => op (scRnd sc) (scSat sc)

/-- The operation of a class-2 sweep that allows neither RM nor ST (06 R204). -/
def sweepM (sc : W64) (op : LaneOp) : Option (Nat → LaneOp) := if scSat sc || scRnd sc ≠ .rne then none else some fun _ => op

/-- The operation of a sweep in each lane (06 R204, R205): none where `sc` holds a value that the register form forbids. `pr` is the
predicate of the `vsel` sweep. -/
def sweepOp (sc : W64) (pr : Mask) : Instr → Option (Nat → LaneOp)
  | .vaddSweep _ _ _ _ _ => sweepE sc fun e => lane2 e eAdd
  | .vsubSweep _ _ _ _ _ => sweepE sc fun e => lane2 e eSub
  | .vaddsSweep _ sx _ _ _ _ => sweepE sc fun e => laneAdds e sx
  | .vsubsSweep _ sx _ _ _ _ => sweepE sc fun e => laneSubs e sx
  | .vmulSweep _ _ _ _ _ => sweepE sc fun e => lane2 e eMul
  | .vmulhSweep _ _ _ _ _ => sweepE sc fun e => lane2 e eMulh
  | .vmulhuSweep _ _ _ _ _ => sweepE sc fun e => lane2 e eMulhu
  | .vmadSweep _ _ _ _ _ => sweepW sc laneMad
  | .vandSweep _ _ _ _ _ => sweepW sc (laneW fun a b _ => a &&& b)
  | .vorSweep _ _ _ _ _ => sweepW sc (laneW fun a b _ => a ||| b)
  | .vxorSweep _ _ _ _ _ => sweepW sc (laneW fun a b _ => a ^^^ b)
  | .vandnSweep _ _ _ _ _ => sweepW sc laneAndn
  | .vshlSweep _ _ _ _ _ => sweepE sc fun e => lane2 e eShl
  | .vshrSweep _ _ _ _ _ => sweepE sc fun e => lane2 e eShr
  | .vsraSweep _ _ _ _ _ => sweepE sc fun e => lane2 e eSra
  | .vminSweep _ _ _ _ _ => sweepE sc fun e => lane2 e eMin
  | .vmaxSweep _ _ _ _ _ => sweepE sc fun e => lane2 e eMax
  | .vminuSweep _ _ _ _ _ => sweepE sc fun e => lane2 e eMinu
  | .vmaxuSweep _ _ _ _ _ => sweepE sc fun e => lane2 e eMaxu
  | .vabsSweep _ _ _ _ _ => some fun _ => laneAbs (scWidth sc) (scSat sc)
  | .vselSweep _ _ _ _ _ => if scSat sc || scWidth sc ≠ 32 then none else some fun l => laneW fun a b _ => if mbit pr l then a else b
  | .vbfxSweep _ _ _ _ _ => sweepW sc (laneBfx false)
  | .vbfiSweep _ _ _ _ _ => sweepW sc laneBfi
  | .vfshSweep _ _ _ _ _ => sweepW sc laneFsh
  | .vclzSweep _ _ _ _ _ => sweepE sc laneClz
  | .vpopcSweep _ _ _ _ _ => sweepE sc lanePopc
  | .vbrevSweep _ _ _ _ _ => sweepE sc laneBrev
  | .vmovSweep _ _ _ _ _ => sweepW sc (laneW fun a _ _ => a)
  | .faddSweep _ _ _ _ _ => sweepF sc fun m st => laneF m st (fvAdd m)
  | .fsubSweep _ _ _ _ _ => sweepF sc fun m st => laneF m st (fvSub m)
  | .fmulSweep _ _ _ _ _ => sweepF sc fun m st => laneF m st fvMul
  | .ffmaSweep _ _ _ _ _ => sweepF sc fun m st => laneF m st (fvFma m)
  | .fminSweep _ _ _ _ _ => sweepM sc (laneMinMax false)
  | .fmaxSweep _ _ _ _ _ => sweepM sc (laneMinMax true)
  | .hadd2Sweep _ _ _ _ _ => sweepF sc fun m st => laneSub bf16 m st (fvAdd m)
  | .hmul2Sweep _ _ _ _ _ => sweepF sc fun m st => laneSub bf16 m st fvMul
  | .hfma2Sweep _ _ _ _ _ => sweepF sc fun m st => laneSub bf16 m st (fvFma m)
  | .q8addSweep _ _ _ _ _ => sweepF sc fun m st => laneSub (q8fmt (sc.getLsbD 60)) m st (fvAdd m)
  | .q8mulSweep _ _ _ _ _ => sweepF sc fun m st => laneSub (q8fmt (sc.getLsbD 60)) m st fvMul
  | _ => none

/-- The address at an offset of the space that an address selects (06 R205): none where the offset leaves the 22 bits of OFF. -/
def sweepAddr (base : Nat) (o : Int) : Option Nat := if 0 ≤ o && o < (2 ^ 22 : Nat) then some (base / 2 ^ 22 * 2 ^ 22 + o.toNat) else none

/-- The offsets of a lane in an iteration (06 R205): destination, first source, second source. -/
def Sweep.offs (x : Sweep) (i l : Nat) : Int × Int × Int :=
  let lane (bc : Bool) : Int := if bc then 0 else (4 * l : Nat)
  (((bits x.ad 0 22 : Nat) : Int) + i * scStep x.sc 0 + (4 * l : Nat),
   ((bits x.aa 0 22 : Nat) : Int) + i * scStep x.sc 1 + lane (x.sc.getLsbD 48),
   ((bits x.ab 0 22 : Nat) : Int) + i * scStep x.sc 2 + lane (x.sc.getLsbD 49))

/-- A unary sweep: it has no second source (06 R204). -/
def Sweep.unary (x : Sweep) : Bool :=
  match x.i with
  | .vabsSweep .. | .vclzSweep .. | .vpopcSweep .. | .vbrevSweep .. | .vmovSweep .. => true
  | _ => false

/-- The words of a lane in an iteration: base address, offset, whether it is written; sources first. -/
def Sweep.words (x : Sweep) (i l : Nat) : List (Nat × Int × Bool) :=
  let (o, a, b) := x.offs i l
  (x.aa, a, false) :: (if x.unary then [] else [(x.ab, b, false)]) ++ [(x.ad, o, true)]

/-- The address that a failing word is reported with. -/
def sweepReport (base : Nat) (o : Int) : W64 := BitVec.ofNat 64 (base / 2 ^ 22 * 2 ^ 22) + BitVec.ofInt 64 o

/-- Whether a scratchpad word at an offset fails 04 R114. -/
def State.sweepFails (s : State) (base : Nat) (o : Int) : Bool :=
  match sweepAddr base o with
  | none => true
  | some a => match s.gsaccess s.focus a 4 with | .error (.fail _ _) => true | _ => false

/-- The first word of a sweep that fails 04 R114, with its lane (06 R206). -/
def State.sweepBad (s : State) (x : Sweep) : Option (Nat × Nat × Int × Bool) :=
  (List.range x.n).findSome? fun i => (lanesOf x.em).findSome? fun l =>
    ((x.words i l).find? fun w => s.sweepFails w.1 w.2.1).map fun w => (l, w)

/-- The bases that a sweep uses, in the order of its operands. -/
def Sweep.bases (x : Sweep) : List (Nat × Bool) := (x.aa, false) :: (if x.unary then [] else [(x.ab, false)]) ++ [(x.ad, true)]

/-- The member whose scratchpad a sweep uses and that cannot be reached now (01 R30). -/
def State.sweepStall (s : State) (x : Sweep) : Option (Nat × Nat) :=
  x.bases.findSome? fun b => match s.gsaccess s.focus (b.1 / 2 ^ 22 * 2 ^ 22) 0 with | .error (.stall wk r) => some (wk, r) | _ => none

/-- A sweep word (06 R204 to R206): its checks, then the sweep begins, at the iteration that a saved path had reached (06 R207). -/
def sweepWord (i : Instr) (h : Hdr) (d a b n : Nat) (s : State) : Host.Outcome State Fault Refusal :=
  word i s fun s =>
    let sc := s.grp.sc
    let pr := s.rpm (bits sc.toNat 56 4)
    let x : Sweep := { i := i, em := s.em h, sc := sc, pr := pr, ad := (s.rs d).toNat, aa := (s.rs a).toNat, ab := (s.rs b).toNat,
                       n := n, at_ := s.fresh, flags := [] }
    if (sweepOp sc pr i).isNone then ili 12
    else if x.em = 0#64 then .done s
    else
      match s.sweepBad x with
      | some (l, base, o, wr) => prot 2 (sweepReport base o) wr l
      | none =>
        match x.bases.find? fun y => y.1 % 4 ≠ 0 with
        | some y => prot 3 (BitVec.ofNat 64 y.1) y.2
        | none =>
          match s.sweepStall x with
          | some (wk, r) => .stay (s.enterWait wk (BitVec.ofNat 64 r) 0 0 0 none)
          | none =>
            let s1 := s.performAll s.focus
            .stay (s1.setPth { s1.pth with sweep := some x })

/-- The sweep of `vadd` (06 R205). -/
def execVaddSweep (h : Hdr) (d a b n : Nat) (s : State) := sweepWord (.vaddSweep h d a b n) h d a b n s
/-- The sweep of `vsub` (06 R205). -/
def execVsubSweep (h : Hdr) (d a b n : Nat) (s : State) := sweepWord (.vsubSweep h d a b n) h d a b n s
/-- The sweep of `vadds` (06 R205). -/
def execVaddsSweep (h : Hdr) (sx : Bool) (d a b n : Nat) (s : State) := sweepWord (.vaddsSweep h sx d a b n) h d a b n s
/-- The sweep of `vsubs` (06 R205). -/
def execVsubsSweep (h : Hdr) (sx : Bool) (d a b n : Nat) (s : State) := sweepWord (.vsubsSweep h sx d a b n) h d a b n s
/-- The sweep of `vmul` (06 R205). -/
def execVmulSweep (h : Hdr) (d a b n : Nat) (s : State) := sweepWord (.vmulSweep h d a b n) h d a b n s
/-- The sweep of `vmulh` (06 R205). -/
def execVmulhSweep (h : Hdr) (d a b n : Nat) (s : State) := sweepWord (.vmulhSweep h d a b n) h d a b n s
/-- The sweep of `vmulhu` (06 R205). -/
def execVmulhuSweep (h : Hdr) (d a b n : Nat) (s : State) := sweepWord (.vmulhuSweep h d a b n) h d a b n s
/-- The sweep of `vmad` (06 R205). -/
def execVmadSweep (h : Hdr) (d a b n : Nat) (s : State) := sweepWord (.vmadSweep h d a b n) h d a b n s
/-- The sweep of `vand` (06 R205). -/
def execVandSweep (h : Hdr) (d a b n : Nat) (s : State) := sweepWord (.vandSweep h d a b n) h d a b n s
/-- The sweep of `vor` (06 R205). -/
def execVorSweep (h : Hdr) (d a b n : Nat) (s : State) := sweepWord (.vorSweep h d a b n) h d a b n s
/-- The sweep of `vxor` (06 R205). -/
def execVxorSweep (h : Hdr) (d a b n : Nat) (s : State) := sweepWord (.vxorSweep h d a b n) h d a b n s
/-- The sweep of `vandn` (06 R205). -/
def execVandnSweep (h : Hdr) (d a b n : Nat) (s : State) := sweepWord (.vandnSweep h d a b n) h d a b n s
/-- The sweep of `vshl` (06 R205). -/
def execVshlSweep (h : Hdr) (d a b n : Nat) (s : State) := sweepWord (.vshlSweep h d a b n) h d a b n s
/-- The sweep of `vshr` (06 R205). -/
def execVshrSweep (h : Hdr) (d a b n : Nat) (s : State) := sweepWord (.vshrSweep h d a b n) h d a b n s
/-- The sweep of `vsra` (06 R205). -/
def execVsraSweep (h : Hdr) (d a b n : Nat) (s : State) := sweepWord (.vsraSweep h d a b n) h d a b n s
/-- The sweep of `vmin` (06 R205). -/
def execVminSweep (h : Hdr) (d a b n : Nat) (s : State) := sweepWord (.vminSweep h d a b n) h d a b n s
/-- The sweep of `vmax` (06 R205). -/
def execVmaxSweep (h : Hdr) (d a b n : Nat) (s : State) := sweepWord (.vmaxSweep h d a b n) h d a b n s
/-- The sweep of `vminu` (06 R205). -/
def execVminuSweep (h : Hdr) (d a b n : Nat) (s : State) := sweepWord (.vminuSweep h d a b n) h d a b n s
/-- The sweep of `vmaxu` (06 R205). -/
def execVmaxuSweep (h : Hdr) (d a b n : Nat) (s : State) := sweepWord (.vmaxuSweep h d a b n) h d a b n s
/-- The sweep of `vabs` (06 R205). -/
def execVabsSweep (h : Hdr) (d a b n : Nat) (s : State) := sweepWord (.vabsSweep h d a b n) h d a b n s
/-- The sweep of `vsel` (06 R205). -/
def execVselSweep (h : Hdr) (d a b n : Nat) (s : State) := sweepWord (.vselSweep h d a b n) h d a b n s
/-- The sweep of `vbfx` (06 R205; zero-extended, since `sc` has no SX). -/
def execVbfxSweep (h : Hdr) (d a b n : Nat) (s : State) := sweepWord (.vbfxSweep h d a b n) h d a b n s
/-- The sweep of `vbfi` (06 R205). -/
def execVbfiSweep (h : Hdr) (d a b n : Nat) (s : State) := sweepWord (.vbfiSweep h d a b n) h d a b n s
/-- The sweep of `vfsh` (06 R205). -/
def execVfshSweep (h : Hdr) (d a b n : Nat) (s : State) := sweepWord (.vfshSweep h d a b n) h d a b n s
/-- The sweep of `vclz` (06 R205). -/
def execVclzSweep (h : Hdr) (d a b n : Nat) (s : State) := sweepWord (.vclzSweep h d a b n) h d a b n s
/-- The sweep of `vpopc` (06 R205). -/
def execVpopcSweep (h : Hdr) (d a b n : Nat) (s : State) := sweepWord (.vpopcSweep h d a b n) h d a b n s
/-- The sweep of `vbrev` (06 R205). -/
def execVbrevSweep (h : Hdr) (d a b n : Nat) (s : State) := sweepWord (.vbrevSweep h d a b n) h d a b n s
/-- The sweep of `vmov` (06 R205). -/
def execVmovSweep (h : Hdr) (d a b n : Nat) (s : State) := sweepWord (.vmovSweep h d a b n) h d a b n s
/-- The sweep of `fadd` (06 R205). -/
def execFaddSweep (h : Hdr) (d a b n : Nat) (s : State) := sweepWord (.faddSweep h d a b n) h d a b n s
/-- The sweep of `fsub` (06 R205). -/
def execFsubSweep (h : Hdr) (d a b n : Nat) (s : State) := sweepWord (.fsubSweep h d a b n) h d a b n s
/-- The sweep of `fmul` (06 R205). -/
def execFmulSweep (h : Hdr) (d a b n : Nat) (s : State) := sweepWord (.fmulSweep h d a b n) h d a b n s
/-- The sweep of `ffma` (06 R205). -/
def execFfmaSweep (h : Hdr) (d a b n : Nat) (s : State) := sweepWord (.ffmaSweep h d a b n) h d a b n s
/-- The sweep of `fmin` (06 R205). -/
def execFminSweep (h : Hdr) (d a b n : Nat) (s : State) := sweepWord (.fminSweep h d a b n) h d a b n s
/-- The sweep of `fmax` (06 R205). -/
def execFmaxSweep (h : Hdr) (d a b n : Nat) (s : State) := sweepWord (.fmaxSweep h d a b n) h d a b n s
/-- The sweep of `hadd2` (06 R205). -/
def execHadd2Sweep (h : Hdr) (d a b n : Nat) (s : State) := sweepWord (.hadd2Sweep h d a b n) h d a b n s
/-- The sweep of `hmul2` (06 R205). -/
def execHmul2Sweep (h : Hdr) (d a b n : Nat) (s : State) := sweepWord (.hmul2Sweep h d a b n) h d a b n s
/-- The sweep of `hfma2` (06 R205). -/
def execHfma2Sweep (h : Hdr) (d a b n : Nat) (s : State) := sweepWord (.hfma2Sweep h d a b n) h d a b n s
/-- The sweep of `q8add` (06 R205). -/
def execQ8addSweep (h : Hdr) (d a b n : Nat) (s : State) := sweepWord (.q8addSweep h d a b n) h d a b n s
/-- The sweep of `q8mul` (06 R205). -/
def execQ8mulSweep (h : Hdr) (d a b n : Nat) (s : State) := sweepWord (.q8mulSweep h d a b n) h d a b n s

/-- The location of a sweep's word; none while a member cannot be reached. -/
def State.sweepLoc (s : State) (gk base : Nat) (o : Int) : Option Loc :=
  match sweepAddr base o with
  | none => none
  | some a => match s.gsaccess gk a 4 with | .ok l => some l | .error _ => none

/-- The reads of one lane of an iteration (06 R205, R208): where it writes, the value, the flags; none while a member cannot be reached. -/
def State.sweepLane (s : State) (gk : Nat) (x : Sweep) (op : Nat → LaneOp) (i l : Nat) : State × Option (Nat × Loc × W32 × FFlags) :=
  let (o, a, b) := x.offs i l
  match s.sweepLoc gk x.aa a, s.sweepLoc gk x.ab b, s.sweepLoc gk x.ad o with
  | some la, yb, some ld =>
    let (s1, va) := s.readWord gk (4 * l) la
    let (s2, vb) := match x.unary, yb with
      | false, some lb => s1.readWord gk (4 * l + 1) lb
      | _, _ => (s1, 0#32)
    let (s3, vd) := s2.readWord gk (4 * l + 2) ld
    (s3, if x.unary || yb.isSome then some (l, ld, op l va vb vd) else none)
  | _, _, _ => (s, none)

/-- The reads of every lane of an iteration. -/
def State.sweepReads (s : State) (gk : Nat) (x : Sweep) (i : Nat) : State × Option (List (Nat × Loc × W32 × FFlags)) :=
  let op := (sweepOp x.sc x.pr x.i).getD fun _ a _ _ => (a, 0#6)
  (lanesOf x.em).foldl (fun acc l =>
    let (t, r) := acc.1.sweepLane gk x op i l
    (t, match acc.2, r with | some rs, some y => some (rs ++ [y]) | _, _ => none)) (s, some [])

/-- The flags of a lane with those of the next iteration. -/
def addFlags (old new : List (Nat × FFlags)) : List (Nat × FFlags) :=
  if old.isEmpty then new else (old.zip new).map fun e => (e.1.1, e.1.2 ||| e.2.2)

/-- The end of a sweep (06 R207): its path goes on, and the flags of all iterations are reported once. -/
def State.sweepEnd (s : State) (x : Sweep) : State :=
  let s1 := s.setPth { s.pth with sweep := none, swi := 0 }
  match endFlags s1 x.flags with
  | .user t c i0 i1 re => t.endUser x.i c i0 i1 re
  | e => finish x.i s1 e

/-- Wakes the words of a group that waited at a phaser to report a lost write, beside a sweep that has ended (16 R476, 13 R373). -/
def State.wakeOwed (s : State) (gk : Nat) : State :=
  [0, 1].foldl (fun a p =>
    match ((a.group gk).path p).wait with
    | some w =>
      (match (if w.wk = 1 ∨ w.wk = 2 then a.waitLoc gk w else none) with
       | some l => a.wakeAt l
       | none => a)
    | none => a) s

/-- Whether a sweep goes on: its group is resident and not stopped, and its path does not wait; a user trap of the other path does not hold it (06
R207). -/
def State.sweeping (s : State) : Bool := (tfind? s.groups s.focus).isSome && !s.grp.stopped && decide (s.pth.st = .ready)

/-- One iteration of a path's sweep (06 R205, R208): every read before every write. The last waits for a sweep of the other path that issued
before (13 R373). A member that cannot be reached now is waited for, and the sweep goes on after it (01 R30, R44). -/
def execSweepIteration (gk p : Nat) (s : State) : Host.Outcome State Fault Refusal :=
  let s0 := (s.performAll gk).at_ gk p
  let q := s0.pth
  match q.sweep with
  | none => .next s
  | some x =>
    let first := (s0.grp.path (1 - p)).sweep.any fun y => decide (y.at_ < x.at_)
    if !s0.sweeping || (first && decide (q.swi + 1 ≥ x.n)) then .next s
    else
      match s0.sweepReads gk x q.swi with
      | (_, none) => .next (match s0.sweepStall x with | some (wk, r) => s0.enterWait wk (BitVec.ofNat 64 r) 0 0 0 none | none => s)
      | (s1, some rs) =>
        let y := { x with flags := addFlags x.flags (rs.map fun r => (r.1, r.2.2.2)) }
        let s2 := s1.writeAs gk (rs.flatMap fun r => (List.range 4).zipWith (fun k b => (r.2.1.plus k, b)) (leBytes 4 r.2.2.1.toNat))
        let s3 := s2.setPth { s2.pth with sweep := some y, swi := q.swi + 1 }
        .next (if q.swi + 1 ≥ x.n then (s3.sweepEnd y).wakeOwed gk else s3)

end Sys2Proof.Machine
end

