-- ==== Sys2Proof/Machine/Results.lean ====
section
/-! DEFINITION. What happens between words: the writing of outstanding results (02 R72 to R75; 08 R263), the performing of pending accesses
(07 R228; 05 R134, R139) and the choice of the groups that issue in a clk of a quadrant (01 R31, R37, R43; 14 R418 to R421). -/

namespace Sys2Proof.Machine

/-! ## Results and accesses -/

/-- The outstanding results of a path slot, or of ended paths (p = 2). -/
def Group.pendOf (g : Group) (p : Nat) : List Pend := if p = 2 then g.orph else (g.path p).pend

/-- Replaces them. -/
def Group.setPend (g : Group) (p : Nat) (l : List Pend) : Group :=
  if p = 2 then { g with orph := l } else g.setPath p { g.path p with pend := l }

/-- Whether result `i` may be written now: a tile word's result only after those of earlier tile words (08 R263). -/
def mayLand (l : List Pend) (i : Nat) (c : RCls) : Bool :=
  match l[i]? with
  | some q => q.cls = c && !q.queued && (c ≠ .tile || (l.take i).all fun x => x.cls ≠ .tile)
  | none => false

/-- Writes an outstanding result of a class (02 R72): its register takes the value, and a group whose paths have ended and which waits
for nothing else ends (01 R25). -/
def State.writeResult (s : State) (c : RCls) (gk p i : Nat) : State :=
  let g := s.group gk
  let l := g.pendOf p
  match l[i]?, (tfind? s.groups gk).isSome && mayLand l i c with
  | some q, true => (s.setGroup gk ((g.setPend p (dropIdx l i)).land p q)).tryEndGroup gk
  | _, _ => s

/-- LD_RESULT_WRITE (02 R72 to R74): result `i` of a path slot; slot 2 holds those of ended paths. -/
def execLdResultWrite (gk p i : Nat) (s : State) : Host.Outcome State Fault Refusal := .next (s.writeResult .ld gk p i)
/-- X_RESULT_WRITE (02 R72). -/
def execXResultWrite (gk p i : Nat) (s : State) : Host.Outcome State Fault Refusal := .next (s.writeResult .x gk p i)
/-- TILE_WORD_PERFORM (08 R263): the results of a tile word. -/
def execTileWordPerform (gk p i : Nat) (s : State) : Host.Outcome State Fault Refusal := .next (s.writeResult .tile gk p i)

/-- Whether pending access `i` may be performed now (07 R228, 05 R139): a release after everything before it, any other after the
earlier accesses to its bytes. -/
def mayPerform (l : List Access) (i : Nat) : Bool :=
  match l[i]? with
  | some a => if a.rel then i == 0 else (l.take i).all fun b => a.cells.all fun c => b.cells.all fun d => c.1 ≠ d.1
  | none => false

/-- ACCESS_PERFORMED (07 R228): pending access `i` of a group is performed at its point of coherence. -/
def execAccessPerformed (gk i : Nat) (s : State) : Host.Outcome State Fault Refusal :=
  .next (if (tfind? s.groups gk).isSome && mayPerform (s.group gk).sbuf i then s.perform gk i else s)

/-! ## Choosing the words of a clk -/

/-- The opcode class of a word (02 R66, R68), for packing: a sweep issues alone, as a word of class 7 would. -/
def packClass (i : Instr) : Nat :=
  match i with
  | .pairedWord _ h0 h1 =>
    let c (h : Half) : Nat :=
      if halfIsMem h then 4
      else match h.op with
        | .nop | .sadd | .ssub | .sand | .sor | .sxor | .sshl | .sshr | .smov | .sli | .saddi => 0
        | .fadd | .fsub | .fmul | .fmin | .fmax | .hadd2 | .hmul2 => 2
        | .pand | .por | .pxor | .pnot | .pmov => 3
        | _ => 1
    let zero (h : Half) : Bool := h.op ≠ .nop && c h = 0
    if halfIsMem h0 || halfIsMem h1 then 4
    else if zero h0 || zero h1 then 0
    else if h0.op = .nop then c h1 else c h0
  | i => if (sweepOp 0 0 i).isSome then 7 else encode i / 2 ^ 59 % 8

/-- The class of the word that a group would issue next; a trap of its fetch or encoding packs with nothing. -/
def State.nextClass (s : State) (gk : Nat) : Nat :=
  match s.choosePath gk with
  | none => 7
  | some p =>
    match (s.at_ gk p).nextWord with
    | (_, .run i) => packClass i
    | _ => 7

/-- Whether a group has a path that can issue its next word now (14 R418). -/
def State.eligible (s : State) (gk : Nat) : Bool := (s.choosePath gk).isSome

/-- Promoted groups (14 R419). -/
def Group.promoted (g : Group) : Bool := decide (g.age ≥ 16)

/-- The order of 14 R419: promoted first, among promoted the larger AGE; then the higher class, the longer time since the last
issue, the lower slot. -/
def issuesBefore (a b : Nat × Group) : Bool :=
  let x := a.2
  let y := b.2
  if x.promoted ≠ y.promoted then x.promoted
  else if x.promoted && x.age ≠ y.age then decide (x.age > y.age)
  else if x.pri ≠ y.pri then decide (x.pri > y.pri)
  else if x.idle ≠ y.idle then decide (x.idle > y.idle)
  else decide (a.1 < b.1)

/-- Inserts a group in that order. -/
def insertGroup (a : Nat × Group) : List (Nat × Group) → List (Nat × Group)
  | [] => [a]
  | b :: r => if issuesBefore a b then a :: b :: r else b :: insertGroup a r

/-- The octets of a group (01 R31). -/
def Group.octets (g : Group) : List Nat := (List.range (g.w / 8)).map (g.octet + ·)

/-- The groups that issue together (14 R419): the first, and those after it that pack with it. -/
def State.pack (s : State) (l : List (Nat × Group)) : List Nat :=
  match l with
  | [] => []
  | (k0, g0) :: rest =>
    let c := s.nextClass k0
    if 1 ≤ c && c ≤ 3 && decide (g0.w < 64) then
      (rest.foldl (fun (acc : List Nat × List Nat) (e : Nat × Group) =>
        if s.nextClass e.1 = c && decide (e.2.w < 64) && e.2.octets.all (fun o => !acc.2.contains o) then
          (acc.1 ++ [e.1], acc.2 ++ e.2.octets)
        else acc) ([k0], g0.octets)).1
    else [k0]

/-- The user groups of a quadrant of a core: slots 16q to 16q + 15 (13 R379). -/
def State.quadrant (s : State) (core q : Nat) : List (Nat × Group) :=
  s.groups.filter fun e => decide (core * Config.nSlots + 16 * q ≤ e.1) && decide (e.1 < core * Config.nSlots + 16 * q + 16)

/-- Whether a quadrant's clk is the one that the die's cycle counter counts (16 R479): quadrant 0 of the die's first core. -/
def State.countsClk (s : State) (core q : Nat) : Bool :=
  q == 0 && (s.cores.find? fun e => dieOf e.1 == dieOf core).all fun e => e.1 == core

end Sys2Proof.Machine
end

