-- ==== Sys2Proof/Machine/Engine.lean ====
section
/-! DEFINITION. The copy and gather-scatter engines: the command words (09 R284 to R288), what an engine command may access, and
the kinds `cpy`, `cpym`, `gath`, `scat` and `xsect` (09 R289 to R306). -/

namespace Sys2Proof.Machine

/-! ## Command words -/

/-- The address that a failing command word is reported with: sA, or ERRA where sA passes (09 R285). -/
def State.cmdBadAddr (s : State) (x : W64) : W64 :=
  let spb := (s.team s.grp.team).spb
  if x.toNat ≥ 2 ^ 22 || x.toNat + 64 > spb then x
  else
    let erra := bits (leNat (s.cmdBlock x.toNat)) 32 27
    if erra ≥ 2 ^ 22 || erra + 32 > spb then BitVec.ofNat 64 erra
    else if x.toNat % 64 ≠ 0 then x
    else BitVec.ofNat 64 erra

/-- The command that a group issues at a stamp (09 R285, 10 R322, R326). What its reads must see (05 R146, R147): with a release, every write so
far; else those before the group began, and of scratchpad those before its last `fence.async`. -/
def Cmd.new (g : Group) (kind : Nat) (blk : List Byte) (tok : W64) (now : Nat) : Cmd :=
  let rel := bit (leNat blk) 12
  { word := kind, blk := blk, token := tok, team := g.team, gid := g.gid, lid := g.lid, part := g.part, asid := g.asid, nt := g.nt,
    fq := g.fq, sec := if decide (kind ≥ 16) && decide (g.rsd > 0) then some (g.sec, g.col) else none, st := .queued, pos := 0,
    delivered := 0, counted := [], served := 0, susp := none, bad := [], idxs := [], ahead := [], desc := 0, sdesc := 0, descPa := 0, len := 0,
    npos := 0, rsn := 0, test := 0, faddr := 0, epos := 0, waited := 0,
    gfloor := if rel then now else g.obs.base, sfloor := if rel then now else g.obs.afence, deaf := none }

/-- Appends a command to its team's queue on an engine (09 R288). -/
def Team.enqueue (t : Team) (eng k : Nat) : Team :=
  if eng = 0 then { t with cq := { t.cq with cmds := t.cq.cmds ++ [k] } } else { t with gq := { t.gq with cmds := t.gq.cmds ++ [k] } }

/-- Takes an engine slot for a command of the issuing group (09 R286, R287): the state and the token. -/
def State.takeSlot (s : State) (eng n kind : Nat) (blk : List Byte) : State × W64 :=
  let g := s.grp
  let k := slotKey g.core eng n
  let e := s.eng k
  let seq := if e.used then (e.seq + 1) % 2 ^ 32 else e.seq
  let tok := mkToken g.core eng n seq
  let s1 := s.setEng k { seq := seq, used := true, held := true, status := 0, team := g.team, gid := g.gid, lid := g.lid,
                         cmd := some (Cmd.new g kind blk tok s.now), wrote := [], past := e.past }
  (s1.setTeam g.team ((s1.team g.team).enqueue eng k), tok)

/-- A command word (09 R285): the block is read and checked, a slot is taken, the token written. The release of its ORD covers the
group's accesses before the issue (05 R147). -/
def cmdWord (i : Instr) (h : Hdr) (d a eng kind : Nat) (s : State) : Host.Outcome State Fault Refusal :=
  word i s fun s =>
    let blk := s.cmdBlock (s.rs a).toNat
    let rel := bit (leNat blk) 12
    mceAfter i (rel && bits (leNat blk) 8 3 = 6 && s.em h ≠ 0#64) <| groupWide h (fun s =>
      let x := s.rs a
      let r := s.cmdReason x
      if r ≠ 0 then prot r (s.cmdBadAddr x)
      else
        match s.slotRule eng with
        | .hold => .wait
        | .exhausted => ils 15 x x 0
        | .take n =>
          let (s1, tok) := (if rel then s.performAll s.focus else s.settleOwn s.focus (s.blockLocs x.toNat)).takeSlot eng n kind blk
          .done (s1.ws d tok)) s

/-- `cpy` (09 R285, R300). -/
def execCpy (h : Hdr) (d a : Nat) (s : State) := cmdWord (.cpy h d a) h d a 0 1 s
/-- `cpym` (09 R285, R301). -/
def execCpym (h : Hdr) (d a : Nat) (s : State) := cmdWord (.cpym h d a) h d a 0 2 s
/-- `gath` (09 R285, R303). -/
def execGath (h : Hdr) (d a : Nat) (s : State) := cmdWord (.gath h d a) h d a 1 3 s
/-- `scat` (09 R285, R303). -/
def execScat (h : Hdr) (d a : Nat) (s : State) := cmdWord (.scat h d a) h d a 1 4 s
/-- `xsect` (09 R285, R305). -/
def execXsect (h : Hdr) (d a : Nat) (s : State) := cmdWord (.xsect h d a) h d a 1 5 s
/-- `kvld` (10 R322, R328). -/
def execKvld (h : Hdr) (d a : Nat) (s : State) := cmdWord (.kvld h d a) h d a 1 16 s
/-- `kvapp` (10 R322, R330). -/
def execKvapp (h : Hdr) (d a : Nat) (s : State) := cmdWord (.kvapp h d a) h d a 1 17 s
/-- `kvwr` (10 R322, R330). -/
def execKvwr (h : Hdr) (d a : Nat) (s : State) := cmdWord (.kvwr h d a) h d a 1 18 s
/-- `kvtrim` (10 R322, R334). -/
def execKvtrim (h : Hdr) (d a : Nat) (s : State) := cmdWord (.kvtrim h d a) h d a 1 19 s
/-- `kvsplice` (10 R322, R335). -/
def execKvsplice (h : Hdr) (d a : Nat) (s : State) := cmdWord (.kvsplice h d a) h d a 1 20 s
/-- `kvshift` (10 R322, R337). -/
def execKvshift (h : Hdr) (d a : Nat) (s : State) := cmdWord (.kvshift h d a) h d a 1 21 s

/-! ## What a command may access -/

/-- The engine slot of a command: that of its token (09 R286). -/
def Cmd.key (c : Cmd) : Nat := slotKey (bits c.token.toNat 47 3 * Config.nSites + bits c.token.toNat 40 7) (bits c.token.toNat 38 2) (bits c.token.toNat 32 6)

/-- The scope of a command's order (09 R289). -/
def Cmd.scp (c : Cmd) : Scope := Scope.ofCode (c.fld 8 3)

/-- Whether a command's completion is a release (05 R147). -/
def Cmd.relEnd (c : Cmd) : Bool := c.fld 11 1 = 1

/-- A command as an agent: it belongs to every instance that holds its issuing group (05 R137). -/
def State.cmdWho (s : State) (c : Cmd) : Who :=
  s.agent (if decide (c.team ≥ 2 ^ 32) then ((s.die (bits c.token.toNat 47 3)).part).getD 0 else c.part) c.lid c.team c.gid

/-- Writes of a command (09 R291), kept among those that its completion shows (05 R148). -/
def State.cmdCells (s : State) (c : Cmd) (cells : List (Loc × Byte)) : State :=
  let t := s.wcells cells
  t.setEng c.key { t.eng c.key with wrote := cells.map (·.1) ++ (t.eng c.key).wrote }

/-- Writes of a command that are a release at its scope (10 R324). -/
def State.cmdRelease (s : State) (c : Cmd) (cells : List (Loc × Byte)) : State := (s.cmdCells c cells).addRels (s.cmdWho c) [c.scp] cells

/-- What a command's completion, or an arrival of its bytes, gives those that wait for it (05 R147, R148): every write so far; `last`: of its end,
a release where its order says so. -/
def State.cmdSync (s : State) (c : Cmd) (last : Bool) : Sync :=
  ⟨if last && c.relEnd then [(s.cmdWho c, c.scp)] else [], (s.eng c.key).wrote, s.now⟩

/-- Whether the control group issued a command: its global addresses are physical (13 R371). -/
def Cmd.ctl (c : Cmd) : Bool := decide (c.team ≥ 2 ^ 32)

/-- The core of a command: that of its token (09 R286). -/
def Cmd.core (c : Cmd) : Nat := bits c.token.toNat 47 3 * Config.nSites + bits c.token.toNat 40 7

/-- The engine of a command. -/
def Cmd.eng (c : Cmd) : Nat := bits c.token.toNat 38 2

/-- The pending stores of the group that issued a command, where it is resident: its walks see them (15 R439). -/
def State.ownerStores (s : State) (c : Cmd) : List Access :=
  match s.groups.find? fun e => e.2.lid == c.lid && e.2.team == c.team && e.2.gid == c.gid with
  | some e => e.2.sbuf
  | none => []

/-- The segments of a global range that translate, page by page in order, and the failure that ends them (15 R442). A page that
the fault service declared unresolvable is a protection fault, mapped or not by then (15 R449). -/
def State.segsFrom (s : State) (c : Cmd) (k : AKind) : Nat → Nat → Nat → List (Loc × Nat) → State × List (Loc × Nat) × Option (Nat × AFail)
  | 0, _, _, acc => (s, acc.reverse, none)
  | fuel + 1, a, n, acc =>
    if n = 0 then (s, acc.reverse, none)
    else if a ≥ 2 ^ 57 then (s, acc.reverse, some (a, .fail a (.prot 1)))
    else
      let m := min n (65536 - a % 65536)
      if c.bad.contains (a / 65536 * 65536) then (s, acc.reverse, some (a, .fail a (.prot 7))) else
      match s.xlate (dieOf c.core) c.part c.asid a k (s.ownerStores c) with
      | (s1, .ok pa) => s1.segsFrom c k fuel (a + m) (n - m) ((.gpa pa, m) :: acc)
      | (s1, .error f) => (s1, acc.reverse, some (a, .fail a f))

/-- The segments of a physical range that the control group may access, and the failure that ends them. -/
def State.physFrom (s : State) (die : Nat) (k : AKind) : Nat → Nat → Nat → List (Loc × Nat) → List (Loc × Nat) × Option (Nat × AFail)
  | 0, a, _, acc => (acc.reverse, some (a, .fail a (.prot 8)))
  | fuel + 1, a, n, acc =>
    if n = 0 then (acc.reverse, none)
    else
      let m := (s.physCuts die).foldl (fun m x => if a < x then min m (x - a) else m) n
      match s.physOk die a m k with
      | none => s.physFrom die k fuel (a + m) (n - m) ((.gpa a, m) :: acc)
      | some r => (acc.reverse, some (a, .fail a (.prot r)))

/-- Whether a command gets no data from a location: memory reports an uncorrectable error (09 R293), or its read gets no answer (16 R476). -/
def State.noData (s : State) (c : Cmd) (l : Loc) : Bool :=
  s.poisoned l || (match c.deaf, l with | some mesh, .gpa pa => s.leaves mesh c.part pa | _, _ => false)

/-- Cuts segments before the first byte from which a command gets no data (09 R293): `a` is the address of the first byte. -/
def State.cutPoison (s : State) (c : Cmd) (a : Nat) : List (Loc × Nat) → List (Loc × Nat) × Option (Nat × AFail)
  | [] => ([], none)
  | (l, n) :: r =>
    match (List.range n).find? fun i => s.noData c (l.plus i) with
    | some i => (if i = 0 then [] else [(l, i)], some (a + i, .fail (a + i) .mce))
    | none => let (x, f) := s.cutPoison c (a + n) r; ((l, n) :: x, f)

/-- The segments of the longest accessible prefix of a range of an engine command, and the failure at its end: global, or
scratchpad of the issuing team and its cluster (04 R113, R114). -/
def State.eSpan (s : State) (c : Cmd) (glob : Bool) (a n : Nat) (k : AKind) : State × List (Loc × Nat) × Option (Nat × AFail) :=
  if n = 0 then (s, [], none)
  else if glob then
    if c.ctl then (s, s.physFrom (dieOf c.core) k 70 a n [])
    else s.segsFrom c k (n / 65536 + 2) a n []
  else
    let m := min n ((s.team c.team).spb - bits a 0 22)
    if m = 0 || (c.ctl && bit a 22) then (s, [], some (a, .fail a (.prot 2)))
    else
      match s.saccess c.team a m with
      | .ok l => (s, [(l, m)], if m < n then some (a + m, .fail (a + m) (.prot 2)) else none)
      | .error e => (s, [], some (a, e))

/-- The segments of the longest prefix of a range that a command can access, and why it ends there. -/
def State.eSegs (s : State) (c : Cmd) (glob : Bool) (a n : Nat) (k : AKind) : State × List (Loc × Nat) × Option (Nat × AFail) :=
  let (s1, l, f) := s.eSpan c glob a n k
  if k = .read && (!s.poison.isEmpty || c.deaf.isSome) then
    match s1.cutPoison c a l with
    | (l1, some x) => (s1, l1, some x)
    | (_, none) => (s1, l, f)
  else (s1, l, f)

/-- The locations of segments. -/
def segLocs (l : List (Loc × Nat)) : List Loc := l.flatMap fun x => (List.range x.2).map x.1.plus

/-- How a unit of a command's work ends: done; waiting for a page (with what is done so far), for something else, or stopped. -/
inductive K
  | ok (s : State) (c : Cmd)
  | page (s : State) (c : Cmd) (va why lvl : Nat) (k : AKind)
  | hold
  | stop (s : State) (c : Cmd)

/-- A command that stops with a reason, an address and a position (09 R295). -/
def Cmd.fail (c : Cmd) (rsn faddr epos : Nat) : Cmd := { c with rsn := rsn, faddr := faddr, epos := epos }

/-- RSN of a failing access: 10 for data with an uncorrectable error (09 R293). -/
def AFail.rsn (f : AFail) (rsn : Nat) : Nat :=
  match f with
  | .fail _ .mce => 10
  | _ => rsn

/-- Ends a unit on a failing access: `s`, `c` are what stands so far; a protection fault stops with `rsn` (09 R292, R293). -/
def K.failed (s : State) (c : Cmd) (k : AKind) (rsn epos : Nat) (x : Nat × AFail) : K :=
  match x.2 with
  | .fail va (.page why lvl) => .page s c va why lvl k
  | .fail _ (.prot _) => .stop s (c.fail rsn x.1 epos)
  | .fail _ .mce => .stop s (c.fail 10 x.1 epos)
  | .stall _ _ => .hold

/-- What a command reads at locations (05 R147); the key-cache commands read what stands there (log entry 5). -/
def State.cmdBytes (s : State) (c : Cmd) (l : List Loc) : List Byte :=
  if c.word < 16 then s.engineBytes (fun x => match x with | .gpa _ => c.gfloor | .sp _ _ => c.sfloor) l else l.map s.rb

/-- Reads a range as a whole for a command: a failure ends the unit, with `rsn` for a protection fault. -/
def eRead (s : State) (c : Cmd) (glob : Bool) (a n rsn epos : Nat) (go : State → List Byte → K) : K :=
  match s.eSegs c glob a n .read with
  | (s1, l, none) => go s1 (s1.cmdBytes c (segLocs l))
  | (s1, _, some x) => .failed s1 c .read rsn epos x

/-- Writes bytes as a whole for a command, by `put`. -/
def eWriteWith (put : State → Cmd → List (Loc × Byte) → State) (s : State) (c : Cmd) (glob : Bool) (a : Nat) (bs : List Byte) (rsn epos : Nat)
    (go : State → K) : K :=
  match s.eSegs c glob a bs.length .write with
  | (s1, l, none) => go (put s1 c ((segLocs l).zip bs))
  | (s1, _, some x) => .failed s1 c .write rsn epos x

/-- Writes bytes as a whole for a command. -/
def eWrite (s : State) (c : Cmd) (glob : Bool) (a : Nat) (bs : List Byte) (rsn epos : Nat) (go : State → K) : K :=
  eWriteWith State.cmdCells s c glob a bs rsn epos go

/-- A read-modify-write of a number of `n` bytes for a command; `f` answers the new value, none where nothing is written. -/
def eRmw (s : State) (c : Cmd) (glob : Bool) (a n rsn epos : Nat) (f : Nat → Option Nat) (go : State → Nat → K) : K :=
  match s.eSegs c glob a n .rmw with
  | (s1, l, none) =>
    let locs := segLocs l
    let old := leNat (locs.map s1.rb)
    (match f old with
     | some v => go (s1.putCells (locs.zip (leBytes n v))) old
     | none => go s1 old)
  | (s1, _, some x) => .failed s1 c .rmw rsn epos x

/-- Subtracts arrivals, or with `out` withdrawals, from the phasers of a command (07 R245): `n` bytes of each, as far as they are counted. An
arrival shows what the command has written to those that wait for its phase (05 R148, R152). A phaser that can no longer be written is passed
over. -/
def eArrive (out : Bool) (n : Nat) : List Counted → List Counted → State → Cmd → (State → Cmd → K) → K
  | [], acc, s, c, go => go s { c with counted := acc.reverse }
  | x :: r, acc, s, c, go =>
    let m := min n x.left
    let next (s : State) : K := eArrive out n r ({ x with left := x.left - m } :: acc) s c go
    if m = 0 then next s
    else
      match s.eSegs c x.glob x.addr 32 .rmw with
      | (s1, (l, _) :: _, none) =>
        let s2 := s1.setPhaser l ((s1.phaser l).sub m)
        next ((if out then s2 else s2.addArrival l (s1.phaser l).phase (s2.cmdSync c (x.left ≤ n))).wakeAt l)
      | (s1, _, some y) =>
        (match y.2 with
         | .fail va (.page why lvl) => .page s1 c va why lvl .rmw
         | .stall _ _ => .hold
         | _ => next s1)
      | (s1, [], none) => next s1

/-- Bytes of W(c) have been delivered: they arrive (09 R291). Where a phaser's page is missing, the unit is not begun: `s0` and `c0` stand
from before it (09 R292). -/
def delivered (s0 : State) (c0 : Cmd) (s : State) (c : Cmd) (n : Nat) (go : State → Cmd → K) : K :=
  match eArrive false n c.counted [] s { c with delivered := c.delivered + n } .ok with
  | .ok s1 c1 => go s1 c1
  | .page _ _ va why lvl k => .page s0 c0 va why lvl k
  | k => k

/-! ## Copying -/

/-- The segments of a range in each destination. -/
def State.dstSegs (s : State) (c : Cmd) (dg : Bool) (n : Nat) (dsts : List Nat) : State × List (List (Loc × Nat) × Option (Nat × AFail)) :=
  dsts.foldl (fun acc d => let (t, l, f) := acc.1.eSegs c dg d n .write; (t, acc.2 ++ [(l, f)])) (s, [])

/-- Delivers `take` bytes of those read, `bs`, to destinations (09 R292, R293), each aligned 4-byte word of them indivisibly (05 R133): `sf` is
how the source fails behind `bs`. A protection fault ends the unit behind the bytes before it; at a missing page the words before it are
delivered, and what is read is kept. `whole`: all of it or nothing (09 R299). `elem` is the element that POS names; without one, POS is the
byte offset. -/
def putBytes (s0 : State) (c0 : Cmd) (s1 : State) (c : Cmd) (dg : Bool) (dsts : List Nat) (bs : List Byte) (take : Nat)
    (sf : Option (Nat × AFail)) (whole : Bool) (elem : Option Nat) (go : State → Cmd → K) : K :=
  let n := min take bs.length
  let (s2, ds) := s1.dstSegs c dg n dsts
  let m := ds.foldl (fun m x => min m (segLocs x.1).length) n
  let stop : Option ((Nat × AFail) × AKind × Nat) :=
    if m < n then (ds.findSome? fun x => if (segLocs x.1).length = m then x.2 else none).map fun x => (x, .write, 3)
    else if n < take then sf.map fun x => (x, .read, 4)
    else none
  let cut := match stop with
    | some ((_, .fail _ (.page _ _)), _, _) => m - (dsts.headD 0 + m) % 4
    | _ => m
  let k := if whole && stop.isSome then 0 else cut
  let s3 := ds.foldl (fun t x => t.cmdCells c ((segLocs x.1).zip (bs.take k))) s2
  let c1 := { c with pos := c.pos + k, ahead := bs.drop k }
  let fin (s : State) (c : Cmd) : K :=
    match stop with
    | none => go s c
    | some (x, kd, rsn) => .failed s c kd rsn (elem.getD c.pos) x
  if k = 0 then fin s2 { c1 with ahead := if whole then [] else c1.ahead } else delivered s0 c0 s3 c1 k fin

/-- Copies `take` of the `rem` bytes of a row or an element (09 R300 to R304): the source is read by whole aligned 4-byte words, what is left of the
last is kept for the next unit (05 R133). -/
def copyChunk (s : State) (c : Cmd) (sg : Bool) (src : Nat) (dg : Bool) (dsts : List Nat) (take rem : Nat) (elem : Option Nat)
    (go : State → Cmd → K) : K :=
  let h := c.ahead.length
  let want := min ((src + take + 3) / 4 * 4 - src) rem
  let (s1, sl, sf) := s.eSegs c sg (src + h) (want - h) .read
  putBytes s c s1 c dg dsts (c.ahead ++ s1.cmdBytes c (segLocs sl)) take sf false elem go

/-- The bytes of a unit of at least `n` bytes from a destination address: up to the end of an aligned 4-byte word, or of the `rem` bytes that are
left (05 R133). -/
def grain (dst n rem : Nat) : Nat := min (n + (4 - (dst + n) % 4) % 4) rem

/-- A split block at an address under SPL (09 R299): at most `left` lines, or exactly as many. Its lines are read and judged before any
byte is delivered. -/
def withBlock (s : State) (c : Cmd) (glob : Bool) (a left epos : Nat) (exact : Bool) (go : State → List Byte → K) : K :=
  eRead s c glob a 128 4 epos fun s l0 =>
    let h := lineHdr l0
    let nl := if lineZeroOk l0 then min (blockLines h.bf h.cap) left else 1
    eRead s c glob (a + 128) (128 * (nl - 1)) 4 epos fun s rest =>
      let lines := (List.range nl).map fun i => ((l0 ++ rest).drop (128 * i)).take 128
      match judgeBlock (if exact then .exact left else .atMost left) lines with
      | some (j, t) => .stop s { c.fail 5 (a + 128 * j) epos with test := t }
      | none => go s (l0 ++ rest)

/-- A command whose last byte is delivered is done. -/
def doneAt (total : Nat) (s : State) (c : Cmd) : K := .ok s (if c.pos ≥ total then { c with st := .done } else c)

/-- The segments of several ranges of `n` bytes, up to the first byte of them that a command cannot access, and why they end there. -/
def State.rowSegs (s : State) (c : Cmd) (glob : Bool) (n : Nat) (k : AKind) : List Nat → State × List (Loc × Nat) × Option (Nat × AFail)
  | [] => (s, [], none)
  | a :: r =>
    match s.eSegs c glob a n k with
    | (s1, l, none) => let (s2, m, f) := s1.rowSegs c glob n k r; (s2, l ++ m, f)
    | e => e

/-- Whether rows of a `cpy` may share an aligned 4-byte word of the destination: it is then delivered as a whole, so that no word is seen torn (05
R133, R149). -/
def Cmd.ragged (c : Cmd) : Bool :=
  let step := sxInt 32 (c.fld 352 32)
  let len := c.fld 256 32
  decide (1 < c.fld 288 16) && decide (step.natAbs < len + 3) && !(c.fld 192 64 % 4 == 0 && len % 4 == 0 && step.natAbs % 4 == 0)

/-- A `cpy` whose rows share words: every row read, then every row written. A missing page lets nothing be delivered yet; a protection fault ends
the command behind the bytes before it (09 R292, R293). -/
def cpyRagged (s : State) (c : Cmd) : K :=
  let rows := List.range (c.fld 288 16)
  let (s1, sl, sf) := s.rowSegs c (c.fld 304 1 == 1) (c.fld 256 32) .read (rows.map (c.rowAt 128 320))
  let (s2, dl, df) := s1.rowSegs c (c.fld 305 1 == 1) (c.fld 256 32) .write (rows.map (c.rowAt 192 352))
  let src := segLocs sl
  let dst := segLocs dl
  let n := min src.length dst.length
  let stop : Option ((Nat × AFail) × AKind × Nat) :=
    if dst.length < src.length then df.map fun x => (x, .write, 3) else sf.map fun x => (x, .read, 4)
  let fin (s : State) (c : Cmd) : K :=
    match stop with
    | none => .ok s { c with st := .done }
    | some (x, kd, rsn) => .failed s c kd rsn c.pos x
  match stop with
  | some ((_, .fail _ (.page _ _)), _, _) | some ((_, .stall _ _), _, _) => fin s2 c
  | _ => if n = 0 then fin s2 c else delivered s c (s2.cmdCells c (dst.zip (s2.cmdBytes c (src.take n)))) { c with pos := n } n fin

/-- `cpy` (09 R300): up to `n` bytes of a row, or one block under SPL. -/
def cpyUnit (s : State) (c : Cmd) (n : Nat) : K :=
  let len := c.fld 256 32
  let r := c.pos / len
  let b := c.pos % len
  let src := (c.rowAt 128 320 r + b) % 2 ^ 64
  let dst := (c.rowAt 192 352 r + b) % 2 ^ 64
  let total := len * c.fld 288 16
  let sg := c.fld 304 1 == 1
  let dg := c.fld 305 1 == 1
  if c.fld 13 1 = 1 then
    withBlock s c sg src ((len - c.pos) / 128) c.pos false fun s1 bs => putBytes s c s1 c dg [dst] bs bs.length none true none (doneAt total)
  else if c.ragged then cpyRagged s c
  else copyChunk s c sg src dg [dst] (grain dst n (len - b)) (len - b) none (doneAt total)

/-- The window address of a receiver of `cpym` (09 R301, R302; 04 R113). -/
def windowAddr (off rank : Nat) : Nat := off + 2 ^ 22 + rank * 2 ^ 23

/-- The end of a `cpym`: with receivers that failed at acceptance it ends in error (09 R302). -/
def cpymDone (s : State) (c : Cmd) : K :=
  if c.pos ≥ c.fld 256 32 then
    if c.served = c.fld 288 12 then .ok s { c with st := .done }
    else
      let bad := (ranksOf (c.fld 288 12)).find? fun r => !c.served.testBit r
      .stop s (c.fail 3 (windowAddr (c.fld 192 22) (bad.getD 0)) (c.fld 256 32))
  else .ok s c

/-- `cpym` (09 R301, R302): up to `n` bytes to every served receiver, or one block under SPL. -/
def cpymUnit (s : State) (c : Cmd) (n : Nat) : K :=
  let len := c.fld 256 32
  let src := (c.fld 128 64 + c.pos) % 2 ^ 64
  let dsts := (ranksOf c.served).map fun r => windowAddr (c.fld 192 22 + c.pos) r
  let sg := c.fld 300 1 == 1
  if c.fld 13 1 = 1 then
    withBlock s c sg src ((len - c.pos) / 128) c.pos false fun s1 bs => putBytes s c s1 c false dsts bs bs.length none true none cpymDone
  else copyChunk s c sg src false dsts (grain (c.fld 192 22 + c.pos) n (len - c.pos)) (len - c.pos) none cpymDone

/-! ## Indexed elements -/

/-- The element size of `gath` and `scat` (09 R303). -/
def Cmd.esz (c : Cmd) : Nat := let e := c.fld 352 4; if e < 4 then 2 ^ e else 128 * (e - 3)

/-- The alignment of element addresses (09 R303). -/
def Cmd.ealign (c : Cmd) : Nat := min c.esz 128

/-- The indexed address of an index (09 R303). -/
def Cmd.indexed (c : Cmd) (i : Nat) : Nat := (c.fld 128 64 + i * c.fld 320 32) % 2 ^ 64

/-- Reads elements of a `gath` smaller than 4 bytes into one destination word (09 R304, 05 R133): `todo` more, element `i` next. A protection
fault ends them behind the elements before it; a missing page lets none be delivered yet. -/
def gathSmall (s0 : State) (c0 : Cmd) (dst : Nat) : Nat → Nat → List Byte → State → Cmd → K
  | 0, _, bs, s, c =>
    putBytes s0 c0 s { c with ahead := [] } (c.fld 357 1 == 1) [dst] bs bs.length none false (some (c0.pos / c.esz))
      fun s c => doneAt (c.fld 288 17 * c.esz) s { c with idxs := [] }
  | todo + 1, i, bs, s, c =>
    let z := c.esz
    let first := c0.pos / z
    let stop (x : Nat × AFail) : K :=
      match x.2 with
      | .fail _ (.page _ _) | .stall _ _ => .failed s { c0 with idxs := c.idxs } .read 4 i x
      | _ =>
        if bs.isEmpty then .failed s c .read 4 i x
        else putBytes s0 c0 s { c with ahead := [] } (c.fld 357 1 == 1) [dst] bs bs.length none false (some first) fun s c => .failed s c .read 4 i x
    let elem (s : State) (c : Cmd) (ix : Nat) : K :=
      let x := c.indexed ix
      if x % c.ealign ≠ 0 then stop (x, .fail x (.prot 3))
      else match s.eSegs c (c.fld 356 1 == 1) x z .read with
        | (s1, l, none) => gathSmall s0 c0 dst todo (i + 1) (bs ++ s1.cmdBytes c (segLocs l)) s1 c
        | (_, _, some y) => stop y
    match c.idxs[i - first]? with
    | some ix => elem s c ix
    | none =>
      match s.eSegs c false (c.fld 256 27 + 4 * i) 4 .read with
      | (s1, l, none) => let ix := leNat (s1.cmdBytes c (segLocs l)); elem s1 { c with idxs := c.idxs ++ [ix] } ix
      | (_, _, some y) => stop y

/-- `gath` (09 R304): the next element, or the rest of one; of smaller elements those of a destination word. -/
def gathUnit (s : State) (c : Cmd) : K :=
  let z := c.esz
  let i := c.pos / z
  let o := c.pos % z
  let bg := c.fld 356 1 == 1
  let lg := c.fld 357 1 == 1
  let dst := (c.fld 192 64 + c.pos) % 2 ^ 64
  let fin (s : State) (c : Cmd) : K := doneAt (c.fld 288 17 * z) s (if c.pos % z = 0 then { c with idxs := [] } else c)
  let go (s : State) (ix : Nat) : K :=
    let x := c.indexed ix
    let c1 := { c with idxs := [ix] }
    if x % c.ealign ≠ 0 then .stop s (c.fail 4 x i)
    else if c.fld 13 1 = 1 then withBlock s c1 bg x (z / 128) i true fun s1 bs => putBytes s c1 s1 c1 lg [dst] bs bs.length none true (some i) fin
    else copyChunk s c1 bg (x + o) lg [dst] (z - o) (z - o) (some i) fin
  if z < 4 then gathSmall s c dst (min ((4 - dst % 4) / z) (c.fld 288 17 - i)) i [] s c
  else match c.idxs with
    | ix :: _ => go s ix
    | [] => eRead s c false (c.fld 256 27 + 4 * i) 4 4 i fun s bs => go s (leNat bs)

/-- The elements of a `scat` in command order, from element `i` (09 R304): the cells they write, until one fails; `fin` gets the state, the cells
before the failure, and how it failed. A destination that fails takes nothing of its element; a source that fails, what comes before. -/
def scatFrom (c : Cmd) (fin : State → List (Loc × Byte) → Option (AKind × Nat × Nat × (Nat × AFail)) → K) :
    List Nat → Nat → List (Loc × Byte) → State → K
  | [], _, acc, s => fin s acc none
  | ix :: r, i, acc, s =>
    let z := c.esz
    let x := c.indexed ix
    if x % c.ealign ≠ 0 then fin s acc (some (.write, 3, i, (x, .fail x (.prot 3))))
    else
      let (s1, sl, sf) := s.eSegs c (c.fld 357 1 == 1) ((c.fld 192 64 + i * z) % 2 ^ 64) z .read
      let (s2, dl, df) := s1.eSegs c (c.fld 356 1 == 1) x (segLocs sl).length .write
      match df, sf with
      | some y, _ => fin s2 acc (some (.write, 3, i, y))
      | none, some y => fin s2 (acc ++ (segLocs dl).zip (s2.cmdBytes c (segLocs sl))) (some (.read, 4, i, y))
      | none, none => scatFrom c fin r (i + 1) (acc ++ (segLocs dl).zip (s2.cmdBytes c (segLocs sl))) s2

/-- The elements of a `scat` whose indices are read (09 R304): what can be written is written at one time, so that at an overlap only the highest
index is seen; a missing page lets nothing be written yet. An index list that ends early ends the command. -/
def scatRun (s : State) (c : Cmd) : K :=
  scatFrom c (fun s1 cells f =>
    match f with
    | some (k, _, _, (_, .fail va (.page why lvl))) => .page s1 c va why lvl k
    | some (_, _, _, (_, .stall _ _)) => .hold
    | f =>
      let n := c.idxs.length
      let va := c.fld 256 27 + 4 * n
      delivered s1 c (s1.cmdCells c cells) { c with pos := cells.length } cells.length fun s c =>
        match f with
        | some (_, rsn, i, y) => .stop s (c.fail (y.2.rsn rsn) y.1 i)
        | none => if n < c.fld 288 17 then .stop s (c.fail 4 va n) else .ok s { c with st := .done }) c.idxs 0 [] s

/-- `scat` (09 R304): every index is read once. -/
def scatUnit (s : State) (c : Cmd) : K :=
  if c.idxs.isEmpty then
    let (s1, l, f) := s.eSegs c false (c.fld 256 27) (4 * c.fld 288 17) .read
    let bytes := s1.cmdBytes c (segLocs l)
    let ixs := (List.range (bytes.length / 4)).map fun i => leNat ((bytes.drop (4 * i)).take 4)
    match f with
    | some (_, .stall _ _) => .hold
    | _ => scatRun s1 { c with idxs := ixs }
  else scatRun s c

/-! ## Intersection -/

/-- How the walk of an `xsect` ends (09 R306): the pairs found, and RSN, POS and FADDR. -/
structure Walked where
  pairs : List (Nat × Nat)
  rsn : Nat
  epos : Nat
  faddr : Nat

/-- The walk of `xsect` over two lists (09 R306), at most `fuel` steps. -/
def xsectWalk (a b : List Nat) (la lb out maxp : Nat) : Nat → Nat → Nat → List (Nat × Nat) → Walked
  | 0, _, _, acc => ⟨acc.reverse, 0, 0, 0⟩
  | fuel + 1, i, j, acc =>
    if i ≥ a.length || j ≥ b.length then ⟨acc.reverse, 0, 0, 0⟩
    else
      let x := a.getD i 0
      let y := b.getD j 0
      if i > 0 && x ≤ a.getD (i - 1) 0 then ⟨acc.reverse, 6, i, la + 4 * i⟩
      else if j > 0 && y ≤ b.getD (j - 1) 0 then ⟨acc.reverse, 6, a.length + j, lb + 4 * j⟩
      else if x = y then
        if acc.length = maxp then ⟨acc.reverse, 7, i, out + 8 * maxp⟩
        else xsectWalk a b la lb out maxp fuel (i + 1) (j + 1) ((i, j) :: acc)
      else if x < y then xsectWalk a b la lb out maxp fuel (i + 1) j acc
      else xsectWalk a b la lb out maxp fuel i (j + 1) acc

/-- 32-bit values of bytes. -/
def words32 (bs : List Byte) : List Nat := (List.range (bs.length / 4)).map fun i => leNat ((bs.drop (4 * i)).take 4)

/-- `xsect` (09 R305, R306): the pairs, then the count word, which alone arrives. -/
def xsectUnit (s0 : State) (c : Cmd) : K :=
  let la := c.fld 128 27
  let lb := c.fld 192 27
  let out := c.fld 256 27
  eRead s0 c false la (4 * c.fld 160 17) 4 0 fun s ab =>
    eRead s c false lb (4 * c.fld 224 17) 4 0 fun s bb =>
      let a := words32 ab
      let b := words32 bb
      let w := xsectWalk a b la lb out (c.fld 288 17) (a.length + b.length + 1) 0 0 []
      eWrite s c false out (w.pairs.flatMap fun p => leBytes 4 p.1 ++ leBytes 4 p.2) 3 0 fun s =>
        let c1 := { c with delivered := 8 * w.pairs.length }
        if w.rsn = 6 then .stop s (c1.fail 6 w.faddr w.epos)
        else
          eWrite s c1 false (c.fld 320 27) (leBytes 4 w.pairs.length) 3 0 fun s =>
            delivered s0 c s c1 4 fun s c2 =>
              if w.rsn = 0 then .ok s { c2 with st := .done } else .stop s (c2.fail w.rsn w.faddr w.epos)

end Sys2Proof.Machine
end

