-- ==== Sys2Proof/Machine/KeyCache.lean ====
section
/-! DEFINITION. The key-cache commands: descriptors, block-table entries, pools and the block-table cache (10 R312 to R318), `kvld`
(10 R328, R329) and the modifying commands under the descriptor's lock (10 R324, R330 to R337). -/

namespace Sys2Proof.Machine

/-! ## Descriptors, entries and pools -/

/-- DH of a descriptor (10 R312). -/
def descDh (d : Nat) : Nat := 16 * bits d 184 5

/-- Bytes of an element of KFMT (10 R315). -/
def descZ (d : Nat) : Nat := if bits d 177 4 = 1 then 2 else 1

/-- Bytes of a row (10 R327). -/
def descR (d : Nat) : Nat := descDh d * descZ d

/-- The format of KFMT (10 R312). -/
def descFmt (d : Nat) : Fmt := match bits d 177 4 with | 1 => bf16 | 2 => e4m3 | _ => e5m2

/-- A hardware block pool that a descriptor may name (10 R316). -/
def State.blockPool (s : State) (c : Cmd) (p : Nat) : Option Pool :=
  match s.ownedPool c.part c.asid p with
  | some e => if e.kind = 1 then some e else none
  | none => none

/-- Whether a descriptor keeps 10 R312 and R316. -/
def State.descOk (s : State) (c : Cmd) (d : Nat) : Bool :=
  let pool (p : Nat) : Bool := match s.blockPool c p with | some e => decide (e.bsz ≥ 32 * descR d) | none => false
  bits d 57 6 == 0 && bits d 181 3 == 0 && bits d 189 323 == 0 && bits d 0 57 % 16 == 0 && decide (1 ≤ bits d 128 16)
    && decide (bits d 64 32 ≤ 16 * bits d 128 16) && decide (1 ≤ bits d 177 4) && decide (bits d 177 4 ≤ 3)
    && decide (1 ≤ bits d 184 5) && decide (bits d 184 5 ≤ 16) && pool (bits d 144 16) && pool (bits d 160 16)

/-- The pool of a tier (10 R312, R313). -/
def descPool (d tier : Nat) : Nat := if tier = 0 then bits d 144 16 else bits d 160 16

/-- A block-table entry (10 R313). -/
structure BEnt where
  pbn : Nat
  posb : Nat
  sm : Nat
  v : Bool
  tier : Nat
  topen : Bool
  cw : Bool
  rsv : Nat
  deriving DecidableEq, Repr

/-- An entry from its 16 bytes, as a number. -/
def BEnt.ofNum (n : Nat) : BEnt :=
  { pbn := bits n 0 32, posb := bits n 32 32, sm := bits n 64 16, v := bit n 80, tier := bits n 81 1, topen := bit n 82, cw := bit n 83,
    rsv := bits n 84 44 }

/-- The number of an entry. -/
def BEnt.num (e : BEnt) : Nat :=
  e.pbn % 2 ^ 32 + e.posb % 2 ^ 32 * 2 ^ 32 + e.sm % 2 ^ 16 * 2 ^ 64 + b2n e.v * 2 ^ 80 + e.tier % 2 * 2 ^ 81 + b2n e.topen * 2 ^ 82
    + b2n e.cw * 2 ^ 83

/-- Slots s to 15 of a slot mask. -/
def slotsFrom (s : Nat) : Nat := 2 ^ 16 - 2 ^ (s % 16)

/-- Whether bytes are what a command reads now at a global address. -/
def State.stands (s : State) (c : Cmd) (va : Nat) (bs : List Byte) : Bool :=
  match s.eSegs c true va bs.length .read with
  | (_, l, none) => (segLocs l).map s.rb == bs
  | _ => false

/-- Reads entry `e` of a table through a descriptor (10 R318): the core's cached bytes where it holds them, else the entry, which is then
cached. Replacement, which is not architectural, may have dropped what is cached: a free choice (log entry 107). An entry with a reserved bit set stops the
command (10 R323). -/
def readEntry (s : State) (c : Cmd) (dva d e epos : Nat) (go : State → BEnt → K) : K :=
  let va := bits d 0 57 + 16 * e
  let core := c.core
  let use (s : State) (bs : List Byte) : K :=
    let x := BEnt.ofNum (leNat bs)
    if x.rsv ≠ 0 then .stop s (c.fail 13 dva epos) else go s x
  let fill : K := eRead s c true va 16 4 epos fun s bs =>
    use (s.setCore core { s.core core with btc := ⟨c.asid, va, dva, bs⟩ :: (s.core core).btc.filter fun x => !(x.asid == c.asid && x.va == va) }) bs
  match (s.core core).btc.find? fun x => x.asid = c.asid && x.va = va with
  | some x => if !s.stands c va x.bytes && Config.dropped s.fresh va then fill else use s x.bytes
  | none => fill

/-- Writes entry `e` as one 16-byte write that is a release, and invalidates it in every core of the partition (10 R318, R324). -/
def writeEntry (s : State) (c : Cmd) (d e : Nat) (x : BEnt) (epos : Nat) (go : State → K) : K :=
  let va := bits d 0 57 + 16 * e
  eWriteWith State.cmdRelease s c true va (leBytes 16 x.num) 3 epos fun s =>
    go { s with cores := s.cores.map fun (y : Nat × Core) =>
      if (s.part c.part).dies.testBit (dieOf y.1) then
        (y.1, { y.2 with btc := y.2.btc.filter fun z => !(z.asid == c.asid && z.va == va) })
      else y }

/-- Goes on with a pool as it stands at an update (14 R429); a pool that is not owned stops the command. -/
def withPool (s : State) (c : Cmd) (p epos : Nat) (go : Pool → K) : K :=
  match s.blockPool c p with
  | some e => go e
  | none => .stop s (c.fail 14 (c.fld 128 64) epos)

/-- The record of a block with a new ST (10 R316). -/
def recSt (old st : Nat) : Nat := bits old 0 24 + st * 2 ^ 24

/-- Adds a reference to a block (10 R317); RC wraps in its 24 bits (log entry 114). -/
def rcInc (s : State) (c : Cmd) (p b epos : Nat) (go : State → K) : K :=
  withPool s c p epos fun e =>
    eRmw s c true (e.rcb + 4 * b) 4 3 epos (fun old => some (old / 2 ^ 24 * 2 ^ 24 + (old + 1) % 2 ^ 24)) fun s _ => go s

/-- Drops a reference to a block; at 0 the block waits in the deferred-free queue, and a full queue holds the command (10 R317, 14
R428). RC wraps in its 24 bits (log entry 114). -/
def rcDec (s : State) (c : Cmd) (p b epos : Nat) (go : State → K) : K :=
  withPool s c p epos fun e =>
    let dec (old : Nat) : Nat := (bits old 0 24 + 2 ^ 24 - 1) % 2 ^ 24
    eRmw s c true (e.rcb + 4 * b) 4 3 epos
      (fun old => some (if dec old = 0 then 2 * 2 ^ 24 else old / 2 ^ 24 * 2 ^ 24 + dec old)) fun s old =>
        if dec old ≠ 0 then go s
        else if (s.part c.part).dfqFull then .hold
        else go (s.dfAppend c.part (e.base + b * e.bsz) 0 p)

/-- Frees a block that no entry names (10 R317): ST := 0. -/
def freeBlock (s : State) (c : Cmd) (p b : Nat) : State :=
  match s.blockPool c p with
  | none => s
  | some e =>
    match eRmw s c true (e.rcb + 4 * b) 4 3 0 (fun old => some (recSt old 0)) fun s _ => .ok s c with
    | .ok s1 _ => s1
    | _ => s

/-- Allocates a block with ST = 0 of a pool (10 R317); `choice` picks among them. A command that ends early in `go`, before an entry
names the block, returns it at once. -/
def withAlloc (s : State) (c : Cmd) (choice p epos : Nat) (go : State → Nat → K) : K :=
  withPool s c p epos fun e =>
    eRead s c true e.rcb (4 * e.nblk) 4 epos fun s bs =>
      let free := (List.range e.nblk).filter fun b => bits (leNat ((bs.drop (4 * b)).take 4)) 24 2 == 0
      match free[choice % max free.length 1]? with
      | none => .stop s (c.fail 11 (c.fld 128 64) epos)
      | some b =>
        eWrite s c true (e.rcb + 4 * b) (leBytes 4 (1 + 2 ^ 24)) 3 epos fun s =>
          match go s b with
          | .stop s1 c1 => .stop (freeBlock s1 c1 p b) c1
          | k => k

/-- Goes on after a unit's part that is done. -/
def K.andThen (k : K) (f : State → Cmd → K) : K :=
  match k with
  | .ok s c => f s c
  | k => k

/-! ## Loading -/

/-- DFMT of `kvld` (10 R328): format, bytes, saturation. -/
def dfmt (n : Nat) : Fmt × Nat × Bool :=
  match n with
  | 0 => (fp32, 4, false)
  | 1 => (bf16, 2, false)
  | 2 => (e4m3, 1, true)
  | _ => (e5m2, 1, true)

/-- The elements of a row in the destination format (10 R329), as far as the bytes go: keys by pairs, rotated for position `p`. -/
def kvRow (d : Nat) (vals : Bool) (df : Nat) (fq : Tab W32) (p : W32) (bs : List Byte) : List Byte :=
  let z := descZ d
  let (t, zd, sat) := dfmt df
  let el (i : Nat) : FV := (descFmt d).dec (leNat ((bs.drop (z * i)).take z))
  let out (x : FV) : List Byte := leBytes zd (t.round .rne sat x).1
  if vals then (List.range (bs.length / z)).flatMap fun i => out (el i)
  else
    (List.range (bs.length / (2 * z))).flatMap fun i =>
      let y := rotatePair (rotary (phase p (fqAt fq i))) (flOf (el (2 * i))) (flOf (el (2 * i + 1)))
      out (dec32 y.1.1) ++ out (dec32 y.2.1)

/-- Whether `kvld` attends a slot at a position (10 R329). -/
def Cmd.attends (c : Cmd) (p : W32) : Bool :=
  let q := sxInt 32 (c.fld 304 32)
  !(c.fld 300 1 == 1 && decide (p.toInt > q)) && !(c.fld 336 32 ≠ 0 && decide (q - p.toInt ≥ (c.fld 336 32 : Nat)))

/-- Writes a row of `kvld` and goes on to the next (10 R329): `bs` may be the part of a row that a fault leaves. -/
def kvPut (s0 : State) (c : Cmd) (bs : List Byte) (go : State → Cmd → K) : K :=
  let n := descDh c.desc * (dfmt (c.fld 220 3)).2.1
  eWrite s0 c false (c.fld 192 27 + c.pos * n) bs 3 c.pos fun s => delivered s0 c s c bs.length go

/-- `kvld`: the next row, or after the last the mask bytes (10 R329). -/
def kvldUnit (s : State) (c : Cmd) : K :=
  let d := c.desc
  let nt := c.fld 256 11
  let vals := c.fld 219 1 == 1
  let n := descDh d * (dfmt (c.fld 220 3)).2.1
  if c.pos < nt then
    let t := c.fld 224 32 + c.pos
    let go (att : Bool) (s : State) (c : Cmd) : K :=
      let c1 := { c with pos := c.pos + 1, idxs := c.idxs ++ [b2n att] }
      .ok s (if c1.pos = nt && c.fld 299 1 = 0 then { c1 with st := .done } else c1)
    let skip (s : State) : K := kvPut s c (List.replicate n 0#8) (go false)
    if t ≥ bits d 64 32 then skip s
    else
      readEntry s c (c.fld 128 64) d (t / 16) t fun s e =>
        let p : W32 := BitVec.ofNat 32 (e.posb + t % 16)
        if !e.v || e.sm.testBit (t % 16) || !c.attends p then skip s
        else
          withPool s c (descPool d e.tier) t fun pl =>
            if e.pbn ≥ pl.nblk then .stop s (c.fail 13 (c.fld 128 64) t)
            else
              let a := pl.base + e.pbn * pl.bsz + ((if vals then 16 else 0) + t % 16) * descR d
              match s.eSegs c true a (descR d) .read with
              | (s1, l, none) => kvPut s1 c (kvRow d vals (c.fld 220 3) c.fq p ((segLocs l).map s1.rb)) (go true)
              | (s1, l, some x) =>
                (match x.2 with
                 | .fail _ (.prot _) | .fail _ .mce =>
                   kvPut s1 c (kvRow d vals (c.fld 220 3) c.fq p ((segLocs l).map s1.rb)) fun s c => .failed s c .read 4 t x
                 | _ => .failed s1 c .read 4 t x)
  else
    let bytes := (List.range ((nt + 7) / 8)).map fun i =>
      BitVec.ofNat 8 ((List.range 8).foldl (fun acc k => acc + c.idxs.getD (8 * i + k) 0 * 2 ^ k) 0)
    eWrite s c false (c.fld 272 27) bytes 3 c.pos fun t => delivered s c t c bytes.length fun s c => .ok s { c with st := .done }

/-! ## Modifying commands -/

/-- The last step of a modifying command (10 R324): the descriptor with LEN and NPOS, LOCK cleared, under the translation of the lock; bytes 4 to 7
last, as a release. -/
def finalDesc (s : State) (c : Cmd) : K :=
  let d := c.desc
  let n := bits d 0 63 + c.len % 2 ^ 32 * 2 ^ 64 + c.npos % 2 ^ 32 * 2 ^ 96 + d / 2 ^ 128 * 2 ^ 128
  let cells := (List.range 64).zipWith (fun i b => (Loc.gpa (c.descPa + i), b)) (leBytes 64 n)
  let s1 := s.cmdCells c (cells.take 4 ++ cells.drop 8)
  delivered s c (s1.cmdRelease c ((cells.drop 4).take 4)) c 64 fun s c => .ok s { c with st := .done }

/-- Copies a source row into a block, the longest accessible prefix (10 R330, R293). -/
def putRow (s : State) (c : Cmd) (src dst t : Nat) (go : State → Cmd → K) : K :=
  let p0 := c.pos
  copyChunk s c false src true [dst] (descR c.desc) (descR c.desc) (some t) fun s c => go s { c with pos := p0, ahead := [] }

/-- Writes one token into slot `t` of the block of entry `e` (10 R331 to R333): the copy step, the rows, the entry, and the release of
the block that was shared. -/
def writeToken (s : State) (c : Cmd) (choice t : Nat) (x : BEnt) (keys vals clr : Bool) (go : State → Cmd → K) : K :=
  let d := c.desc
  let pid := descPool d x.tier
  let j := c.pos
  let n := c.fld 256 9
  let r := descR d
  let src := c.fld 192 27
  let sl := t % 16
  withPool s c pid t fun pl =>
    if !x.v || x.pbn ≥ pl.nblk then .stop s (c.fail 13 (c.fld 128 64) t)
    else
      let rows (s : State) (pbn : Nat) : K :=
        let blk := pl.base + pbn * pl.bsz
        let ent := { x with pbn := pbn, cw := false, sm := if clr then x.sm &&& (2 ^ 16 - 1 - 2 ^ sl) else x.sm }
        let value (s : State) (c : Cmd) : K :=
          let fin (s : State) (c : Cmd) : K := writeEntry s c d (t / 16) ent t fun s => .ok s c
          if vals then putRow s c (src + (if keys then n + j else j) * r) (blk + (16 + sl) * r) t fin else fin s c
        if keys then putRow s c (src + j * r) (blk + sl * r) t value else value s c
      eRead s c true (pl.rcb + 4 * x.pbn) 4 4 t fun s bs =>
        if bits (leNat bs) 0 24 > 1 then
          (withAlloc s c choice pid t fun s nb =>
            eRead s c true (pl.base + x.pbn * pl.bsz) pl.bsz 4 t fun s old =>
              eWrite s c true (pl.base + nb * pl.bsz) old 3 t fun s => rows s nb).andThen fun s c =>
                rcDec s c pid x.pbn t fun s => go s c
        else (rows s x.pbn).andThen go

/-- `kvapp`: the next token (10 R332). -/
def appUnit (s : State) (c : Cmd) (choice : Nat) : K :=
  let d := c.desc
  let dva := c.fld 128 64
  let fin (t : Nat) (s : State) (c : Cmd) : K := .ok s { c with len := t + 1, npos := (c.npos + 1) % 2 ^ 32, pos := c.pos + 1 }
  let fresh (s : State) (c : Cmd) : K :=
    let t := c.len
    if t = 16 * bits d 128 16 then .stop s (c.fail 12 dva t)
    else
      withAlloc s c choice (descPool d (bits d 176 1)) t fun s nb =>
        writeToken s c choice t
          { pbn := nb, posb := c.npos, sm := 2 ^ 16 - 1, v := true, tier := bits d 176 1, topen := true, cw := false, rsv := 0 }
          true true true (fin t)
  if c.len % 16 = 0 then fresh s c
  else
    readEntry s c dva d (c.len / 16) c.len fun s x =>
      if !x.topen || (x.posb + c.len % 16) % 2 ^ 32 ≠ c.npos then
        writeEntry s c d (c.len / 16) { x with sm := x.sm ||| slotsFrom c.len, topen := false } c.len fun s =>
          fresh s { c with len := 16 * (c.len / 16 + 1) }
      else writeToken s c choice c.len x true true true (fin c.len)

/-- `kvwr`: the next token (10 R333). -/
def wrUnit (s : State) (c : Cmd) (choice : Nat) : K :=
  let t := c.fld 224 32 + c.pos
  let dva := c.fld 128 64
  if t ≥ c.len then .stop s (c.fail 13 dva t)
  else
    readEntry s c dva c.desc (t / 16) t fun s x =>
      writeToken s c choice t x (c.fld 272 1 == 1) (c.fld 273 1 == 1) (c.fld 274 1 == 1) fun s c => .ok s { c with pos := c.pos + 1 }

/-- `kvtrim`: the next entry, then the kept partial block and NPOS (10 R334). -/
def trimUnit (s : State) (c : Cmd) : K :=
  let d := c.desc
  let dva := c.fld 128 64
  let nl := c.fld 192 32
  let e := (nl + 15) / 16 + c.pos
  let next (s : State) (c : Cmd) : K := .ok s { c with pos := c.pos + 1 }
  if nl > c.len then .stop s (c.fail 2 0 0)
  else if 16 * e < c.len then
    readEntry s c dva d e e fun s x =>
      let put (s : State) : K := writeEntry s c d e { x with v := false } e fun s => next s c
      if !x.v then put s
      else
        withPool s c (descPool d x.tier) e fun pl =>
          if x.pbn ≥ pl.nblk then .stop s (c.fail 13 dva e)
          else rcDec s c (descPool d x.tier) x.pbn e put
  else
    let fin (s : State) (npos : Nat) : K := next s { c with len := nl, npos := npos % 2 ^ 32 }
    if nl % 16 ≠ 0 then
      readEntry s c dva d (nl / 16) (nl / 16) fun s x =>
        writeEntry s c d (nl / 16) { x with sm := x.sm ||| slotsFrom nl, topen := true } (nl / 16) fun s => fin s (x.posb + nl % 16)
    else if nl > 0 then readEntry s c dva d (nl / 16 - 1) (nl / 16 - 1) fun s x => fin s (x.posb + 16)
    else fin s c.npos

/-- Units of a `kvtrim`: its entries and the last step. -/
def trimUnits (c : Cmd) : Nat := (bits c.desc 64 32 + 15) / 16 - (c.fld 192 32 + 15) / 16 + 1

/-- `kvsplice`: the source is read and the tail closed; then an entry a unit (10 R336). POS is the destination entry. -/
def spliceUnit (s : State) (c : Cmd) : K :=
  let d := c.desc
  let dva := c.fld 128 64
  let sva := c.fld 192 64
  let nc := c.fld 272 16
  let here := c.len / 16
  if c.pos = 0 then
    eRead s c true sva 64 4 here fun s bs =>
      let sd := leNat bs
      let c1 := { c with sdesc := sd, pos := 1 }
      if !s.descOk c sd then .stop s (c.fail 14 sva here)
      else if c.len % 16 = 0 then .ok s c1
      else
        readEntry s c dva d here here fun s x =>
          writeEntry s c d here { x with sm := x.sm ||| slotsFrom c.len, topen := false } here fun s => .ok s { c1 with len := 16 * (here + 1) }
  else
    let i := c.pos - 1
    let se := c.fld 256 16 + i
    if se ≥ bits c.sdesc 128 16 then .stop s (c.fail 13 sva here)
    else
      readEntry s c sva c.sdesc se here fun s x =>
        withPool s c (descPool d x.tier) here fun pl =>
          if !x.v || bits c.sdesc 144 32 ≠ bits d 144 32 || x.pbn ≥ pl.nblk then .stop s (c.fail 13 sva here)
          else if c.len = 16 * bits d 128 16 then .stop s (c.fail 12 dva here)
          else
            rcInc s c (descPool d x.tier) x.pbn here fun s =>
              let sm := x.sm ||| (if i = 0 then c.fld 320 16 else 0) ||| (if i = nc - 1 then c.fld 336 16 else 0)
              let y := { x with posb := (x.posb + c.fld 288 32) % 2 ^ 32, sm := sm, topen := false, cw := true }
              writeEntry s c d here y here fun s =>
                .ok s { c with len := c.len + 16, pos := c.pos + 1,
                               npos := if i = nc - 1 && c.fld 384 1 = 0 then c.fld 352 32 else c.npos }

/-- `kvshift`: the next entry; NPOS with the last (10 R337). -/
def shiftUnit (s : State) (c : Cmd) : K :=
  let ne := c.fld 208 16
  let e := c.fld 192 16 + c.pos
  let delta := c.fld 224 32
  if c.fld 192 16 + ne > (c.len + 15) / 16 then .stop s (c.fail 2 0 0)
  else
    readEntry s c (c.fld 128 64) c.desc e e fun s x =>
      writeEntry s c c.desc e { x with posb := (x.posb + delta) % 2 ^ 32 } e fun s =>
        .ok s { c with pos := c.pos + 1,
                       npos := if c.pos + 1 = ne && c.fld 256 1 = 1 then (c.npos + delta) % 2 ^ 32 else c.npos }

/-- A unit of a modifying command that holds its lock: the next of its steps, and at its end or after a stop the descriptor. -/
def kvUnit (s : State) (c : Cmd) (choice : Nat) : K :=
  if c.rsn ≠ 0 then finalDesc s c
  else
    match c.word with
    | 17 => if c.pos < c.fld 256 9 then appUnit s c choice else finalDesc s c
    | 18 => if c.pos < c.fld 256 9 then wrUnit s c choice else finalDesc s c
    | 19 => if c.fld 192 32 > c.len || c.pos < trimUnits c then trimUnit s c else finalDesc s c
    | 20 => if c.pos ≤ c.fld 272 16 then spliceUnit s c else finalDesc s c
    | _ => if c.pos < c.fld 208 16 then shiftUnit s c else finalDesc s c

/-- Tries to take the lock of a descriptor (10 R324): while it is held the command waits; then the descriptor is read and judged. -/
def lockTry (s : State) (c : Cmd) : K :=
  let dva := c.fld 128 64
  match s.eSegs c true dva 64 .rmw with
  | (s1, [(.gpa pa, _)], none) =>
    let old := s1.rnum pa 64
    if bit old 63 then .hold
    else
      let c1 := { c with st := .active, desc := old, descPa := pa, len := bits old 64 32, npos := bits old 96 32 }
      .ok (s1.putCells ((List.range 8).zipWith (fun i b => (Loc.gpa (pa + i), b)) (leBytes 8 (bits old 0 63 + 2 ^ 63)))) (if s1.descOk c old then c1 else c1.fail 14 dva 0)
  | (s1, _, some x) => .failed s1 c .rmw 3 0 x
  | (s1, _, none) => .stop s1 (c.fail 3 dva 0)

end Sys2Proof.Machine
end

