-- ==== Sys2Proof/Machine/EngineEvents.lean ====
section
/-! DEFINITION. The engines' own events: acceptance (09 R288 to R290, R296, R302; 10 R322), delivery (09 R291 to R293), the end of a command
(09 R294, R295; 08 R282), and the wait for a descriptor's lock (10 R324). -/

namespace Sys2Proof.Machine

/-- Replaces the command of an engine slot. -/
def State.setCmd (s : State) (k : Nat) (c : Cmd) : State := s.setEng k { s.eng k with cmd := some c }

/-- Suspends a command at a page (09 R290, R292): a fault record covers it. -/
def State.suspend (s : State) (k : Nat) (c : Cmd) (va why lvl : Nat) (kind : AKind) : State :=
  let (p, fid) := (s.part c.part).attach c.asid (va, why, lvl) kind.code (1 + c.eng) (dieOf c.core) (c.core % Config.nSites) (.engine k)
  (s.setPart c.part p).setCmd k { c with susp := some fid }

/-! ## The end of a command -/

/-- Marks a tile of the issuing group invalid with ILR = 10, in its slot or in its frame (08 R282). -/
def State.markTile (s : State) (c : Cmd) (tile : Nat) : State :=
  match s.findGroup c.lid c.team c.gid with
  | some gk => s.setGroup gk ((s.group gk).markInvalid tile 10)
  | none =>
    match s.findSaved c.lid c.team c.gid with
    | some v =>
      let a := v.addr + 8 * 256 + 4 * tile
      let old := s.rnum a 4
      s.wnum a 4 (old / 2 ^ 12 * 2 ^ 12 + bits old 1 7 * 2 + 1 + 10 * 256)
    | none => s

/-- The 32 bytes of the error record (09 R295). RSV is 0 where no byte was delivered (log entry 113). -/
def Cmd.record (c : Cmd) : List Byte :=
  leBytes 8 (c.token.toNat % 2 ^ 32 + c.fld 0 8 * 2 ^ 32 + c.rsn * 2 ^ 40 + c.test * 2 ^ 48
      + (if c.word = 2 && c.delivered > 0 then c.served % 2 ^ 12 else 0) * 2 ^ 52)
    ++ leBytes 8 c.delivered ++ leBytes 8 c.faddr ++ leBytes 8 (c.epos % 2 ^ 32)

/-- Whether a read section is not yet counted ended: its group holds it open, or waits for accesses (05 R157). -/
def State.secOpen (s : State) (c : Cmd) (sec : Nat) : Bool :=
  let opn (g : Group) : Bool := g.lid == c.lid && g.team == c.team && g.gid == c.gid
    && ((decide (g.rsd > 0) && g.sec == sec) || g.ends.any (fun e => e.sec == sec))
  s.groups.any (fun e => opn e.2) || s.saved.any (fun v => opn v.grp)

/-- A command that protected a read section has ended: with the last of them, a section whose end was counted leaves KC (14 R424). -/
def State.releaseSec (before after : State) (c : Cmd) : State :=
  match c.sec with
  | none => after
  | some (sec, col) =>
    if after.secOpen c sec then after
    else
      match before.secCore sec, after.secCore sec with
      | some a, some b => if a = b then after else after.setPart c.part (((after.part c.part).decKc a col).incKc b col)
      | some a, none => after.setPart c.part ((after.part c.part).decKc a col)
      | none, _ => after

/-- The queue of a team on an engine. -/
def Team.queue (t : Team) (eng : Nat) : Queue := if eng = 0 then t.cq else t.gq

/-- Replaces the queue of a team on an engine. -/
def Team.setQueue (t : Team) (eng : Nat) (q : Queue) : Team := if eng = 0 then { t with cq := q } else { t with gq := q }

/-- Halts the queue of a command (09 R294 step 5). -/
def Team.halt (t : Team) (eng : Nat) : Team :=
  if eng = 0 then { t with cq := { t.cq with halted := true, handed := t.cq.handed && t.cq.halted } }
  else { t with gq := { t.gq with halted := true, handed := t.gq.handed && t.gq.halted } }

/-- The lowest-numbered slot of a team's core that holds a group of the team (13 R397). -/
def State.lowSlot (s : State) (team : Nat) : Option Nat :=
  (s.groups.find? fun e => e.2.team == team && !e.2.ctl).map fun e => slotOf e.1

/-- The queue of a team halts (09 R294 step 5, R296): a halt that begins is an event of the team's core (13 R397). The control group's own
queues give no event (log entry 52). -/
def State.haltQueue (s : State) (team eng : Nat) : State :=
  let t := s.team team
  let s1 := s.setTeam team (t.halt eng)
  if (t.queue eng).halted || decide (team ≥ 2 ^ 32) then s1
  else s1.setCore t.core ((s1.core t.core).addEvent
    ⟨(s1.die (dieOf t.core)).cyc, (s1.lowSlot team).getD 127, 2, team * 2 + eng⟩)

/-- The teams of a team's cluster: a command may have named the scratchpad of any of them (01 R26). -/
def State.clusterTeams (s : State) (team : Nat) : List Nat :=
  (s.teams.filter fun e => e.2.cluster == (s.team team).cluster).map (·.1)

/-- Ends a command (09 R294): tile, record, withdrawal, status, halt, in this order; then the token's waiters, the read section and the
team are served. A phaser's page that is not there suspends the end. -/
def State.endCmd (s : State) (k : Nat) (c : Cmd) : State :=
  let err := decide (c.rsn ≠ 0)
  let s1 := if err && c.fld 20 1 = 1 && decide (c.fld 16 4 < c.nt) then s.markTile c (c.fld 16 4) else s
  let s2 := if err then s1.cmdCells c ((List.range 32).zipWith (fun i b => (Loc.sp c.team (c.fld 32 27 + i), b)) c.record) else s1
  match eArrive true (2 ^ 48) c.counted [] s2 c fun s c => .ok s c with
  | .page _ _ va why lvl kind => s.suspend k { c with st := .done } va why lvl kind
  | .hold => s.setCmd k { c with st := .done }
  | .stop s3 _ | .ok s3 _ =>
    let status := if !err then 1 else if c.delivered > 0 then 2 else 3
    let s4 := s3.setEng k { s3.eng k with status := status, cmd := none, held := err,
                                            past := (c.token.toNat % 2 ^ 32, s3.cmdSync c true) :: (s3.eng k).past }
    let s5 := if err then s4.haltQueue c.team c.eng else s4
    ((((s3.releaseSec s5 c).wakeTokens).clusterTeams c.team).foldl State.tryEndTeam ((s3.releaseSec s5 c).wakeTokens)).tryEndLaunch c.lid

/-- ENGINE_COMMAND_END (09 R294): a command that has stopped or delivered everything ends. -/
def execEngineCommandEnd (slot : Nat) (s : State) : Host.Outcome State Fault Refusal :=
  match (s.eng slot).cmd with
  | some c => .next (if c.st = .done && c.susp.isNone then s.endCmd slot c else s)
  | none => .next s

/-! ## Acceptance -/

/-- Whether a bit that the body of a kind marks reserved is set (09 R289, R300 to R305; 10 R328 to R337). -/
def Cmd.bodyReserved (c : Cmd) : Bool :=
  let z (l : List (Nat × Nat)) : Bool := l.any fun r => c.fld r.1 (r.2 + 1 - r.1) ≠ 0
  match c.word with
  | 1 => z [(306, 319), (384, 511)]
  | 2 => z [(214, 255), (301, 511)]
  | 3 | 4 => z [(283, 287), (305, 319), (358, 511)]
  | 5 => z [(155, 159), (177, 191), (219, 223), (241, 255), (283, 287), (305, 319), (347, 511)]
  | 16 => z [(223, 223), (267, 271), (301, 303), (368, 511)]
  | 17 | 18 => z [(219, 223), (265, 271), (275, 511)]
  | 19 => z [(224, 511)]
  | 20 => z [(385, 511)]
  | _ => z [(257, 511)]

/-- Whether SPL is set on a kind that does not allow it (09 R299, 10 R322). -/
def Cmd.badSpl (c : Cmd) : Bool := c.fld 13 1 = 1 && decide (c.word > 3)

/-- A phaser handle of a block that breaks 07 R235, or for `cpym` one that 09 R301 does not allow. -/
def State.badPh (s : State) (c : Cmd) : Bool :=
  let a := c.fld 64 57
  c.fld 15 1 = 1
    && (c.fld 121 6 ≠ 0 || a % 32 ≠ 0
      || (if c.word = 2 then c.fld 127 1 = 0 || decide (a ≥ 2 ^ 22) || decide (a + 32 > (s.team c.team).spb)
          else c.fld 127 1 = 1 && (match s.eSegs c false a 32 .rmw with
            | (_, _, some (_, .fail _ _)) => true
            | _ => false)))

/-- A header fault: RSN 1 (09 R290). -/
def State.headerBad (s : State) (c : Cmd) : Bool :=
  c.fld 0 8 ≠ c.word || c.fld 21 11 ≠ 0 || c.fld 59 5 ≠ 0 || c.fld 8 3 = 7 || (c.fld 20 1 = 1 && decide (c.fld 16 4 ≥ c.nt)) || s.badPh c
    || c.badSpl || c.bodyReserved

/-- A body field outside its limits: RSN 2, or RSN 14 for the address of a descriptor (09 R290, R299 to R305; 10 R323, R328 to R337);
0 where there is none. The address of the descriptor comes with it. The alignment of split blocks is that of 09 R299 and R303, not the one of 04
R123 (log entry 98). -/
def Cmd.bodyBad (c : Cmd) : Nat × Nat :=
  let spl := c.fld 13 1 = 1
  let two (b : Bool) : Nat × Nat := (if b then 2 else 0, 0)
  let desc (b : Bool) : Nat × Nat :=
    if c.fld 128 64 % 64 ≠ 0 then (14, c.fld 128 64)
    else if c.word = 20 && c.fld 192 64 % 64 ≠ 0 then (14, c.fld 192 64)
    else two b
  let al (lo n m : Nat) : Bool := c.fld lo n % m ≠ 0
  match c.word with
  | 1 => two (c.fld 256 32 = 0 || decide (c.fld 256 32 > 2 ^ 31) || c.fld 288 16 = 0
      || (spl && (al 256 32 128 || al 128 64 128 || al 192 64 128 || c.fld 288 16 ≠ 1)))
  | 2 => two (c.fld 256 32 = 0 || decide (c.fld 256 32 > 2 ^ 22) || c.fld 288 12 = 0
      || (spl && (al 256 32 128 || al 128 64 128 || al 192 22 128)))
  | 3 | 4 => two (al 256 27 4 || c.fld 288 17 = 0 || decide (c.fld 288 17 > 65536) || decide (c.fld 352 4 > 11)
      || al 192 64 c.ealign || (spl && decide (c.fld 352 4 < 4)))
  | 5 => two (al 128 27 4 || decide (c.fld 160 17 > 65536) || al 192 27 4 || decide (c.fld 224 17 > 65536) || al 256 27 8
      || c.fld 288 17 = 0 || decide (c.fld 288 17 > 65536) || al 320 27 4)
  | 16 => desc (decide (c.fld 220 3 > 3) || al 192 27 128 || c.fld 214 1 = 1 || c.fld 256 11 = 0 || decide (c.fld 256 11 > 1024))
  | 17 => desc (c.fld 256 9 = 0 || decide (c.fld 256 9 > 256) || c.fld 272 2 ≠ 3 || c.fld 274 1 ≠ 0 || c.fld 224 32 ≠ 0)
  | 18 => desc (c.fld 256 9 = 0 || decide (c.fld 256 9 > 256) || c.fld 272 2 = 0)
  | 19 => desc false
  | 20 => desc (c.fld 272 16 = 0 || (c.fld 384 1 = 1 && c.fld 352 32 ≠ 0))
  | _ => desc (c.fld 208 16 = 0)

/-- The ranges that acceptance checks as destinations (09 R290): global, address, length, access; then, for `xsect`, its lists. -/
def Cmd.dests (c : Cmd) (d : Nat) : List (Bool × Nat × Nat × AKind) :=
  match c.word with
  | 1 => (List.range (c.fld 288 16)).map fun (r : Nat) =>
      (c.fld 305 1 == 1, c.rowAt 192 352 r, c.fld 256 32, .write)
  | 3 => [(c.fld 357 1 == 1, c.fld 192 64, c.fld 288 17 * c.esz, .write)]
  | 5 => [(false, c.fld 256 27, 8 * c.fld 288 17, .write), (false, c.fld 320 27, 4, .write), (false, c.fld 128 27, 4 * c.fld 160 17, .read),
          (false, c.fld 192 27, 4 * c.fld 224 17, .read)]
  | 16 => (false, c.fld 192 27, c.fld 256 11 * descDh d * (dfmt (c.fld 220 3)).2.1, .write)
      :: (if c.fld 299 1 = 1 then [(false, c.fld 272 27, (c.fld 256 11 + 7) / 8, .write)] else [])
  | 17 | 18 | 19 | 20 | 21 => [(true, c.fld 128 64, 64, .rmw)]
  | _ => []

/-- Checks ranges in order: a failing destination stops with RSN 3, a failing list with RSN 4. For `xsect`, FADDR is the address of the
range that fails (09 R305; log entry 44). -/
def checkRanges (c : Cmd) (go : State → K) : List (Bool × Nat × Nat × AKind) → State → K
  | [], s => go s
  | (glob, a, n, k) :: r, s =>
    match s.eSegs c glob a n k with
    | (s1, _, none) => checkRanges c go r s1
    | (s1, _, some x) => .failed s1 c k (if k = .read then 4 else 3) 0 (if c.word = 5 then (a, x.2) else x)

/-- The bytes of W(c) (09 R300 to R306, 10 R327), once the descriptor is known. -/
def Cmd.wlen (c : Cmd) (d : Nat) : Nat :=
  match c.word with
  | 1 => c.fld 256 32 * c.fld 288 16
  | 2 => c.fld 256 32
  | 3 | 4 => c.fld 288 17 * c.esz
  | 5 => 4
  | 16 => c.fld 256 11 * descDh d * (dfmt (c.fld 220 3)).2.1 + (if c.fld 299 1 = 1 then (c.fld 256 11 + 7) / 8 else 0)
  | 17 => c.fld 256 9 * 2 * descR d + 64
  | 18 => c.fld 256 9 * descR d * (c.fld 272 1 + c.fld 273 1) + 64
  | _ => 64

/-- The phasers of a command (09 R290, R301): one of each served receiver for `cpym`. -/
def Cmd.phasers (c : Cmd) : List (Bool × Nat) :=
  if c.fld 15 1 = 0 then []
  else if c.word = 2 then (ranksOf c.served).map fun r => (false, windowAddr (c.fld 64 22) r)
  else [(c.fld 127 1 == 0, c.fld 64 57)]

/-- Counts W(c) into the phasers of a command (07 R245): all of them are tested before any is changed; then the command runs. -/
def countPhasers (c : Cmd) (n : Nat) (s : State) : K :=
  let step (acc : State × List (Loc × Bool × Nat) × Option (Nat × AFail)) (x : Bool × Nat) :=
    match acc.2.2 with
    | some _ => acc
    | none =>
      match acc.1.eSegs c x.1 x.2 32 .rmw with
      | (s1, (l, _) :: _, none) => (s1, acc.2.1 ++ [(l, x)], none)
      | (s1, _, f) => (s1, acc.2.1, f)
  match c.phasers.foldl step (s, [], none) with
  | (s1, _, some x) => .failed s1 c .rmw 3 0 (c.fld 64 57, x.2)
  | (s1, l, none) =>
    if l.any fun x => decide ((s1.phaser x.1).count + n > 2 ^ 48 - 1) then .stop s1 (c.fail 9 0 0)
    else
      let s2 := l.foldl (fun t x => t.setPhaser x.1 { t.phaser x.1 with count := (t.phaser x.1).count + n }) s1
      .ok s2 { c with counted := l.map (fun x => ⟨x.2.1, x.2.2, n⟩), st := if c.word > 16 then .lockWait else .active,
                      sfloor := max c.sfloor s2.now }

/-- The receivers of a `cpym` that pass, or the first member that must be waited for (09 R302). -/
def State.receivers (s : State) (c : Cmd) : Option Nat :=
  let t := s.team c.team
  let cl := s.cluster t.cluster
  let pass := (ranksOf (c.fld 288 12)).filter fun r => decide (r < cl.cores.length) && decide (c.fld 192 22 + c.fld 256 32 ≤ t.spb)
  if pass.all fun r => match s.saccess c.team (windowAddr (c.fld 192 22) r) 1 with | .ok _ => true | _ => false then
    some (pass.foldl (fun m r => m ||| 2 ^ r) 0)
  else none

/-- Whether a command names a member of its cluster that cannot be reached now, by a source or a list too (01 R30, 09 R290). -/
def State.namesAbsent (s : State) (c : Cmd) : Bool :=
  c.ranks.any fun r => match s.saccess c.team (windowAddr 0 r) 0 with | .error (.stall _ _) => true | _ => false

/-- The acceptance tests of a command after the halt test (09 R290, R302; 10 R323). -/
def acceptTests (s : State) (c : Cmd) : K :=
  if s.headerBad c then .stop s (c.fail 1 0 0)
  else if c.bodyBad.1 ≠ 0 then .stop s (c.fail c.bodyBad.1 c.bodyBad.2 0)
  else if c.word = 2 then
    match s.receivers c with
    | none => .hold
    | some 0 => .stop s (c.fail 3 (windowAddr (c.fld 192 22) ((ranksOf (c.fld 288 12)).headD 0)) 0)
    | some m => if s.namesAbsent c then .hold else countPhasers { c with served := m } (c.wlen 0) s
  else if c.word < 16 then checkRanges c (fun s => if s.namesAbsent c then .hold else countPhasers c (c.wlen 0) s) (c.dests 0) s
  else
    eRead s c true (c.fld 128 64) 64 (if c.word = 16 then 4 else 3) 0 fun s bs =>
      let d := leNat bs
      if s.descOk c d then
        checkRanges c (fun s => if s.namesAbsent c then .hold else countPhasers { c with desc := d } (c.wlen d) s) (c.dests d) s
      else .stop s (c.fail 14 (c.fld 128 64) 0)

/-- ENGINE_ACCEPT (09 R288, R290, R296): the head of a team's queue on an engine. -/
def execEngineAccept (team eng : Nat) (s : State) : Host.Outcome State Fault Refusal :=
  let q := (s.team team).queue eng
  match q.cmds with
  | [] => .next s
  | k :: ks =>
    match (s.eng k).cmd with
    | none => .next (s.setTeam team ((s.team team).setQueue eng { q with cmds := ks }))
    | some c =>
      if c.susp.isSome || (s.team team).saved then .next s
      else
        let pop (s : State) : State := s.setTeam team ((s.team team).setQueue eng { (s.team team).queue eng with cmds := ks })
        if q.halted && c.fld 14 1 = 0 then .next ((pop s).endCmd k (c.fail 8 0 0))
        else
          let s1 := if c.fld 14 1 = 1 then s.setTeam team ((s.team team).setQueue eng { q with halted := false, handed := false }) else s
          match acceptTests s1 c with
          | .ok s2 c2 => .next ((pop s2).setCmd k c2)
          | .stop _ c2 => .next ((pop s1).endCmd k c2)
          | .page s2 c2 va why lvl kind => .next (s2.suspend k c2 va why lvl kind)
          | .hold => .next s1

/-! ## Delivery -/

/-- One unit of a command's work: up to `n` bytes of `cpy` and `cpym`; an element, a row, a token or an entry of the others. -/
def deliverUnit (s : State) (c : Cmd) (n choice : Nat) : K :=
  match c.word with
  | 1 => cpyUnit s c n
  | 2 => cpymUnit s c n
  | 3 => gathUnit s c
  | 4 => scatUnit s c
  | 5 => xsectUnit s c
  | 16 => kvldUnit s c
  | _ => kvUnit s c choice

/-- The state after a unit, and whether the command may go on. A modifying command that stops writes its descriptor in its next unit;
one that meets a missing page repeats its step when the page is there. -/
def State.settle (s : State) (k : Nat) (c : Cmd) : K → State × Bool
  | .ok s1 c1 => (s1.setCmd k c1, c1.st = .active)
  | .page s1 c1 va why lvl kind =>
    (if c.word ≥ 16 then s.suspend k c va why lvl kind else s1.suspend k c1 va why lvl kind, false)
  | .hold => (s, false)
  | .stop s1 c1 => if c1.word > 16 && c1.st = .active then (s1.setCmd k c1, true) else (s1.setCmd k { c1 with st := .done }, false)

/-- Up to `fuel` units of a command. -/
def State.deliverN (k n choice : Nat) : Nat → State → State
  | 0, s => s
  | fuel + 1, s =>
    match (s.eng k).cmd with
    | some c =>
      if c.st = .active && c.susp.isNone then
        match s.settle k c (deliverUnit s c n choice) with
        | (s1, true) => State.deliverN k n choice fuel s1
        | (s1, false) => s1
      else s
    | none => s

/-- ENGINE_DELIVERY (09 R291): `n` bytes of a copy, or `n` units of another command; `choice` picks blocks that it allocates. -/
def execEngineDelivery (slot n choice : Nat) (s : State) : Host.Outcome State Fault Refusal :=
  match (s.eng slot).cmd with
  | some c => .next (State.deliverN slot n choice (if c.word ≤ 2 then min n 1 else n) s)
  | none => .next s

/-- KV_LOCK_ACQUIRE (10 R324): a modifying command takes its descriptor's lock, where it is free. -/
def execKvLockAcquire (slot : Nat) (s : State) : Host.Outcome State Fault Refusal :=
  match (s.eng slot).cmd with
  | some c =>
    if c.st = .lockWait && c.susp.isNone then .next (s.settle slot c (lockTry s c)).1
    else .next s
  | none => .next s

/-- KV_LOCK_TIMEOUT (10 R324): the wait has been longer than LKT × 1,024 clk; the command ends without the lock. -/
def execKvLockTimeout (slot : Nat) (s : State) : Host.Outcome State Fault Refusal :=
  match (s.eng slot).cmd with
  | some c =>
    if c.st = .lockWait && decide ((s.part c.part).lkt ≠ 0) && decide (c.waited > (s.part c.part).lkt * 1024) then
      .next (s.setCmd slot { c.fail 15 (c.fld 128 64) 0 with st := .done, susp := none })
    else .next s
  | none => .next s

end Sys2Proof.Machine
end

