-- ==== Sys2Proof/Machine/Context.lean ====
section
/-! DEFINITION. Room on a core (01 R21), the saving of groups and teams to frames and their restoring (13 R387 to R389, R398 to R400; 14
R415, R416), and the abort of a launch (14 R409). -/

namespace Sys2Proof.Machine

/-! ## Room -/

/-- The user groups of a core. -/
def State.userGroups (s : State) (core : Nat) : List (Nat × Group) :=
  s.groups.filter fun e => coreOf e.1 == core && decide (slotOf e.1 < 64)

/-- The teams that take scratchpad of a core: those resident, and those ended whose cluster has not (01 R26). -/
def State.coreTeams (s : State) (core : Nat) : List (Nat × Team) :=
  s.teams.filter fun e => e.2.core == core && !e.2.saved && decide (e.1 < 2 ^ 32)

/-- Bytes of vector registers of a group (01 R21). -/
def vregBytes (w nv : Nat) : Nat := 4 * w * nv

/-- The lowest free slot of a quadrant of a core; which free slot a group takes is not stated (log entry 53). -/
def State.freeSlot (s : State) (core q : Nat) : Option Nat :=
  ((List.range 16).map fun j => core * Config.nSlots + 16 * q + j).find? fun k => (tfind? s.groups k).isNone

/-- What a group asks of its quadrant: identifier, lanes, vector registers, tiles. -/
structure Ask where
  gid : Nat
  w : Nat
  nv : Nat
  nt : Nat
  deriving DecidableEq, Repr

/-- What a group takes. -/
def Group.ask (g : Group) : Ask := ⟨g.gid, g.w, g.nv, g.nt⟩

/-- Whether the quadrants of a core have room for groups (01 R15, R21). -/
def State.quadRoom (s : State) (core : Nat) (l : List Ask) : Bool :=
  (List.range 4).all fun q =>
    let new := l.filter fun a => a.gid % 4 == q
    let old := (s.quadrant core q).map fun e => e.2.ask
    let all : List Ask := old ++ new
    let vb : Nat := all.foldl (fun n a => n + vregBytes a.w a.nv) 0
    let tiles : Nat := all.foldl (fun n a => n + a.nt) 0
    new.isEmpty || (decide (all.length ≤ 16) && decide (vb ≤ 2 ^ 19) && decide (tiles ≤ 32))

/-- Whether a core has room for a new or restored team (01 R21; 14 R411): quadrants, split, scratchpad, and a phaser slot for each of the
scratchpad phasers that a saved one brings (07 R238, 13 R400). -/
def State.teamRoom (s : State) (core sps spb phs : Nat) (l : List Ask) : Bool :=
  let ts := s.coreTeams core
  s.quadRoom core l && (ts.isEmpty || (s.core core).sps == sps) && decide (s.phaserSlots core + phs ≤ 128)
    && decide (ts.foldl (fun n e => n + e.2.spb) 0 + spb ≤ (sps + 2) * 2 ^ 18)

/-- Whether the scheduler may place teams on a core (13 R372, 16 R478): enabled, in service, of the partition. -/
def State.inService (s : State) (part core : Nat) : Bool :=
  s.coreEnabled core && !(s.core core).faulted && !(s.die (dieOf core)).resetting && decide ((s.die (dieOf core)).part = some part)

/-- An octet base for a group of `w` lanes is a multiple of w / 8 within the quadrant (01 R14). -/
def octetOk (w o : Nat) : Bool := o % (w / 8) == 0 && decide (o + w / 8 ≤ 8)

/-- A core's split is set, its read-only lines and cached block-table entries go, when a team starts on it (04 R116, R121; 10 R318). -/
def State.startOn (s : State) (core sps : Nat) : State := s.setCore core { s.core core with sps := sps, ro := [], btc := [] }

/-! ## Waking the waiters of a member -/

/-- Readies the paths that wait for a member of a cluster (14 R422): their words reissue. -/
def State.wakeMember (s : State) (cluster rank : Nat) : State :=
  let fix (q : Path) : Path :=
    match q.wait with
    | some w => if decide (w.wk ≥ 7) && w.wv1 == BitVec.ofNat 64 rank then { q with st := .ready, wait := none } else q
    | none => q
  { s with groups := s.groups.map fun (e : Nat × Group) =>
      if (s.team e.2.team).cluster = cluster && !e.2.ctl then (e.1, { e.2 with p0 := fix e.2.p0, p1 := fix e.2.p1 }) else e }

/-! ## Saving -/

/-- What a saved group keeps beside its frame. -/
def Group.meta_ (g : Group) : Group :=
  { g with vreg := [], sreg := [], preg := [], tile := [], tstat := [], fq := [], slots := [], streams := [], sbuf := [],
           stopped := true, preempt := false, age := 0, idle := 0 }

/-- Withdraws a group's arrivals at its quad's rendezvous: its `qmm` reissues at restore (08 R281, 13 R383); the tile words behind it are performed
(log entry 97). -/
def State.withdrawQuad (s : State) (gk : Nat) : State :=
  let g := s.group gk
  let s1 := s.setGroup gk g.kept.drainTiles
  { s1 with teams := tmod s1.teams g.team fun t => { t with quads := t.quads.filter fun x => x.gk ≠ gk } }

/-- The header of a team frame, and the scratchpad image behind it (13 R400). -/
def Team.frame (t : Team) : List Byte :=
  let head := leBytes 8 (1 + t.sps * 2 ^ 16 + t.tg * 2 ^ 20 + t.spb * 2 ^ 32) ++ leBytes 8 t.lid
    ++ leBytes 48 (t.rank + b2n t.cq.halted * 2 ^ 4 + b2n t.gq.halted * 2 ^ 5)
  let ph := (List.range 128).flatMap fun i => leBytes 4 (t.phasers.getD i 0xffffffff)
  head ++ List.replicate 448 0#8 ++ ph ++ Memory.reads t.spm 0 t.spb

/-- Bytes of a team frame. -/
def Team.frameLen (t : Team) : Nat := 1024 + t.spb

/-- Writes bytes at consecutive physical addresses. -/
def State.wbytes (s : State) (pa : Nat) (bs : List Byte) : State :=
  s.wcells ((List.range bs.length).zipWith (fun i b => (Loc.gpa (pa + i), b)) bs)

/-- Saves a team whose last resident group has been saved (13 R397, R398, R400): its frame is written, TFA stands in the frames of its
groups, and its scratchpad is released. Accesses of the cluster's members are performed first. -/
def State.saveTeam (s : State) (team a : Nat) : State :=
  let t0 := s.team team
  let mates := s.groups.filter fun e => (s.team e.2.team).cluster == t0.cluster && !e.2.ctl
  let s1 := mates.foldl (fun t e => t.performAll e.1) s
  let t := s1.team team
  let s2 := s1.wbytes a t.frame
  let s3 := (s2.saved.filter fun v => v.team == team).foldl (fun x v => x.wnum (v.addr + 16) 8 a) s2
  let c := s3.core t.core
  (s3.setTeam team { t with saved := true, tfa := a, spm := [] }).setCore t.core
    { c with events := c.events.filter fun e => !(e.kind == 2 && e.queue / 2 == team) }

/-- The colours of a group's sections that are not counted ended: the open one, and those that wait for accesses (05 R157). -/
def Group.secCols (g : Group) : List Bool := (if g.rsd > 0 then [g.col] else []) ++ g.ends.map (·.col)

/-- One section of a saved group more (13 R389, 14 R423). -/
def Part.addSwc (p : Part) (col : Bool) : Part := if col then { p with swc1 := p.swc1 + 1 } else { p with swc0 := p.swc0 + 1 }

/-- One section of a saved group fewer. -/
def Part.subSwc (p : Part) (col : Bool) : Part := if col then { p with swc1 := p.swc1 - 1 } else { p with swc0 := p.swc0 - 1 }

/-- Saves a stopped group to a frame (13 R387, R389): results are written, accesses performed, an open section moves to SWC, the frame
is written, and the slot is free. -/
def State.saveGroup (s : State) (gk a : Nat) (parked : Bool) : State :=
  let s0 := s.withdrawQuad gk
  let s2 := (s0.setGroup gk (s0.group gk).landAll).performAll gk
  let g := s2.group gk
  let p := s2.part g.part
  let p1 := g.secCols.foldl (fun q col => (q.decOc g.core col).addSwc col) p
  let s3 := (s2.setPart g.part p1).writeFrame g a 0
  let c := s3.core g.core
  let s4 := s3.setCore g.core (c.clearPreq (slotOf gk))
  { s4 with groups := tdel s4.groups gk, saved := s4.saved ++ [⟨a, g.frameLen, parked, g.team, g.meta_⟩] }

/-- Whether a group is the last resident one of its team. -/
def State.lastResident (s : State) (gk : Nat) : Bool :=
  !s.groups.any fun e => e.1 ≠ gk && e.2.team == (s.group gk).team

/-! ## The frame pool -/

/-- A place of `n` bytes in a partition's frame pool that no frame takes; which one is not stated, the lowest is taken (14 R416, log
entry 53). -/
def Part.findFrame (p : Part) (n : Nat) : Option Nat :=
  let ends := p.fpa :: p.frames.map fun f => (f.1 + f.2 + 4095) / 4096 * 4096
  let ok (a : Nat) : Bool := decide (a + n ≤ p.fpa + p.fpl) && p.frames.all fun f => decide (a + n ≤ f.1 ∨ f.1 + f.2 ≤ a)
  (ends.filter ok).foldl (fun (m : Option Nat) a => match m with | some b => some (min a b) | none => some a) none

/-- Takes a place in the frame pool. -/
def Part.takeFrame (p : Part) (n : Nat) : Option (Part × Nat) :=
  (p.findFrame n).map fun a => ({ p with frames := p.frames ++ [(a, n)] }, a)

/-- Gives a place back to the frame pool. -/
def Part.dropFrame (p : Part) (a : Nat) : Part := { p with frames := p.frames.filter fun f => f.1 ≠ a }

/-- Whether a group may be saved now by the scheduler: the last one of a team waits for the team's commands (09 R298, 13 R387). -/
def State.maySave (s : State) (gk : Nat) : Bool := !(s.lastResident gk && s.teamHeld (s.group gk).team)

/-- A save by the scheduler to the frame pool, with the team frame for the last resident group (13 R387, 14 R416): nothing where the
pool has no room. -/
def State.schedSave (s : State) (gk : Nat) : State :=
  let g := s.group gk
  let t := s.team g.team
  match (s.part g.part).takeFrame g.frameLen with
  | none => s
  | some (p, a) =>
    if s.lastResident gk then
      match p.takeFrame t.frameLen with
      | none => s
      | some (p2, b) => ((s.setPart g.part p2).saveGroup gk a false).saveTeam g.team b
    else (s.setPart g.part p).saveGroup gk a false

/-! ## Restoring -/

/-- A waiting path whose condition holds when it is restored completes its word, or is ready to reissue it (13 R383). -/
def State.retest (s : State) (gk p : Nat) : State :=
  let g := s.group gk
  let q := g.path p
  match q.wait with
  | none => s
  | some w =>
    match w.wk with
    | 1 | 2 =>
      (match s.waitLoc gk w with
       | some l => if s.phWakes l gk p then (s.phComplete gk p l).wakeAt l else s
       | none => s)
    | 3 => s.tokenComplete gk p
    | 4 => if w.wv1.toNat ≤ (s.part g.part).gsq then s.gsyncComplete gk p else s
    | 5 => s
    | _ =>
      match s.saccess g.team (2 ^ 22 + w.wv1.toNat * 2 ^ 23) 1 with
      | .error (.stall _ _) => s
      | _ => s.setGroup gk (g.setPath p { q with st := .ready, wait := none })

/-- Puts a saved group into a slot (13 R383, R389; 09 R311): read back from the frame at `f`, its section counted on its core again, its waits
tested afresh. -/
def State.restoreGroup (s : State) (v : Saved) (f gk core octet : Nat) (hold : Hold) : State :=
  let old := v.grp.ofFrame (s.frameRd f)
  let cyc (q : Path) : Path := if dieOf core = dieOf v.grp.core then q else { q with lastCyc := 0 }
  let g := { old with core := core, octet := octet, stopped := decide (hold ≠ .none), hold := hold, preempt := false,
                      p0 := cyc old.p0, p1 := cyc old.p1, obs := { old.obs with floor := s.now } }
  let p := s.part g.part
  let p1 := g.secCols.foldl (fun q col => (q.incOc core col).subSwc col) p
  let s1 := { s with groups := tput s.groups gk g, saved := s.saved.filter fun x => x.addr ≠ v.addr }
  ((s1.setPart g.part (p1.dropFrame v.addr)).retest gk 0).retest gk 1

/-- The offsets of a saved team's scratchpad phasers, in the team frame at `a` (13 R400). -/
def State.framePhasers (s : State) (a : Nat) : List Nat :=
  ((List.range 128).map fun i => s.rnum (a + 512 + 4 * i) 4).filter fun o => o ≠ 0xffffffff

/-- A saved team becomes resident on a core (13 R397, R400): its split, scratchpad and phasers come back from the team frame at `a`; a halt not
yet handed out is an event of the new core. -/
def State.restoreTeam (s : State) (team core a : Nat) : State :=
  let t := s.team team
  let sps := bits (s.rnum a 8) 16 4
  let spb := s.rnum (a + 4) 4
  let img := (List.range spb).foldl (fun (m : List Host.Cell) i => Memory.write m i (s.rb (.gpa (a + 1024 + i)))) []
  let qh := s.rnum (a + 16) 1
  let q (old : Queue) (n : Nat) : Queue := { old with halted := bit qh (4 + n) }
  let t1 := { t with core := core, saved := false, tfa := 0, sps := sps, spb := spb, spm := img, phasers := s.framePhasers a,
                     cq := q t.cq 0, gq := q t.gq 1 }
  let s1 := (s.setTeam team t1).setPart t.part ((s.part t.part).dropFrame t.tfa)
  let s2 := s1.startOn core (if s1.coreTeams core |>.all fun e => e.1 == team then sps else (s1.core core).sps)
  let s3 := (s2.saved.filter fun v => v.team == team).foldl (fun x v => x.wnum (v.addr + 16) 8 0) s2
  s3.wakeMember t.cluster t.rank

/-- The halts that a restored team's new core hands out (13 R397). -/
def State.restoreHalts (s : State) (team core : Nat) : State :=
  let t := s.team team
  [(0, t.cq), (1, t.gq)].foldl (fun a e =>
    if e.2.halted && !e.2.handed then
      a.setCore core ((a.core core).addEvent ⟨(a.die (dieOf core)).cyc, (a.lowSlot team).getD 127, 2, team * 2 + e.1⟩)
    else a) s

/-! ## Aborting a launch -/

/-- Ends a resident group as `rti` mode 1 does (13 R394): its registrations are withdrawn. -/
def State.killGroup (s : State) (gk : Nat) : State :=
  let s0 := s.withdrawQuad gk
  (s0.setGroup gk (s0.group gk).landAll).endGroup gk

/-- Discards a saved frame (14 R409): its section is removed as ended. -/
def State.discard (s : State) (v : Saved) : State :=
  let g := s.savedGroup v
  let p := s.part g.part
  let p1 := g.secCols.foldl Part.subSwc p
  let s1 := s.setPart g.part (p1.dropFrame v.addr)
  let s2 := match (if g.rsd > 0 then s1.secCore g.sec else none) with
    | some c => s1.setPart g.part ((s1.part g.part).incKc c g.col)
    | none => s1
  { s2 with saved := s2.saved.filter (fun (x : Saved) => x.addr ≠ v.addr),
            teams := tmod s2.teams v.team fun t => { t with ended := t.ended ++ [g.gid] },
            tqs := s2.tqs.map fun (e : Nat × TQueue) =>
              (e.1, { e.2 with waits := e.2.waits.filter fun w => !(w.lid == g.lid && w.team == v.team && w.gid == g.gid) }) }

/-- Takes the commands of a saved team from its queues that were never accepted: with the team's frame discarded nothing can accept them (14
R409; log entry 104). -/
def State.dropQueued (s : State) (team : Nat) : State :=
  let s1 := { s with engs := s.engs.map fun (e : Nat × EngSlot) =>
    match e.2.cmd with
    | some c => if c.team = team && decide (c.st = CmdSt.queued) then (e.1, { e.2 with cmd := none, status := 3 }) else e
    | none => e }
  s1.setTeam team { s1.team team with cq := { (s1.team team).cq with cmds := [] }, gq := { (s1.team team).gq with cmds := [] } }

/-- Aborts a launch (14 R409): no further team starts, its resident groups are pre-empted to be ended, its saved frames are discarded,
with the commands that wait in the queues of a saved team. -/
def State.abortLaunch (s : State) (lid status : Nat) : State :=
  match tfind? s.launches lid with
  | none => s
  | some l =>
    let s1 := { s with launches := tput s.launches lid { l with abort := some (l.abort.getD status) },
                       groups := s.groups.map fun (e : Nat × Group) => if e.2.lid = lid then (e.1, { e.2 with preempt := true }) else e }
    let vs := s1.saved.filter fun v => v.grp.lid == lid
    let s2 := vs.foldl (fun a v => a.discard v) s1
    let ts := (s2.teams.filter fun e => e.2.lid == lid && e.2.saved)
    let s3 := ts.foldl (fun (a : State) (e : Nat × Team) => a.setPart e.2.part ((a.part e.2.part).dropFrame e.2.tfa)) s2
    ((ts.foldl (fun (a : State) (e : Nat × Team) => (a.dropQueued e.1).tryEndTeam e.1) s3)).tryEndLaunch lid

end Sys2Proof.Machine
end

