-- ==== Sys2Proof/Machine/System.lean ====
section
/-! DEFINITION. The system words, class 7 (13 R391 to R403; 15 R450 to R454): control registers, the debug window, resuming, ending and
saving stopped groups, removing translations, changing a page's bias, copying a page. All but `sysc` are the control group's. -/

namespace Sys2Proof.Machine

/-- The slot of the issuing control group's core that a register names. -/
def State.slotKey (s : State) (a : W64) : Nat := s.grp.core * Config.nSlots + a.toNat

/-- A number with the bits set for which a property holds. -/
def bitsOf (n : Nat) (f : Nat → Bool) : Nat := (List.range n).foldl (fun x i => if f i then x + 2 ^ i else x) 0

/-! ## Control registers -/

/-- The halted queues of a core's teams on an engine (13 R392, R397): the bit of the lowest slot of each. -/
def State.haltBits (s : State) (core eng : Nat) : Nat :=
  bitsOf 64 fun i =>
    let k := core * Config.nSlots + i
    (tfind? s.groups k).isSome && decide (s.lowSlot (s.group k).team = some i) && ((s.team (s.group k).team).queue eng).halted

/-- Control register k (13 R392); PARTN of a die without a partition reads 0 (log entry 54). -/
def State.creg (s : State) (k : Nat) : Nat :=
  let core := s.grp.core
  let slot (i : Nat) : Nat := core * Config.nSlots + i
  let d := s.die (dieOf core)
  match k with
  | 0 => dieOf core + core % Config.nSites * 2 ^ 8
  | 1 => bitsOf 64 fun i => (tfind? s.groups (slot i)).isSome && (s.group (slot i)).stopped
  | 2 => bitsOf 64 fun i => (tfind? s.groups (slot i)).isSome
  | 3 => (s.core core).preq
  | 4 => s.haltBits core 0
  | 5 => s.haltBits core 1
  | 6 => d.cyc
  | 7 => d.rgen
  | _ => d.part.getD 0

/-- `csrr` (13 R392). -/
def execCsrr (h : Hdr) (d k : Nat) (s : State) :=
  word (.csrr h d k) s fun s => groupWide h (fun s => .done (s.ws d (BitVec.ofNat 64 (s.creg k)))) s

/-- `csrw` of PREQ (13 R392): the stop of every set slot that holds a group not yet stopped is requested. -/
def execCsrw (h : Hdr) (k a : Nat) (s : State) :=
  word (.csrw h k a) s fun s => groupWide h (fun s =>
    let core := s.grp.core
    let c := s.core core
    let want := bitsOf 64 fun i =>
      let key := core * Config.nSlots + i
      c.preq.testBit i || ((s.rs a).getLsbD i && (tfind? s.groups key).isSome && !(s.group key).stopped)
    .done (s.setCore core { c with preq := want })) s

/-! ## The debug window -/

/-- Whether a slot and an offset are outside the window's limits (13 R393). A slot without a group has no limit of offsets (log entry 110). -/
def State.windowBad (s : State) (a b : W64) : Bool :=
  decide (a.toNat ≥ 64) || b.toNat % 8 ≠ 0
    || ((tfind? s.groups (s.slotKey a)).isSome && decide (b.toNat ≥ (s.group (s.slotKey a)).frameLen))

/-- Whether a slot holds a stopped group. -/
def State.stoppedAt (s : State) (a : W64) : Bool :=
  decide (a.toNat < 64) && (tfind? s.groups (s.slotKey a)).isSome && (s.group (s.slotKey a)).stopped

/-- `dbgr` (13 R384, R393). -/
def execDbgr (h : Hdr) (d a b : Nat) (s : State) :=
  word (.dbgr h d a b) s fun s => groupWide h (fun s =>
    let x := s.rs a
    let o := s.rs b
    if s.windowBad x o then ili 12
    else if !s.stoppedAt x then .done (s.ws d (BitVec.allOnes 64))
    else .done (s.ws d (BitVec.ofNat 64 ((s.group (s.slotKey x)).kept.frameWord (s.cycOf s.focus) 0 (o.toNat / 8))))) s

/-- Writes a path slot's word through the window (13 R385): PC and MASK. A sweep at an older PC is given up with it. -/
def Path.dbgWrite (q : Path) (j : Nat) (v : W64) : Path :=
  match j with
  | 0 =>
    if q.st = .ready || q.st = .parked then
      if clear3 v = q.pc then q else { q with pc := clear3 v, sweep := none, swi := 0 }
    else q
  | 1 => { q with mask := v &&& q.owned }
  | _ => q

/-- Writes two 32-bit values of a table. -/
def put32 (t : Tab W32) (k0 k1 : Nat) (v : W64) : Tab W32 :=
  tset 0#32 (tset 0#32 t k0 (v.setWidth 32)) k1 ((v >>> 32).setWidth 32)

/-- The bits of two tile status words that the window writes: INV, ILR and the sticky bits (13 R385, 08 R264). -/
def tstatMask : W64 := (tstatBits ++ tstatBits : BitVec 64)

/-- Writes word `k` of the window (13 R385). -/
def Group.dbgWrite (g : Group) (k : Nat) (v : W64) : Group :=
  if 16 ≤ k && k < 64 then { g with p0 := g.p0.dbgWrite (k - 16) v }
  else if 64 ≤ k && k < 112 then { g with p1 := g.p1.dbgWrite (k - 64) v }
  else if 112 ≤ k && k < 239 then { g with sreg := tset 0#64 g.sreg (k - 112) v }
  else if 240 ≤ k && k < 252 then { g with preg := tset 0#64 g.preg (k - 240) (v &&& fullMask g.w) }
  else if k = 252 then (if fmOk v then { g with fm := v } else g)
  else if k = 253 then (if scOk v then { g with sc := v } else g)
  else if k = 254 then { g with fps := v &&& fpsMask }
  else if 256 ≤ k && k < 264 then
    let t := 2 * (k - 256)
    let w := v &&& tstatMask
    if t + 1 < g.nt then { g with tstat := put32 g.tstat t (t + 1) w }
    else if t < g.nt then { g with tstat := tset 0#32 g.tstat t (w.setWidth 32) }
    else g
  else if 316 ≤ k && k < 380 then { g with fq := put32 g.fq (2 * (k - 316)) (2 * (k - 316) + 1) v }
  else if k < 512 then g
  else
    let m := 2 * (k - 512)
    if m < g.w * g.nv then
      { g with vreg := put32 g.vreg (m / g.w * 64 + m % g.w) ((m + 1) / g.w * 64 + (m + 1) % g.w) v }
    else
      let e := m - g.w * g.nv
      if e < 1024 * g.nt then { g with tile := put32 g.tile e (e + 1) v } else g

/-- `dbgw` (13 R385, R393). The window shows a path that waits at a `qmm` as ready there (13 R384), so a write of its PC withdraws the wait. -/
def execDbgw (h : Hdr) (d a b : Nat) (s : State) :=
  word (.dbgw h d a b) s fun s => groupWide h (fun s =>
    let x := s.rs a
    let o := s.rs b
    if s.windowBad x o then ili 12
    else if !s.stoppedAt x then .done s
    else
      let s := if o.toNat / 8 = 16 || o.toNat / 8 = 64 then s.withdrawQuad (s.slotKey x) else s
      .done (s.setGroup (s.slotKey x) ((s.group (s.slotKey x)).dbgWrite (o.toNat / 8) (s.rs d)))) s

/-! ## Resuming and ending -/

/-- A stopped group goes on (13 R394 mode 0): its fault records no longer hold it. -/
def Group.resume (g : Group) : Group := { g with stopped := false, hold := .none, flt := [], fltBad := false }

/-- `rti` mode 0 (13 R394). -/
def execRtiResume (h : Hdr) (a : Nat) (s : State) :=
  word (.rtiResume h a) s fun s => groupWide h (fun s =>
    let x := s.rs a
    if s.stoppedAt x then .done (s.setGroup (s.slotKey x) (s.group (s.slotKey x)).resume) else .done s) s
/-- `rti` mode 1 (13 R394). -/
def execRtiEnd (h : Hdr) (a : Nat) (s : State) :=
  word (.rtiEnd h a) s fun s => groupWide h (fun s =>
    let x := s.rs a
    if s.stoppedAt x then .done (s.killGroup (s.slotKey x)) else .done s) s
/-- `rti` mode 2 (13 R394, 14 R409). -/
def execRtiAbort (h : Hdr) (a : Nat) (s : State) :=
  word (.rtiAbort h a) s fun s => groupWide h (fun s =>
    let x := s.rs a
    if s.stoppedAt x then .done ((s.abortLaunch (s.group (s.slotKey x)).lid 1).killGroup (s.slotKey x)) else .done s) s

/-- `sysc` (13 R395): the trap SYSC. -/
def execSysc (h : Hdr) (k : BitVec 16) (s : State) :=
  word (.sysc h k) s fun s => groupWide h (fun _ => .trap { cause := 8, reason := 0, info0 := k.setWidth 64, adv := true }) s

/-- Marks a halt as handed out (13 R397); with a team that has ended its halt ended too. -/
def Team.handOut (t : Team) (eng : Nat) : Team := t.setQueue eng { t.queue eng with handed := true }

/-- `halt` (13 R396): it issues once an event can be handed out. -/
def execHalt (h : Hdr) (d : Nat) (s : State) :=
  word (.halt h d) s fun s => groupWide h (fun s =>
    let core := s.grp.core
    let c := s.core core
    match c.events.findIdx? s.evReady with
    | none => .wait
    | some i =>
      match c.events[i]? with
      | none => .wait
      | some e =>
        let s1 := s.setCore core { c with events := dropIdx c.events i }
        if e.kind = 1 then .done (s1.ws d (BitVec.ofNat 64 (e.slot + 2 ^ 8)))
        else
          let team := e.queue / 2
          let slot := (s1.lowSlot team).getD 127
          .done ({ s1 with teams := tmod s1.teams team fun t => t.handOut (e.queue % 2) }.ws d (BitVec.ofNat 64 (slot + 2 * 2 ^ 8)))) s

/-! ## Saving and restoring by the control group -/

/-- Why a range is no place for a frame (13 R398): misaligned, or outside the skeins of the partition; 0 where it is one. -/
def State.frameBad (s : State) (a n : Nat) : Nat :=
  if a % 4096 ≠ 0 then 3
  else match (s.die (dieOf s.grp.core)).part with
    | some p => if s.paIn (s.part p) a && s.paIn (s.part p) (a + n - 1) && a / 2 ^ 47 == (a + n - 1) / 2 ^ 47 then 0 else 8
    | none => 8

/-- `ctxsv` (13 R398). A slot that is not stopped is left as it is (log entry 55); with TEAM = 1 the place is judged before the residents (log entry
115). -/
def execCtxsv (h : Hdr) (team : Bool) (a b : Nat) (s : State) :=
  word (.ctxsv h team a b) s fun s => groupWide h (fun s =>
    let x := s.rs a
    let f := (s.rs b).toNat
    let gk := s.slotKey x
    let g := s.group gk
    let t := s.team g.team
    let tf := f + (g.frameLen + 4095) / 4096 * 4096
    let n := if !s.stoppedAt x then 4096 else if team then tf - f + t.frameLen else g.frameLen
    let r := s.frameBad f n
    if r ≠ 0 then prot r (s.rs b) true
    else if !s.stoppedAt x then .done s
    else if team then
      if !s.lastResident gk then ili 12
      else .done ((((s.performAll s.focus).saveGroup gk f true).saveTeam g.team tf))
    else .done ((s.performAll s.focus).saveGroup gk f true)) s

/-- The team that the frame at `f` is restored with (13 R399): of its launch and rank, resident on the core, or for `team` saved in the team frame
that the frame names. -/
def State.frameTeam (s : State) (f : Nat) (team : Bool) (core : Nat) : Option Nat :=
  (s.teams.find? fun e => e.2.lid == s.frameRd f 1 && e.2.rank == bits (s.frameRd f 0) 32 4
    && (if team then e.2.saved && e.2.tfa == s.frameRd f 2 else !e.2.saved && !e.2.past && e.2.core == core)).map (·.1)

/-- What the scheduler keeps of a group, made anew from its launch and its team, for a frame that belongs to no group it has saved. -/
def State.frameGroup (s : State) (f team : Nat) : Option Saved :=
  (tfind? s.launches (s.frameRd f 1)).map fun l =>
    let t := s.team team
    let g := Group.start l.lr (s.frameRd f 1) l.asid team t.core (bits (s.frameRd f 0) 27 4) t.rank (s.cluster t.cluster).idx 0
    ⟨2 ^ 64, 0, true, team, { g with obs := Obs.start s.now }⟩

/-- The group that a frame at `f` holds (13 R399): a saved group of its launch, rank and identifier, first one saved there, then one with its team
frame, among those that fit `team` and the core; else one made anew (log entry 56). -/
def State.frameOwner (s : State) (f : Nat) (team : Bool) (core : Nat) : Option Saved :=
  let w0 := s.frameRd f 0
  let named := s.saved.filter fun v => v.is (s.frameRd f 1) v.team (bits w0 27 4) && (s.team v.team).rank == bits w0 32 4
  let fits := named.filter fun v => let t := s.team v.team; if team then t.saved else !t.saved && t.core == core
  let pick := [fits.find? fun v => v.addr == f, fits.find? fun v => (s.team v.team).tfa == s.frameRd f 2, fits.head?, named.head?]
  match pick.findSome? id with
  | some v => some v
  | none => (s.frameTeam f team core).bind (s.frameGroup f)

/-- Whether the frame at `f` of saved group `v` may be restored on a core (13 R399). -/
def State.loadable (s : State) (v : Saved) (f core : Nat) (team : Bool) : Bool :=
  let t := s.team v.team
  let g := v.grp.ofFrame (s.frameRd f)
  let tfa := s.frameRd f 2
  let sps := bits (s.rnum tfa 8) 16 4
  let w0 := s.frameRd f 0
  let rec_ := bits w0 48 3 * Config.nSites + bits w0 51 7
  let members := (s.cluster t.cluster).cores.length
  let dc := match tfind? s.launches g.lid with | some l => l.lr.dc | none => false
  s.quadRoom core [g.ask]
    && (if team then t.saved && sps == (s.core core).sps && s.teamRoom core sps (s.rnum (tfa + 4) 4) (s.framePhasers tfa).length [g.ask]
        else !t.saved && t.core == core)
    && (members ≤ 1 || rec_ == core) && (!dc || dieOf rec_ == dieOf core)

/-- `ctxld` (13 R399). A frame whose launch or team is gone gives 64 (log entry 56). -/
def execCtxld (h : Hdr) (team : Bool) (d a : Nat) (s : State) :=
  word (.ctxld h team d a) s fun s => groupWide h (fun s =>
    let s := s.performAll s.focus
    let f := (s.rs a).toNat
    let core := s.grp.core
    match s.physOk (dieOf core) f 4096 .read with
    | some r => prot r (s.rs a)
    | none =>
      let w0 := s.frameRd f 0
      if bits w0 0 16 ≠ 1 then ili 12
      else
        let fail : Eff := .done (s.ws d 64)
        match s.frameOwner f team core with
        | none => fail
        | some v =>
          if some (bits w0 40 8) ≠ (s.die (dieOf core)).part || !s.loadable v f core team then fail
          else
            match s.freeSlot core (bits w0 27 4 % 4) with
            | none => fail
            | some gk =>
              let s1 := if team then s.restoreTeam v.team core (s.frameRd f 2) else s
              let s1 := s1.setTeam v.team { s1.team v.team with ended := (s1.team v.team).ended.filter (· ≠ v.grp.gid) }
              let s2 := s1.restoreGroup v f gk core 0 .ctl
              .done ((if team then s2.restoreHalts v.team core else s2).ws d (BitVec.ofNat 64 (slotOf gk)))) s

/-! ## Translations and pages -/

/-- Removes translations and performs the accesses of the partition's groups on the covered dies (13 R401, 15 R450). -/
def State.removeTlb (s : State) (part kind asid va : Nat) (dies : List Nat) : State :=
  let s1 := dies.foldl (fun t d => t.setDie d { t.die d with tlb := (t.die d).tlb.filter fun e => !e.named part kind asid va }) s
  let gs := s1.groups.filter fun e => e.2.part == part && !e.2.ctl && dies.contains (dieOf e.2.core)
  gs.foldl (fun t e => t.performAll e.1) s1

/-- `tlbinv` (13 R401). -/
def execTlbinv (h : Hdr) (kind : Nat) (all : Bool) (a b : Nat) (s : State) :=
  word (.tlbinv h kind all a b) s fun s => groupWide h (fun s =>
    let p := s.ctlPart
    .done ((s.performAll s.focus).removeTlb p kind (s.rs a).toNat (s.rs b).toNat (s.invDies p all))) s

/-- Drops the read-only lines of a physical range from every core of a partition (15 R453 step 4). -/
def State.dropRo (s : State) (part pa n : Nat) : State :=
  { s with cores := s.cores.map fun (e : Nat × Core) =>
      if (s.part part).dies.testBit (dieOf e.1) then
        (e.1, { e.2 with ro := e.2.ro.filter fun l => !(decide (pa ≤ l.line * 128) && decide (l.line * 128 < pa + n)) })
      else e }

/-- The flip of a page is complete (05 R161, 15 R453, R454): no core keeps a read-only line of it, and reads no longer return a write that precedes
one visible to the flip. -/
def State.flipped (s : State) (part pa n : Nat) : State :=
  let inPage (l : Loc) : Bool := match l with | .gpa a => decide (pa ≤ a) && decide (a < pa + n) | _ => false
  let t := s.dropRo part pa n
  { t with hist := t.hist.filter fun e => !inPage e.loc }

/-- The page that a translation of a partition's die reaches: none on a die without one (13 R402). -/
def State.flipWalk (s : State) (asid va : Nat) : Walk :=
  match (s.die (dieOf s.grp.core)).part with
  | some p => if va < 2 ^ 57 then s.walk (s.part p) asid va else .bad 1 4
  | none => .bad 1 4

/-- `bflip` (13 R402, 15 R453): towards device bias it goes on once the host has acknowledged its recall (16 R474). -/
def execBflip (h : Hdr) (dev : Bool) (size a b : Nat) (s : State) :=
  word (.bflip h dev size a b) s fun s => groupWide h (fun s =>
    let p := s.ctlPart
    let asid := (s.rs a).toNat
    let va := (s.rs b).toNat
    match s.recalls.find? fun r => r.gk == s.focus with
    | some r => .done ({ s with recalls := s.recalls.filter fun r => r.gk ≠ s.focus }.flipped r.part r.base r.bytes)
    | none =>
      let s := s.performAll s.focus
      match s.flipWalk asid va with
      | .bad _ _ => prot 7 (s.rs b)
      | .leaf pte base n at_ =>
        if bit pte 5 = dev then .done s
        else
          let pa := bits pte 8 44 * 256
          let s1 := s.putCells ((List.range 8).zipWith (fun i b => (Loc.gpa (at_ + i), b)) (leBytes 8 (if dev then pte + 2 ^ 5 else pte - 2 ^ 5)))
          let s2 := s1.removeTlb p 2 asid va (s1.invDies p true)
          if !bit pte 6 then .done s2
          else if !dev then .done (s2.flipped p pa n)
          else
            let s3 := s2.emit (.part p) 5 0 p (leBytes 8 s2.nextRecall ++ leBytes 2 asid ++ leBytes 6 size ++ leBytes 8 base)
            .stay { s3 with recalls := s3.recalls ++ [⟨s3.nextRecall, s3.focus, p, false, pa, n⟩], nextRecall := s3.nextRecall + 1 }) s

/-- The bytes of a page (13 R402). -/
def pageBytes (size : Nat) : Nat := match size with | 0 => 2 ^ 16 | 1 => 2 ^ 21 | _ => 2 ^ 30

/-- The offsets in a range at which a memory lists a byte. -/
def Memory.listed (m : List Host.Cell) (a n : Nat) : List Nat :=
  (m.filter fun c => decide (a ≤ c.1) && decide (c.1 < a + n)).map fun c => c.1 - a

/-- The offsets at which a copy of `n` bytes between physical addresses may change the destination: bytes that neither memory lists are equal. -/
def State.copyOffs (s : State) (src dst n : Nat) : List Nat :=
  if src < 2 ^ 51 && dst < 2 ^ 51 then (Memory.listed s.mem src n ++ Memory.listed s.mem dst n).eraseDups else List.range n

/-- Copies `n` bytes between physical addresses as writes of the issuing group; releases in the destination end (05 R140). -/
def State.copyPa (s : State) (src dst n : Nat) : State :=
  let t := s.writeAs s.focus ((s.copyOffs src dst n).map fun i => (Loc.gpa (dst + i), s.rb (.gpa (src + i))))
  { t with rels := t.rels.map fun r => match r.loc with
      | .gpa a => if r.till.isNone && decide (dst ≤ a) && decide (a < dst + n) then { r with till := some t.now } else r
      | _ => r }

/-- `pgcopy` (13 R403): up to the first line whose data memory reports as uncorrectable. -/
def execPgcopy (h : Hdr) (size d a b : Nat) (s : State) :=
  word (.pgcopy h size d a b) s fun s => groupWide h (fun s =>
    let s := s.performAll s.focus
    let src := (s.rs a).toNat
    let dst := (s.rs b).toNat
    let n := pageBytes size
    let die := dieOf s.grp.core
    if src % n ≠ 0 then prot 3 (s.rs a)
    else if dst % n ≠ 0 then prot 3 (s.rs b) true
    else
      match s.physOk die src n .read, s.physOk die dst n .write with
      | some r, _ => prot r (s.rs a)
      | none, some r => prot r (s.rs b) true
      | none, none =>
        match (s.poison.filter fun l => decide (src ≤ l * 128) && decide (l * 128 < src + n)).foldl
            (fun (m : Option Nat) l => match m with | some k => some (min k l) | none => some l) none with
        | none => .done ((s.copyPa src dst n).ws d 0)
        | some l => .done ((s.copyPa src dst (l * 128 - src)).ws d (BitVec.ofNat 64 (2 ^ 63 + (l * 128 - src))))) s

end Sys2Proof.Machine
end

