-- ==== Sys2Proof/Machine/Sched.lean ====
section
/-! DEFINITION. The hardware scheduler from admission to restoring (14 R406 to R417; 13 R386 to R390): launches are admitted, teams
placed, groups pre-empted, saved and restored. Which of the permitted moves comes next is the event's; each is taken only where the
rules permit it. -/

namespace Sys2Proof.Machine

/-! ## Admission -/

/-- A kind-1 dependence is met once the named record is finished (01 R19, 14 R407): a launch has completed, another record is
processed. -/
def State.depMet (s : State) (p : Part) (asid : Nat) (d : Nat × Nat × Nat × Nat) : Bool :=
  let (val, ph, q, kind) := d
  if kind = 1 then (s.lq q).done.contains val
  else
    match s.walk p asid val with
    | .leaf pte base _ _ =>
      (match s.judge p pte base val .read with
       | .ok pa => decide ((s.rnum pa 4 + 2 ^ 32 - ph) % 2 ^ 32 < 2 ^ 31)
       | .error _ => false)
    | .bad _ _ => false

/-- The address space of a launch queue (15 R435): QASA's entry. -/
def State.queueAsid (s : State) (p : Part) (q : Nat) : Nat := s.rnum (p.qasa + 2 * q) 2

/-- A QHALT event (16 R472), and the halt (16 R469): the RSEQ, the ring offset, the reason and the sub-reason. -/
def State.qhalt (s : State) (q rseq off reason sub : Nat) : State :=
  let x := s.lq q
  (s.setLq q { x with halt := true, depw := false, head := none }).emit (.lq q) 2 q (x.part.getD 0)
    (leBytes 8 rseq ++ leBytes 4 off ++ leBytes 1 reason ++ leBytes 1 sub)

/-- The cores of a rectangle of enabled sites, ranked by rows, with its lowest column and row (01 R23, R28; 16 R457): none where a site is
missing. -/
def State.rectangle (s : State) (die col row cw ch : Nat) : Option (List Nat) :=
  let sites := (List.range ch).flatMap fun y => (List.range cw).map fun x => die * Config.nSites + 8 * (row + y) + (col + x)
  if col + cw ≤ 8 && row + ch ≤ 11 && sites.all s.coreEnabled then some sites else none

/-- Whether a rectangle fits some die of a partition (14 R413). -/
def State.fits (s : State) (p : Part) (cw ch : Nat) : Bool :=
  (List.range Config.nDies).any fun d => p.dies.testBit d
    && (List.range 8).any fun c => (List.range 11).any fun r => (s.rectangle d c r cw ch).isSome

/-- Launches of a queue that are admitted and not complete (14 R408 NADM). -/
def State.nadm (s : State) (q : Nat) : Nat := (s.launches.filter fun e => e.2.lq == q).length

/-- LAUNCH_ADMIT (14 R407; 16 R470): the launch at the head of a queue is admitted once its dependences are met and fewer than 16 are
under way; one marked by CANCEL completes without admission; the address space is read then, and where there is none the queue halts (15 R435). -/
def execLaunchAdmit (q : Nat) (s : State) : Host.Outcome State Fault Refusal :=
  let x := s.lq q
  match x.head, x.part with
  | some (rseq, r, off), some pid =>
    if x.halt then .next s
    else if x.cancels.contains rseq then
      let s1 := s.setLq q { x with head := none, next := rseq + 1, depw := false, done := x.done ++ [rseq],
                                   cancels := x.cancels.filter fun n => n ≠ rseq }
      .next ((s1.emit (.lq q) 1 q pid (leBytes 8 rseq ++ leBytes 8 r.tag ++ leBytes 4 3 ++ leBytes 4 x.woff ++ leBytes 4 x.coff)).markers q)
    else
      let p := s.part pid
      let asid := s.queueAsid p q
      if !r.deps.all (s.depMet p asid) then .next (s.setLq q { x with depw := true })
      else if s.nadm q ≥ 16 then .next (s.setLq q { x with depw := false })
      else if (s.asRoot p asid).isNone then .next (s.qhalt q rseq off 7 0)
      else
        let l : Launch := { lr := r, lq := q, rseq := rseq, asid := asid, next := 0, teams := 0, die := none,
                            unpl := !s.fits p r.cw r.ch, abort := none, began := s.now }
        .next ({ s with launches := tput s.launches s.nextLaunch l, nextLaunch := s.nextLaunch + 1 }.setLq q
          { x with head := none, next := rseq + 1, depw := false })
  | _, _ => .next s

/-! ## Candidates -/

/-- A candidate for placement (14 R410, R415): a team not yet started, of a cluster that has started or of the next one; or a saved team
that is restorable. -/
structure Cand where
  lid : Nat
  idx : Nat
  rank : Nat
  pri : Nat
  started : Option Nat
  saved : Option Nat
  sec : Bool
  deriving DecidableEq, Repr

/-- The order of candidates (14 R410, R415). -/
def Cand.key (c : Cand) : List Nat :=
  [b2n !(c.saved.isSome && c.sec), b2n c.started.isNone, 3 - c.pri, b2n c.saved.isNone, c.lid, c.idx, c.rank]

/-- Whether a list of numbers comes before another. -/
def lexLt : List Nat → List Nat → Bool
  | a :: as, b :: bs => decide (a < b) || (decide (a = b) && lexLt as bs)
  | _, _ => false

/-- Where the phaser of a saved group's wait stands: none in scratchpad that is itself saved. -/
def State.savedLoc (s : State) (g : Group) (w : Wait) : Option Loc :=
  let a := bits w.wv2.toNat 0 57
  if w.wv2.getLsbD 63 then
    match s.saccess g.team a 32 with
    | .ok (.sp t o) => if (s.team t).saved then none else some (.sp t o)
    | _ => none
  else
    match (s.xspan g.space a 32 .read).2 with
    | .ok (pa :: _) => some (.gpa pa)
    | _ => none

/-- Whether a token's command has not been accepted and nothing holds its acceptance but that its team is saved: to let it complete the team
must come back (12 R362, log entry 100). -/
def State.awaitsTeam (s : State) (k : Nat) : Bool :=
  match (s.eng k).cmd with
  | some c =>
    decide (c.st = .queued) && (s.team c.team).saved
      && (c.ranks.filter (· ≠ (s.team c.team).rank)).all fun r => match s.saccess c.team (windowAddr 0 r) 0 with | .error (.stall _ _) => false | _ => true
  | none => false

/-- Whether a path of a saved group would be ready at restore (13 R383), or its command accepted. -/
def State.pathWould (s : State) (g : Group) (q : Path) : Bool :=
  match q.st, q.wait with
  | .ready, _ => true
  | .waiting, some w =>
    (match w.wk with
     | 1 => (match s.savedLoc g w with | some l => (s.phaser l).ended w.wv1.toNat | none => false)
     | 2 => (match s.savedLoc g w with | some l => !(s.phaser l).limit (g.slot (bits w.wv1.toNat 32 3)).mp | none => false)
     | 3 => (match s.token w.wv1 with | some (k, cur) => s.tokenStatus k cur ≠ 0 || s.awaitsTeam k | none => true)
     | 4 => decide (w.wv1.toNat ≤ (s.part g.part).gsq)
     | 5 | 6 => false
     | _ =>
       (match s.saccess g.team (2 ^ 22 + w.wv1.toNat * 2 ^ 23) 1 with
        | .error (.stall _ _) => false
        | _ => true))
  | _, _ => false

/-- Whether a saved group would be ready at restore, every fault record attached to it answered (14 R415, 15 R444). -/
def State.wouldRun (s : State) (v : Saved) : Bool :=
  let g := s.savedGroup v
  !v.parked && v.grp.flt.isEmpty && (v.grp.fltBad || s.pathWould g g.p0 || s.pathWould g g.p1)

/-- The saved groups of a team that a restore of the team brings back. -/
def State.teamSaved (s : State) (team : Nat) : List Saved :=
  s.saved.filter fun v => v.team == team && !v.parked && v.grp.flt.isEmpty

/-- The candidates of an admitted launch. -/
def State.launchCands (s : State) (lid : Nat) (l : Launch) : List Cand :=
  if l.abort.isSome || l.unpl then []
  else
    let old := s.clusters.flatMap fun e =>
      if e.2.lid = lid then
        ((List.range e.2.cores.length).filter fun r => !e.2.started.contains r).map fun r =>
          ({ lid := lid, idx := e.2.idx, rank := r, pri := l.lr.pri, started := some e.1, saved := none, sec := false } : Cand)
      else []
    let new := if l.next < l.lr.gx * l.lr.gy * l.lr.gz then
        (List.range (l.lr.cw * l.lr.ch)).map fun r =>
          ({ lid := lid, idx := l.next, rank := r, pri := l.lr.pri, started := none, saved := none, sec := false } : Cand)
      else []
    old ++ new

/-- The restorable saved teams, as candidates. -/
def State.savedCands (s : State) : List Cand :=
  s.teams.filterMap fun e =>
    let vs := s.saved.filter fun v => v.team == e.1
    let pri := match tfind? s.launches e.2.lid with | some l => l.lr.pri | none => 0
    if e.2.saved && vs.any s.wouldRun then
      some { lid := e.2.lid, idx := (s.cluster e.2.cluster).idx, rank := e.2.rank, pri := pri, started := none, saved := some e.1,
             sec := vs.any fun v => decide ((s.savedGroup v).rsd > 0) }
    else none

/-- Every candidate. -/
def State.cands (s : State) : List Cand := s.launches.flatMap (fun e => s.launchCands e.1 e.2) ++ s.savedCands

/-- What the groups of a new team ask for. -/
def LRec.asks (r : LRec) : List Ask := (List.range r.tg).map fun g => ⟨g, r.w, 16 * (r.vr + 1), r.nt⟩

/-- Whether a core is reserved for another cluster (14 R412). -/
def State.reserved (s : State) (core : Nat) (cluster : Option Nat) : Bool :=
  match (s.core core).resv with
  | some (c, _) => cluster ≠ some c
  | none => false

/-- The rectangle in which a first member of a rank stands on a core: none where a site is missing, out of service or reserved (14 R412). -/
def State.rectAt (s : State) (part : Nat) (r : LRec) (core rank : Nat) : Option (List Nat) :=
  let site := core % Config.nSites
  let col := site % 8
  let row := site / 8
  let x := rank % r.cw
  let y := rank / r.cw
  if x ≤ col && y ≤ row then
    match s.rectangle (dieOf core) (col - x) (row - y) r.cw r.ch with
    | some l => if l.all fun c => s.inService part c && !s.reserved c none then some l else none
    | none => none
  else none

/-- Whether a candidate may use a core, room apart (14 R411, R412, R415; 05 R138). -/
def State.mayUse (s : State) (c : Cand) (core : Nat) : Bool :=
  match tfind? s.launches c.lid with
  | none => false
  | some l =>
    let r := l.lr
    let dieOk := match l.die with | some d => !r.dc || d == dieOf core | none => true
    s.inService r.part core && dieOk
      && (match c.started, c.saved with
          | some k, _ => (s.cluster k).cores[c.rank]? == some core
          | none, some t =>
            decide ((s.cluster (s.team t).cluster).cores.length ≤ 1) || (s.team t).core == core
          | none, none => (s.rectAt r.part r core c.rank).isSome)

/-- Whether a candidate has room on a core (01 R21, 14 R411). -/
def State.candRoom (s : State) (c : Cand) (core : Nat) : Bool :=
  s.mayUse c core
    && (match c.saved, tfind? s.launches c.lid with
        | some t, _ => s.teamRoom core (s.team t).sps (s.team t).spb (s.framePhasers (s.team t).tfa).length ((s.teamSaved t).map fun v => (s.savedGroup v).ask)
        | none, some l => s.teamRoom core l.lr.sps l.lr.spb 0 l.lr.asks
        | none, none => false)

/-- Whether a candidate has room somewhere. -/
def State.hasRoom (s : State) (c : Cand) : Bool := s.cores.any fun e => s.candRoom c e.1

/-- Whether a candidate is the one that the scheduler takes next, for a core (14 R410): it has room there, and none before it has room
anywhere. -/
def State.isNext (s : State) (c : Cand) (core : Nat) : Bool :=
  s.candRoom c core && s.cands.all fun d => !(lexLt d.key c.key && s.hasRoom d)

/-! ## Placement -/

/-- Puts a starting group into the lowest free slot of its quadrant: it sees every write performed before its grid began, at stamp `n` (05 R155). -/
def State.seat (s : State) (core n : Nat) (g : Group) : State :=
  match s.freeSlot core (g.gid % 4) with
  | some k => s.setGroup k { g with obs := Obs.start n }
  | none => s

/-- Starts a member team on a core (01 R21 to R23; 14 R411, R412): a first member reserves the other cores; the last one ends the
reservation. -/
def State.startTeam (s : State) (c : Cand) (l : Launch) (core : Nat) (octets : List Nat) : State :=
  let r := l.lr
  let k := match c.started with | some k => k | none => s.nextCluster
  let rect := (s.rectAt r.part r core c.rank).getD [core]
  let cl := match c.started with
    | some k => s.cluster k
    | none => { lid := c.lid, idx := c.idx, cores := rect, started := [], ended := [] }
  let cl1 := { cl with started := cl.started ++ [c.rank] }
  let all := decide (cl1.started.length = cl1.cores.length)
  let t := s.nextTeam
  let s1 := { s with
    clusters := tput s.clusters k cl1, nextCluster := max s.nextCluster (k + 1), nextTeam := t + 1,
    teams := tput s.teams t { Team.empty with lid := c.lid, cluster := k, rank := c.rank, core := core, part := r.part, sps := r.sps,
                                              spb := r.spb, tg := r.tg, past := false },
    launches := tput s.launches c.lid { l with next := if c.started.isSome then l.next else l.next + 1,
                                               die := if r.dc then some (dieOf core) else l.die },
    cores := s.cores.map fun (e : Nat × Core) =>
      if cl1.cores.contains e.1 then
        (e.1, { e.2 with resv := if all && e.2.resv.all (fun (v : Nat × Nat) => v.1 == k) then none
                                 else if e.1 = core || c.started.isSome then e.2.resv else some (k, 0) })
      else e }
  let s2 := (List.range r.tg).foldl (fun a g => a.seat core l.began (Group.start r c.lid l.asid t core g c.rank c.idx (octets.getD g 0)))
    (s1.startOn core r.sps)
  s2.wakeMember k c.rank

/-- TEAM_PLACE (14 R410 to R412): the team of a rank of cluster `cl` starts on a core, its groups on the given octets. -/
def execTeamPlace (lid cl rank core : Nat) (octets : List Nat) (s : State) : Host.Outcome State Fault Refusal :=
  match tfind? s.launches lid, s.cands.find? fun c => c.lid == lid && c.idx == cl && c.rank == rank && c.saved.isNone with
  | some l, some c =>
    if s.isNext c core && decide (octets.length = l.lr.tg) && octets.all (octetOk l.lr.w) then .next (s.startTeam c l core octets)
    else .next s
  | _, _ => .next s

/-! ## Pre-emption -/

/-- Whether a group is in a scheduler-visible wait (14 R414): none of its paths is ready. -/
def Group.inWait (g : Group) : Bool :=
  !g.stopped && decide (g.p0.st ≠ .ready) && decide (g.p1.st ≠ .ready) && (decide (g.p0.st = .waiting) || decide (g.p1.st = .waiting))

/-- The resident groups of a team. -/
def State.teamGroups (s : State) (team : Nat) : List (Nat × Group) := s.groups.filter fun e => e.2.team == team && !e.2.ctl

/-- Whether a group's save is under way: its stop is requested, or it is stopped and not yet saved. -/
def Group.leaving (g : Group) : Bool := !g.ctl && (g.preempt || decide (g.hold = .saved))

/-- Whether the frame pool has room for the saves of whole teams beside those under way in their partition (14 R416). -/
def State.poolRoom (s : State) (part : Nat) (teams : List Nat) : Bool :=
  let leaving := (s.groups.filter fun e => e.2.leaving && e.2.part == part).map fun e => e.2.team
  let sizes := (teams ++ leaving).eraseDups.flatMap fun t => (s.teamGroups t).map (fun e => e.2.frameLen) ++ [(s.team t).frameLen]
  (sizes.foldl (fun (p : Option Part) n => p.bind fun q => (q.takeFrame n).map (·.1)) (some (s.part part))).isSome

/-- Whether a team may be swapped out for a candidate, the pool apart (13 R388, 14 R414): every group of it passes a test, and the candidate may
use its core. -/
def State.mayLeave (s : State) (c : Cand) (ok : Group → Bool) (t : Nat) : Bool :=
  decide (t < 2 ^ 32) && !(s.teamGroups t).isEmpty && (s.teamGroups t).all (fun e => ok e.2 && (!e.2.stopped || e.2.hold ≠ .ctl))
    && s.mayUse c (s.team t).core

/-- The partition of a candidate. -/
def State.candPart (s : State) (c : Cand) : Nat := match tfind? s.launches c.lid with | some l => l.lr.part | none => 0

/-- Requests the stop of every group of teams (13 R386). -/
def State.requestStop (s : State) (teams : List Nat) : State :=
  { s with groups := s.groups.map fun (e : Nat × Group) =>
      if teams.contains e.2.team && !e.2.ctl && !e.2.stopped then (e.1, { e.2 with preempt := true }) else e }

/-- The teams that stand in slots. -/
def State.teamsAt (s : State) (slots : List Nat) : List Nat := (slots.map fun k => (s.group k).team).eraseDups

/-- Requests the stop of every group of the teams that stand in slots (14 R414, R416), where one of the candidates of a cluster that pass a test and
have no room may have each of those teams swapped out, and the pool has room for all of them. -/
def State.swapOut (s : State) (lid cl : Nat) (slots : List Nat) (may : Cand → Bool) (ok : Group → Bool) : State :=
  let teams := s.teamsAt slots
  if s.cands.any fun c => c.lid == lid && c.idx == cl && may c && !s.hasRoom c && teams.all (s.mayLeave c ok) && s.poolRoom (s.candPart c) teams then
    s.requestStop teams
  else s

/-- For how many clk a candidate has found no room (14 R414). -/
def State.roomlessClk (s : State) (c : Cand) : Nat :=
  match s.roomless.find? fun r => r.lid == c.lid && r.idx == c.idx && r.rank == c.rank with
  | some r => r.clk
  | none => 0

/-- Whether a candidate without room may have waiting teams swapped out (14 R414): at once for a member whose core is reserved, otherwise after
256 clk. -/
def State.mayClear (s : State) (c : Cand) : Bool := c.started.isSome || decide (s.roomlessClk c ≥ 256)

/-- Whether a candidate without room may have teams of class 0 swapped out (14 R414): of class 3, after PTH clk. -/
def State.mayPreempt (s : State) (c : Cand) : Bool :=
  let pth := (s.part (s.candPart c)).pth
  decide (c.pri = 3) && decide (pth ≠ 0) && decide (s.roomlessClk c ≥ pth)

/-- NO_ROOM_TIMEOUT (14 R414): teams whose every group is in a scheduler-visible wait make room. -/
def execNoRoomTimeout (lid cl : Nat) (slots : List Nat) (s : State) : Host.Outcome State Fault Refusal :=
  .next (s.swapOut lid cl slots s.mayClear Group.inWait)

/-- CLASS_PREEMPT_TIMEOUT (14 R414): teams of class 0 make room for one of class 3. -/
def execClassPreemptTimeout (lid cl : Nat) (slots : List Nat) (s : State) : Host.Outcome State Fault Refusal :=
  .next (s.swapOut lid cl slots s.mayPreempt fun g => g.pri == 0)

/-- The trap record of a stop between two words (13 R374, R375 causes 5 and 6): no word traps, and what TPC, WORD and PS then hold is not
stated (log entry 58). -/
def State.idleRec (s : State) (gk cause reason : Nat) (info0 info1 : W64) : TrapRec :=
  { cause := cause, reason := reason, ps := Config.stopPath s.fresh % 2, fetch := false, wr := false, ucause := 0, lane := 0,
    tpc := Config.stopTpc s.fresh, word := Config.stopWord s.fresh, addr := 0, info0 := info0, info1 := info1,
    cyc := BitVec.ofNat 64 (s.cycOf gk) }

/-- Whether the launch of a group is being aborted. -/
def State.aborting (s : State) (lid : Nat) : Bool := match tfind? s.launches lid with | some l => l.abort.isSome | none => false

/-- Whether the scheduler asks a group to stop, to save it, because its core is faulted (13 R372) or its die is to be reset (16 R478): the pool
must have room for its team (14 R416). -/
def State.emptying (s : State) (gk : Nat) : Bool :=
  ((s.core (coreOf gk)).faulted || (s.die (dieOf (coreOf gk))).resetting) && !(s.group gk).ctl && !(s.group gk).stopped
    && s.poolRoom (s.group gk).part [(s.group gk).team]

/-- PREEMPT_STOP (13 R386): a group whose stop is requested stops with PRE, by the scheduler (REASON 1), to empty a faulted core or a die too (13 R372, 16
R478), or through PREQ (REASON 2); one whose launch is aborted ends (14 R409). -/
def execPreemptStop (gk : Nat) (s : State) : Host.Outcome State Fault Refusal :=
  let g := s.group gk
  let preq := (s.core (coreOf gk)).preq.testBit (slotOf gk)
  if (tfind? s.groups gk).isNone || g.ctl then .next s
  else if s.aborting g.lid then .next (s.killGroup gk)
  else if g.stopped then .next s
  else if g.preempt || s.emptying gk then .next (s.tick.stopGroup gk (s.idleRec gk 6 1 0 0) .saved)
  else if preq then .next (s.tick.stopGroup gk (s.idleRec gk 6 2 0 0) .ctl)
  else .next s

/-- Whether the open section of a group is older than SWD, and the group is between two words (13 R390, 14 R427). -/
def State.overAge (s : State) (g : Group) : Bool :=
  let swd := (s.part g.part).swd
  !g.ctl && !g.stopped && decide (g.rsd > 0) && decide (swd ≠ 0) && decide (g.wdt > swd) && g.p0.sweep.isNone && g.p1.sweep.isNone

/-- WATCHDOG_EXPIRY (13 R390, 14 R427): a group whose open section is older than SWD stops with WDS; INFO0 holds the age. -/
def execWatchdogExpiry (gk : Nat) (s : State) : Host.Outcome State Fault Refusal :=
  let g := s.group gk
  if (tfind? s.groups gk).isSome && s.overAge g then
    .next ((s.setGroup gk { g with wds := some g.sec }).tick.stopGroup gk (s.idleRec gk 5 0 (BitVec.ofNat 64 g.wdt) (Config.stopInfo s.fresh)) .ctl)
  else .next s

/-! ## Saving and restoring -/

/-- Whether every fault record attached to a group has been sent (15 R444). -/
def State.faultsSent (s : State) (g : Group) : Bool :=
  g.flt.all fun i => (s.part g.part).faults.all fun f => f.fid ≠ i || f.sent

/-- SAVE_COMPLETE (13 R378, R387; 14 R416): the scheduler saves a group that it stopped, or that awaits a page, to the frame pool. -/
def execSaveComplete (gk : Nat) (s : State) : Host.Outcome State Fault Refusal :=
  let g := s.group gk
  let may := match g.hold with
    | .saved => true
    | .page => s.faultsSent g
    | _ => false
  .next (if (tfind? s.groups gk).isSome && g.stopped && may && s.maySave gk then s.schedSave gk else s)

/-- A group whose page was declared unresolvable is restored stopped, with PROT reason 7 for the control group (13 R378, 15 R444). -/
def State.unresolved (s : State) (gk : Nat) : State :=
  let g := s.group gk
  let c := coreOf gk
  let r := (g.trap.getD (s.idleRec gk 3 7 0 0))
  (s.setGroup gk { g with stopped := true, hold := .ctl, fltBad := false, trap := some { r with cause := 3, reason := 7 } }).setCore c
    ((s.core c).addEvent ⟨s.cycOf gk, slotOf gk, 1, 0⟩)

/-- Restores a saved group into a slot of its quadrant (14 R415). -/
def State.restoreOne (s : State) (v : Saved) (core octet : Nat) : State :=
  match s.freeSlot core ((s.savedGroup v).gid % 4) with
  | some gk =>
    let s1 := s.restoreGroup v v.addr gk core octet .none
    if v.grp.fltBad then s1.unresolved gk else s1
  | none => s

/-- Whether a saved team can never come back: its cluster has other members, and its core is faulted (14 R417). -/
def State.stranded (s : State) (t : Team) : Bool :=
  t.saved && decide ((s.cluster t.cluster).cores.length > 1) && (s.core t.core).faulted

/-- TEAM_RESTORE (14 R415): a restorable saved team becomes resident on a core; a member of a larger cluster whose core is faulted cannot,
and its launch is aborted (14 R417). -/
def execTeamRestore (team core : Nat) (octets : List Nat) (s : State) : Host.Outcome State Fault Refusal :=
  let t := s.team team
  if !t.saved then .next s
  else if s.stranded t then .next (s.abortLaunch t.lid 2)
  else
    match s.cands.find? fun c => c.saved == some team with
    | none => .next s
    | some c =>
      let vs := s.teamSaved team
      let ok := decide (octets.length = vs.length) && (vs.zip octets).all fun x => octetOk (s.savedGroup x.1).w x.2
      if s.isNext c core && ok then
        .next (((vs.zip octets).foldl (fun a x => a.restoreOne x.1 core x.2) (s.restoreTeam team core t.tfa)).restoreHalts team core)
      else .next s

/-- Whether a saved group may be restored by itself: it would be ready, its team is resident and not being swapped out (14 R414), and its
quadrant has room (14 R415). -/
def State.returns (s : State) (v : Saved) : Bool :=
  let t := s.team v.team
  s.wouldRun v && !t.saved && !(s.core t.core).faulted && !(s.die (dieOf t.core)).resetting && s.quadRoom t.core [(s.savedGroup v).ask]
    && !(s.teamGroups v.team).any fun e => e.2.leaving

/-- GROUP_RESTORE (14 R415): saved group `idx`, ready again, whose team is still resident, is restored on its team's core. -/
def execGroupRestore (idx core octet : Nat) (s : State) : Host.Outcome State Fault Refusal :=
  match s.saved[idx]? with
  | none => .next s
  | some v =>
    if s.returns v && decide ((s.team v.team).core = core) && octetOk (s.savedGroup v).w octet then .next (s.restoreOne v core octet)
    else .next s

end Sys2Proof.Machine
end

