-- ==== Sys2Proof/Machine/Clock.lean ====
section
/-! DEFINITION. One clk: of a die (16 R479), of the front end, the scheduler and the grace trackers, which count those of die 0 (log entry 63),
and of a quadrant (14 R419). -/

namespace Sys2Proof.Machine

/-- The candidates without room, each with the clk for which it has found none (14 R414). -/
def State.stillRoomless (s : State) : List Roomless :=
  (s.cands.filter fun c => !s.hasRoom c).map fun c => ⟨c.lid, c.idx, c.rank, s.roomlessClk c + 1⟩

/-- One clk of the front end (16 R468), the scheduler (14 R414) and the grace trackers (14 R425). -/
def State.moduleClk (s : State) : State :=
  { s with roomless := s.stillRoomless,
           lqs := s.lqs.map fun (e : Nat × LQueue) => (e.1, { e.2 with gap := e.2.gap - 1 }),
           parts := s.parts.map fun (e : Nat × Part) => (e.1, { e.2 with gtick := e.2.gtick + 1 }) }

/-- One clk of a die: its cycle counter (16 R479), and the commands of its engines that wait for a lock (10 R324). -/
def State.dieClk (s : State) (d : Nat) : State :=
  let x := s.die d
  let s1 := s.setDie d { x with cyc := (x.cyc + 1) % 2 ^ 64 }
  let wait (c : Cmd) : Cmd := if c.st = .lockWait && c.susp.isNone then { c with waited := c.waited + 1 } else c
  let eng (e : Nat × EngSlot) : Nat × EngSlot := if dieOf (e.1 / 128) = d then (e.1, { e.2 with cmd := e.2.cmd.map wait }) else e
  let s2 := { s1 with engs := s1.engs.map eng }
  if d = 0 then s2.moduleClk else s2

/-- ISSUE_SELECT (14 R419), one clk of a quadrant: the groups that issue are chosen, ages and times move on, and so does the resident age of an open
section (13 R390). The control group issues before the
user groups of quadrant 0 (13 R370). -/
def execIssueSelect (core q : Nat) (s : State) : Host.Outcome State Fault Refusal :=
  let s1 := if s.countsClk core q then s.dieClk (dieOf core) else s
  let ctl := core * Config.nSlots + 64
  let ctlGo := decide (q = 0) && s1.eligible ctl
  let el := (s1.quadrant core q).filter fun e => s1.eligible e.1
  let chosen := if ctlGo then [] else s1.pack (el.foldl (fun l e => insertGroup e l) [])
  let tick (e : Nat × Group) : Nat × Group :=
    if (s1.quadrant core q).any (fun x => x.1 == e.1) then
      (e.1, { e.2 with idle := e.2.idle + 1, wdt := if e.2.rsd > 0 then e.2.wdt + 1 else e.2.wdt,
                       age := if chosen.contains e.1 then 0 else if el.any (fun x => x.1 == e.1) then e.2.age + 1 else e.2.age })
    else e
  .next { s1 with groups := s1.groups.map tick, chosen := s1.chosen ++ (if ctlGo then [ctl] else chosen) }

end Sys2Proof.Machine
end

