-- ==== Sys2Proof/Machine/Control.lean ====
section
/-! DEFINITION. Control instructions, class 0 (06 R177 to R183; 01 R33 to R35, R38 to R41). -/

namespace Sys2Proof.Machine

/-- `br target` (06 R178). -/
def execBr (pk : Bool) (off : BitVec 23) (s : State) :=
  word (.br pk off) s fun s => .goto s (s.target off)
/-- `br sA` (06 R178). -/
def execBrIndirect (pk : Bool) (a : Nat) (s : State) :=
  word (.brIndirect pk a) s fun s => .goto s (clear3 (s.rs a))
/-- A conditional branch (06 R179). -/
def branchIf (c : Bool) (off : BitVec 23) (s : State) : Eff := if c then .goto s (s.target off) else .done s
/-- `bz` (06 R179). -/
def execBz (pk : Bool) (a : Nat) (off : BitVec 23) (s : State) :=
  word (.bz pk a off) s fun s => branchIf (s.rs a == 0) off s
/-- `bnz` (06 R179). -/
def execBnz (pk : Bool) (a : Nat) (off : BitVec 23) (s : State) :=
  word (.bnz pk a off) s fun s => branchIf (s.rs a != 0) off s
/-- `bany`: with an empty mask it falls through (06 R179). -/
def execBany (pk : Bool) (p : Nat) (off : BitVec 23) (s : State) :=
  word (.bany pk p off) s fun s => branchIf (s.rpm p &&& s.am != 0) off s
/-- `ball`: with an empty mask it branches (06 R179). -/
def execBall (pk : Bool) (p : Nat) (off : BitVec 23) (s : State) :=
  word (.ball pk p off) s fun s => branchIf (s.rpm p &&& s.am == s.am) off s

/-- A path opened by `brd` (01 R33). -/
def Path.open_ (pc : W64) (t : Mask) : Path := { Path.idle with pc := pc, mask := t, owned := t, st := .ready }

/-- `brd` (01 R33, 06 R180). -/
def execBrd (pk : Bool) (p : Nat) (off : BitVec 23) (s : State) :=
  word (.brd pk p off) s fun s =>
    let q := s.pth
    let m := q.mask
    let t := m &&& s.rpm p
    let n := m &&& ~~~(s.rpm p)
    let o := s.grp.path (1 - s.fpath)
    if n = 0#64 then .goto s (s.target off)
    else if t = 0#64 then .goto s (s.pc + 8)
    else if o.st = .free && !s.grp.ctl then
      let g := s.grp.setPath (1 - s.fpath) (Path.open_ (s.target off) t)
      .goto (s.setGrp (g.setPath s.fpath { q with mask := n, owned := q.owned &&& ~~~t })) (s.pc + 8)
    else if q.stack.length ≥ 8 then ils 1
    else
      let e : StackEnt := ⟨s.pc + 8, n, m, none, false⟩
      .goto (s.setPth { q with mask := t, stack := e :: q.stack }) (s.target off)

/-- An outstanding result other than a write of `em`, which belongs to its path slot (01 R32). -/
def notEm (q : Pend) : Bool := match q.res with | .s d _ | .q _ .s d => d ≠ 127 | _ => true

/-- `join` (01 R34, 06 R180). Lanes that have ended, or that another path owns, stay out (01 R25, R31; log entry 42). A path that merges with the
parked handling path is the handling path from then on (01 R40; log entry 93). -/
def execJoin (pk : Bool) (s : State) :=
  word (.join pk) s fun s =>
    let q := s.pth
    let o := s.grp.path (1 - s.fpath)
    match q.stack with
    | e :: r =>
      if !e.second then
        .goto (s.setPth { q with mask := e.rmask &&& q.owned, stack := { e with jpc := some q.pc, second := true } :: r }) e.rpc
      else if e.jpc.isSome && e.jpc != some q.pc then ils 2
      else .goto (s.setPth { q with mask := e.full &&& q.owned, stack := r }) (s.pc + 8)
    | [] =>
      if o.st = .free then .goto s (s.pc + 8)
      else if o.st = .parked then
        if q.pc ≠ o.jpc then ils 2
        else
          let g := ({ s.grp with hpath := if s.grp.hpath = 1 - s.fpath then s.fpath else s.grp.hpath }).setPath (1 - s.fpath) Path.idle
          .goto (s.setGrp (g.setPath s.fpath
            { q with owned := q.owned ||| o.owned, mask := q.mask ||| o.mask, pend := q.pend ++ o.pend.filter notEm })) (s.pc + 8)
      else .placed (s.setPth { q with jpc := q.pc, st := .parked })

/-- What an `exit` does with the reconvergence stack (01 R35): `x` is the set of lanes ended so far, with those the path does not own (log
entry 42). None: the path ends. Otherwise the path goes on with a mask at an address, over the stack that is left, and `x` as it is then. -/
def exitUnwind (x : Mask) : List StackEnt → Option (Mask × W64 × List StackEnt × Mask)
  | [] => none
  | e :: r =>
    if !e.second then some (e.rmask &&& ~~~x, e.rpc, { e with full := e.full &&& ~~~x, second := true } :: r, x)
    else
      let f := e.full &&& ~~~x
      match e.jpc with
      | some j => if f ≠ 0#64 then some (f, j + 8, r, x) else exitUnwind (x ||| f) r
      | none => exitUnwind (x ||| f) r

/-- The handler ends when the handling path executes `exit` (01 R40): the held path is released. -/
def Group.endHandler (g : Group) (p : Nat) : Group :=
  if g.uhc ≠ 0 && g.hpath = p then
    ({ g with uhc := 0 }).setPath (1 - p) { g.path (1 - p) with held := false }
  else g

/-- `exit` (01 R25, R35, R40). The lanes that end leave the path's owned set. -/
def execExit (pk : Bool) (s : State) :=
  word (.exit pk) s fun s =>
    if s.grp.rsd > 0 then ils 3
    else
      let g := s.grp.endHandler s.fpath
      let q := g.path s.fpath
      match exitUnwind (q.mask ||| ~~~q.owned) q.stack with
      | some (m, pc, st, x) =>
        .goto (s.setGrp (g.setPath s.fpath { q with mask := m, stack := st, owned := q.owned &&& ~~~x })) pc
      | none => .placed ((s.setGrp (g.endPath s.fpath)).tryEndGroup s.focus)

/-- `yield` (06 R182). -/
def execYield (pk : Bool) (s : State) := word (.yield pk) s fun s => .done s
/-- `nop` (06 R182). -/
def execNop (pk : Bool) (s : State) := word (.nop pk) s fun s => .done s

/-- `call target` (06 R181). -/
def execCall (pk : Bool) (d : Nat) (off : BitVec 23) (s : State) :=
  word (.call pk d off) s fun s => .goto (s.ws d (s.pc + 8)) (s.target off)
/-- `call sA` (06 R181): the target is read before the link is written. -/
def execCallIndirect (pk : Bool) (d a : Nat) (s : State) :=
  word (.callIndirect pk d a) s fun s => .goto (s.ws d (s.pc + 8)) (clear3 (s.rs a))
/-- `ret` (06 R181). -/
def execRet (pk : Bool) (a : Nat) (s : State) := word (.ret pk a) s fun s => .goto s (clear3 (s.rs a))
/-- `brk` (06 R183): the user trap BRK, INFO0 = k. -/
def execBrk (pk : Bool) (k : BitVec 16) (s : State) :=
  word (.brk pk k) s fun s => .user s 4 (k.setWidth 64) 0 false

/-- Whether a cause resumes past the trapping word (01 R38): all but OVF. -/
def continues (cause : Nat) : Bool := cause ≠ 1

/-- `tret` (01 R40, R41): the return from a user trap. -/
def execTret (pk : Bool) (s : State) :=
  word (.tret pk) s fun s =>
    let g := s.grp
    if g.uhc = 0 then ils 4
    else
      let q := s.pth
      let o := g.path (1 - s.fpath)
      let a := clear3 (s.rs 120)
      let g1 := ({ g with uhc := 0 }).setPath (1 - s.fpath) { o with held := false }
      .goto (s.setGrp (g1.setPath s.fpath { q with mask := s.rs 124 &&& q.owned })) (if continues g.uhc then a + 8 else a)

end Sys2Proof.Machine
end

