-- ==== Sys2Proof/Machine/FaultService.lean ====
section
/-! DEFINITION. The fault ring and the reply ring (15 R444 to R449). -/

namespace Sys2Proof.Machine

/-- The 32 bytes of a fault record (15 R446). -/
def FaultRec.bytes (f : FaultRec) (part : Nat) : List Byte :=
  leBytes 8 (f.fid + f.asid % 2 ^ 16 * 2 ^ 32 + part * 2 ^ 48 + f.kind * 2 ^ 56 + f.why * 2 ^ 60) ++ leBytes 8 f.va
    ++ leBytes 16 (f.lvl + f.src * 2 ^ 4 + f.die * 2 ^ 8 + f.site * 2 ^ 11)

/-- FAULT_RECORD_SEND (15 R447): record `idx`, the first not yet sent, goes to the ring where it has room, the new TAIL a release at
`.sys`, and the host is told. -/
def execFaultRecordSend (part idx : Nat) (s : State) : Host.Outcome State Fault Refusal :=
  let p := s.part part
  match p.faults[idx]? with
  | none => .next s
  | some f =>
    let tail := s.rnum p.fra 8
    let head := s.rnum (p.fra + 8) 8
    if f.sent || !(p.faults.take idx).all (·.sent) || (tail + 2 ^ 64 - head) % 2 ^ 64 ≥ p.frc then .next s
    else
      let s1 := s.wbytes (p.fra + 64 + 32 * (tail % p.frc)) (f.bytes part)
      let s2 := s1.releaseLocs part .sys false ((List.range 8).map fun i => .gpa (p.fra + i)) ((tail + 1) % 2 ^ 64)
      let s3 := s2.setPart part { s2.part part with faults := setIdx p.faults idx fun f => { f with sent := true } }
      .next (s3.emit (.part part) 3 0 part (leBytes 4 f.fid))

/-- A group's record has been answered (15 R444). -/
def Group.answered (g : Group) (fid : Nat) (bad : Bool) : Group :=
  { g with flt := g.flt.filter (· ≠ fid), fltBad := g.fltBad || bad }

/-- Acts on an answer for one attached agent (15 R444, R449): `bad` where the fault is unresolvable. -/
def State.answer (s : State) (f : FaultRec) (bad : Bool) : Attached → State
  | .group lid team gid =>
    match s.findGroup lid team gid with
    | some gk =>
      let g := (s.group gk).answered f.fid bad
      let s1 := s.setGroup gk g
      if g.stopped && decide (g.hold = .page) && g.flt.isEmpty then
        if g.fltBad then s1.unresolved gk else s1.setGroup gk { g with stopped := false, hold := .none }
      else s1
    | none =>
      { s with saved := s.saved.map fun v => if v.is lid team gid then { v with grp := v.grp.answered f.fid bad } else v }
  | .engine k =>
    match (s.eng k).cmd with
    | some c =>
      if c.susp = some f.fid then s.setEng k { s.eng k with cmd := some { c with susp := none, bad := if bad then f.va :: c.bad else c.bad } } else s
    | none => s
  | .stream lid team gid k =>
    match s.findGroup lid team gid with
    | some gk =>
      let g := s.group gk
      let x := g.stream k
      if x.susp = some f.fid then s.setGroup gk (g.setStream k { x with susp := none, bad := if bad then f.va :: x.bad else x.bad }) else s
    | none => s
  | .host q =>
    let x := s.lq q
    s.setLq q { x with hold := x.hold.filter (· ≠ f.fid), bad := x.bad || bad }

/-- REPLY_PROCESS (15 R448): the next reply below TAIL is acted on, and HEAD moves on. -/
def execReplyProcess (part : Nat) (s : State) : Host.Outcome State Fault Refusal :=
  let p := s.part part
  let tail := s.rnum p.rra 8
  let head := s.rnum (p.rra + 8) 8
  if (tfind? s.parts part).isNone || tail = head then .next s
  else
    let a := p.rra + 64 + 16 * (head % p.rrc)
    let fid := s.rnum a 4
    let act := bits (s.rnum (a + 4) 4) 0 2
    let s1 := match p.faults.find? fun f => f.fid == fid && f.sent with
      | some f =>
        if act = 1 || act = 2 then
          f.att.foldl (fun (t : State) (x : Attached) => t.answer f (act == 2) x)
            (s.setPart part { p with faults := p.faults.filter fun g => g.fid ≠ fid })
        else s
      | none => s
    .next (s1.wnum (p.rra + 8) 8 ((head + 1) % 2 ^ 64))

end Sys2Proof.Machine
end

