-- ==== Sys2Proof/Machine/Grace.lean ====
section
/-! DEFINITION. The grace tracker (14 R405, R423 to R430). -/

namespace Sys2Proof.Machine

/-- The tracker reads GRI, SWD, PTH and LKT of the control block; a GRI outside its limits is ignored (14 R405). -/
def State.readPcb (s : State) (part : Nat) : State :=
  let p := s.part part
  let gri := s.rnum (p.pcba + 2) 2
  s.setPart part { p with gri := if 64 ≤ gri && gri ≤ 4096 then gri else p.gri, swd := s.rnum (p.pcba + 4) 4,
                          pth := s.rnum (p.pcba + 8) 4, lkt := s.rnum (p.pcba + 14) 2 }

/-- The cores of a partition. -/
def State.partCores (s : State) (p : Part) : List Nat :=
  (s.cores.filter fun e => p.dies.testBit (dieOf e.1)).map (·.1)

/-- The open sections of a colour in the three places (13 R389, 14 R425). -/
def State.openCount (s : State) (part : Nat) (col : Bool) : Nat :=
  let p := s.part part
  (s.partCores p).foldl (fun n c => n + tget 0 p.oc (c * 2 + b2n col) + tget 0 p.kc (c * 2 + b2n col)) 0
    + (if col then p.swc1 else p.swc0)

/-- The locations that the tracker reads and writes at a virtual address of a pool: none where they are not present or not writable
(14 R429). -/
def State.trackLocs (s : State) (part asid va n : Nat) : Option (State × List Loc) :=
  let die := ((List.range Config.nDies).find? fun d => (s.part part).dies.testBit d).getD 0
  match s.xspan ⟨die, part, asid, []⟩ va n .rmw with
  | (s1, .ok pas) => some (s1, pas.map Loc.gpa)
  | _ => none

/-- Writes a number at locations. -/
def State.putLocs (s : State) (ls : List Loc) (v : Nat) : State := s.wcells (ls.zip (leBytes ls.length v))

/-- Releases a deferred entry (14 R428 to R430; 07 R250): none where the release is held back. GSQ in a completion record is the value before
the increment (log entry 57). A load that returns the record acquires the sections whose end it waited for (05 R159), and so does an acquire of
the new TAIL. -/
def State.release (s : State) (part : Nat) (e : DfEnt) : Option State :=
  match s.poolEntry part e.pool with
  | none => none
  | some p =>
    if (s.asRoot (s.part part) p.asid).isNone then none
    else if p.kind = 1 then
      let b := (e.addr - p.base) / max p.bsz 1
      (s.trackLocs part p.asid (p.rcb + 4 * b) 4).map fun x => x.1.putLocs x.2 (recSt (leNat (x.2.map x.1.rb)) 0)
    else
      match s.trackLocs part p.asid p.base 16 with
      | none => none
      | some (s1, hd) =>
        let tail := leNat ((hd.take 8).map s1.rb)
        let head := leNat ((hd.drop 8).map s1.rb)
        if (tail + 2 ^ 64 - head) % 2 ^ 64 ≥ p.nblk then none
        else
          (s1.trackLocs part p.asid (p.base + 64 + 16 * (tail % max p.nblk 1)) 16).map fun x =>
            (x.1.releaseLocs part .dev true x.2 (e.addr + e.sc * 2 ^ 64 + e.pool * 2 ^ 72 + (s.part part).gsq % 2 ^ 32 * 2 ^ 96)).releaseLocs part .dev
              false (hd.take 8) ((tail + 1) % 2 ^ 64)

/-- Releases the entries up to a target, in append order; one that is held back holds the later ones of its pool (14 R428). Answers the
entries that stay. -/
def State.releaseUpTo (part target : Nat) : List DfEnt → List Nat → List DfEnt → State → State
  | [], _, kept, s => s.setPart part { s.part part with dfq := kept.reverse }
  | e :: r, held, kept, s =>
    if e.target > target || held.contains e.pool then State.releaseUpTo part target r held (e :: kept) s
    else
      match s.release part e with
      | some s1 => State.releaseUpTo part target r held kept s1
      | none => State.releaseUpTo part target r (e.pool :: held) (e :: kept) s

/-- GRACE_SWEEP (14 R425), GRI clk after the last one: the end of a grace period that nothing holds up, and the flip for one that is requested. -/
def execGraceSweep (part : Nat) (s : State) : Host.Outcome State Fault Refusal :=
  if (tfind? s.parts part).isNone || decide ((s.part part).gtick < (s.part part).gri) then .next s
  else
    let s0 := s.setPart part { s.part part with gtick := 0 }
    let s1 := s0.readPcb part
    let p := s1.part part
    let past := p.drain && (s1.partCores p).all (fun c => (s1.core c).colour == p.cc) && s1.openCount part p.old == 0
    let s2 := State.releaseUpTo part (if past then p.gsq + 1 else p.gsq) p.dfq [] [] s1
    let s3 := if past then
        (s2.setPart part { s2.part part with gsq := (s2.part part).gsq + 1, drain := false }).wakeGsync part
      else s2
    let q := s3.part part
    .next (if !q.drain && q.pend then s3.setPart part { q with old := q.cc, cc := !q.cc, pend := false, drain := true } else s3)

/-- COLOUR_ARRIVAL (14 R424): the partition's colour reaches a core. -/
def execColourArrival (core : Nat) (s : State) : Host.Outcome State Fault Refusal :=
  match (s.die (dieOf core)).part, tfind? s.cores core with
  | some p, some c => .next (s.setCore core { c with colour := (s.part p).cc })
  | _, _ => .next s

end Sys2Proof.Machine
end

