-- ==== Sys2Proof/Machine/Crypto.lean ====
section
/-! DEFINITION. The two functions that bring-up and attestation name (16 R481, R482): SHA-512, and Ed25519 (RFC 8032). The spec cites them by
name; their definitions are the two standards' (log entry 30). -/

namespace Sys2Proof.Machine

/-- Goes on with a number that has been computed. -/
def withNat {α : Type} (x : Nat) (f : Nat → α) : α :=
  match x with
  | 0 => f 0
  | n + 1 => f (n + 1)

/-! ## SHA-512 -/

/-- The largest number whose `k`-th power is at most `x`, found from bit `n - 1` down, above a first guess. -/
def rootFloor (k x : Nat) : Nat → Nat → Nat
  | 0, r => r
  | n + 1, r => withNat (r + 2 ^ n) fun c => if c ^ k ≤ x then rootFloor k x n c else rootFloor k x n r

/-- The first 64 bits of the fractional part of the `k`-th root of a number below 8 ^ k. -/
def rootFraction (k p : Nat) : Nat := rootFloor k (p * 2 ^ (64 * k)) 67 0 % 2 ^ 64

/-- The primes below `n`, for `n` up to 529. -/
def primesBelow (n : Nat) : List Nat :=
  (List.range n).filter fun p => decide (2 ≤ p) && [2, 3, 5, 7, 11, 13, 17, 19].all fun d => decide (p ≤ d) || p % d != 0

/-- The constants of the 80 rounds, from the cube roots of the first 80 primes. -/
def shaConstants : List Nat := (primesBelow 410).map (rootFraction 3)

/-- The eight words that the digest starts from, from the square roots of the first 8 primes. -/
def shaStart : List Nat := (primesBelow 20).map (rootFraction 2)

/-- The exclusive or of a 64-bit word rotated right by each of several distances. -/
def rotations (x : Nat) (l : List Nat) : Nat := l.foldl (fun a n => a ^^^ ((x >>> n) ||| ((x <<< (64 - n)) % 2 ^ 64))) 0

/-- One round on the eight words, with `kw` the sum of its constant and its word of the message schedule. -/
def shaRound (l : List Nat) (kw : Nat) : List Nat :=
  let at_ (i : Nat) : Nat := l.getD i 0
  let choice := at_ 6 ^^^ (at_ 4 &&& (at_ 5 ^^^ at_ 6))
  let majority := (at_ 0 &&& (at_ 1 ||| at_ 2)) ||| (at_ 1 &&& at_ 2)
  withNat (at_ 7 + kw + choice + rotations (at_ 4) [14, 18, 41]) fun t =>
    withNat ((at_ 3 + t) % 2 ^ 64) fun e =>
      withNat ((t + majority + rotations (at_ 0) [28, 34, 39]) % 2 ^ 64) fun a => a :: l.take 3 ++ e :: (l.drop 4).take 3

/-- The message schedule, the newest word first, with `n` more words. -/
def shaSchedule : Nat → List Nat → List Nat
  | 0, w => w
  | n + 1, w =>
    let late := w.getD 1 0
    let early := w.getD 14 0
    let x := rotations late [19, 61] ^^^ (late >>> 6)
    let y := rotations early [1, 8] ^^^ (early >>> 7)
    withNat ((x + y + w.getD 6 0 + w.getD 15 0) % 2 ^ 64) fun v => shaSchedule n (v :: w)

/-- The number that bytes hold, the first the most significant. -/
def beNat (l : List Byte) : Nat := leNat l.reverse

/-- The digest after `n` blocks of 128 bytes. -/
def shaBlocks : Nat → List Nat → List Byte → List Nat
  | 0, l, _ => l
  | n + 1, l, m =>
    let w := (List.range 16).map fun i => beNat ((m.drop (8 * i)).take 8)
    let rounds := shaConstants.zipWith (· + ·) (shaSchedule 64 w.reverse).reverse
    shaBlocks n (l.zipWith (fun x y => (x + y) % 2 ^ 64) (rounds.foldl shaRound l)) (m.drop 128)

/-- SHA-512: the 64-byte digest of a message, which is filled up to whole blocks with a one bit, zeros and its length in bits. -/
def sha512 (m : List Byte) : List Byte :=
  let n := (m.length + 17 + 127) / 128
  let full := m ++ 0x80#8 :: List.replicate (128 * n - m.length - 17) 0#8 ++ (leBytes 16 (8 * m.length)).reverse
  (shaBlocks n shaStart full).flatMap fun x => (leBytes 8 x).reverse

/-! ## Ed25519 -/

/-- The prime of the field: 2^255 - 19. -/
def edP : Nat := 2 ^ 255 - 19

/-- The order of the base point. -/
def edL : Nat := 2 ^ 252 + 27742317777372353535851937790883648493

/-- `a` to a power whose low `n` bits are those of `e`, modulo the prime. -/
def edPow (a e : Nat) : Nat → Nat
  | 0 => 1
  | n + 1 => withNat (edPow a (e / 2) n) fun r => if e % 2 = 1 then r * r % edP * a % edP else r * r % edP

/-- The inverse in the field. -/
def edInv (a : Nat) : Nat := edPow a (edP - 2) 255

/-- The constant d of the curve: -121665/121666. -/
def edD : Nat := (edP - 121665) * edInv 121666 % edP

/-- A point of the curve in extended coordinates: x = X/Z, y = Y/Z, x*y = T/Z. -/
structure EdPoint where
  x : Nat
  y : Nat
  z : Nat
  t : Nat

/-- The neutral point. -/
def EdPoint.zero : EdPoint := ⟨0, 1, 1, 0⟩

/-- The sum of two points. -/
def EdPoint.add (d : Nat) (p q : EdPoint) : EdPoint :=
  let sub (a b : Nat) : Nat := a + edP - b
  withNat (sub p.y p.x * sub q.y q.x % edP) fun a =>
    withNat ((p.y + p.x) * (q.y + q.x) % edP) fun b =>
      withNat (p.t * 2 * d % edP * q.t % edP) fun c =>
        withNat (p.z * 2 * q.z % edP) fun e =>
          let f := sub b a
          let g := sub e c
          let h := e + c
          let k := b + a
          withNat (f * g % edP) fun x => withNat (h * k % edP) fun y => withNat (g * h % edP) fun z => withNat (f * k % edP) fun t => ⟨x, y, z, t⟩

/-- A multiple of a point: by the low `n` bits of `e`. -/
def EdPoint.mul (d : Nat) (p : EdPoint) (e : Nat) : Nat → EdPoint
  | 0 => .zero
  | n + 1 =>
    let r := EdPoint.mul d p (e / 2) n
    let s := r.add d r
    if e % 2 = 1 then s.add d p else s

/-- Whether two points are one point. -/
def EdPoint.same (p q : EdPoint) : Bool := p.x * q.z % edP == q.x * p.z % edP && p.y * q.z % edP == q.y * p.z % edP

/-- The x of a point with a y and a sign: none where there is none (RFC 8032 5.1.3). -/
def edRecover (d y sign : Nat) : Option Nat :=
  let u := (y * y + edP - 1) % edP
  let v := (d * (y * y % edP) + 1) % edP
  let v3 := v * v % edP * v % edP
  let x := u * v3 % edP * edPow (u * (v3 * v3 % edP * v % edP) % edP) ((edP - 5) / 8) 252 % edP
  let vxx := v * (x * x % edP) % edP
  let root : Option Nat := if vxx = u then some x else if vxx = (edP - u) % edP then some (x * edPow 2 ((edP - 1) / 4) 253 % edP) else none
  match root with
  | some r => if r = 0 && sign = 1 then none else some (if r % 2 = sign then r else edP - r)
  | none => none

/-- The point that 32 bytes encode. -/
def edDecode (d : Nat) (b : List Byte) : Option EdPoint :=
  let n := leNat b
  let y := n % 2 ^ 255
  if b.length ≠ 32 || decide (edP ≤ y) then none
  else (edRecover d y (n / 2 ^ 255)).map fun x => ⟨x, y, 1, x * y % edP⟩

/-- The 32 bytes that encode a point. -/
def EdPoint.encode (p : EdPoint) : List Byte :=
  let i := edInv p.z
  leBytes 32 (p.y * i % edP + p.x * i % edP % 2 * 2 ^ 255)

/-- The base point: y = 4/5, x even. -/
def edBase (d : Nat) : EdPoint :=
  let y := 4 * edInv 5 % edP
  let x := (edRecover d y 0).getD 0
  ⟨x, y, 1, x * y % edP⟩

/-- Ed25519 verification (RFC 8032 5.1.7). The RFC lets a verifier test the equation times 8 or as it stands: `Config.edCofactor`. -/
def ed25519Verify (key msg sig : List Byte) : Bool :=
  withNat edD fun d =>
    let s := leNat (sig.drop 32)
    let h := leNat (sha512 (sig.take 32 ++ key ++ msg)) % edL
    match edDecode d (sig.take 32), edDecode d key with
    | some r, some a =>
      let l := (edBase d).mul d s 253
      let w := r.add d (a.mul d h 253)
      sig.length == 64 && decide (s < edL) && (if Config.edCofactor then (l.mul d 8 4).same (w.mul d 8 4) else l.same w)
    | _, _ => false

/-- The Ed25519 signature by a private key (RFC 8032 5.1.6). -/
def ed25519Sign (seed msg : List Byte) : List Byte :=
  withNat edD fun d =>
    let h := sha512 seed
    let a := leNat (h.take 32) % 2 ^ 254 / 8 * 8 + 2 ^ 254
    let key := ((edBase d).mul d a 255).encode
    let r := leNat (sha512 (h.drop 32 ++ msg)) % edL
    let rb := ((edBase d).mul d r 253).encode
    let k := leNat (sha512 (rb ++ key ++ msg)) % edL
    rb ++ leBytes 32 ((r + k * a) % edL)

end Sys2Proof.Machine
end

