-- ==== Sys2Proof/Machine/Transport.lean ====
section
/-! DEFINITION. The Swevos transport (16 R460 to R465): frames, sequence numbers, sessions, and the placing of records in rings. -/

namespace Sys2Proof.Machine

/-! ## Records -/

/-- The fields of a record's header (16 R466). -/
structure RHdr where
  code : Nat
  lq : Nat
  mgt : Bool
  size : Nat
  res : Bool
  rseq : Nat
  deriving DecidableEq, Repr

/-- The header of a record. -/
def recHdr (r : List Byte) : RHdr :=
  let w := leNat (r.take 16)
  { code := bits w 0 8, lq := bits w 8 8, mgt := bit w 16, size := bits w 32 16, res := bits w 17 15 ≠ 0 || bits w 48 16 ≠ 0,
    rseq := bits w 64 64 }

/-- A field of a record's body, in bytes from its first one. -/
def recFld (r : List Byte) (off n : Nat) : Nat := leNat ((r.drop (16 + off)).take n)

/-- The records of a payload (16 R466), at most `fuel`: one whose SIZE does not fit takes the rest. -/
def splitRecords : Nat → List Byte → List (List Byte)
  | 0, _ => []
  | fuel + 1, l =>
    if l.isEmpty then []
    else
      let n := 16 * (recHdr l).size
      if n = 0 || n > l.length then [l] else l.take n :: splitRecords fuel (l.drop n)

/-- Whether a record goes to the management stream: MGT = 1 with no queue code (16 R466, R469). -/
def RHdr.management (h : RHdr) : Bool := h.mgt && !(decide (1 ≤ h.code) && decide (h.code ≤ 5))

/-- Places a record (16 R463, R465, R469): in its queue's ring, or among the management records; one with an RSEQ already past is
discarded. A record that its ring can never hold stands behind the ring as it is. None where there is no room yet. -/
def State.place (s : State) (r : List Byte) : Option State :=
  let h := recHdr r
  let drop : State := { s with tp := { s.tp with discarded := s.tp.discarded + 1 } }
  if h.management then
    if h.rseq < s.tp.rseq then some drop else some { s with tp := { s.tp with mgmt := s.tp.mgmt ++ [r] } }
  else
    let x := s.lq h.lq
    if h.rseq < x.floor then some drop
    else if x.stuck.isSome then (if x.halt then some drop else none)
    else if x.size = 0 || x.part.isNone || x.woff + r.length > x.size then some (s.setLq h.lq { x with stuck := some r })
    else if x.used + r.length > x.size then none
    else some ((s.wbytes (x.base + x.woff) r).setLq h.lq { x with woff := (x.woff + r.length) % x.size, used := x.used + r.length })

/-- Places the records of a frame, all or none (16 R465). -/
def State.placeAll (s : State) : List (List Byte) → Option State
  | [] => some s
  | r :: rs => (s.place r).bind fun t => t.placeAll rs

/-! ## Frames -/

/-- Whether a frame of a type is well-formed (16 R460). -/
def frameOk (f : Frame) (typ : Nat) : Bool :=
  decide (f.ver = 1) && decide (f.typ = typ) && (if typ = 3 then f.flags == 1 || f.flags == 2 else f.flags == 0)
    && decide (f.len = f.payload.length) && decide (f.len ≤ 9136)

/-- Discards and counts a frame (16 R460). -/
def Transport.discard (t : Transport) : Transport := { t with discarded := t.discarded + 1 }

/-- Goes on with a frame of a type in the live session; any other is discarded and counted. Its ASEQ acknowledges. -/
def State.withFrame (s : State) (f : Frame) (typ : Nat) (go : State → State) : Host.Outcome State Fault Refusal :=
  if frameOk f typ && s.tp.live && decide (f.sid = s.tp.sid) && decide (f.src = s.tp.endpoint) then
    .next (go { s with tp := { s.tp with acked := if seqAfter f.aseq s.tp.acked then f.aseq else s.tp.acked } })
  else .next { s with tp := s.tp.discard }

/-- Sends an ACK (16 R461). -/
def Transport.ack (t : Transport) : Transport := { t.reply 2 0 [] with unacked := 0 }

/-- DATA_FRAME (16 R461, R465). -/
def execDataFrame (f : Frame) (s : State) : Host.Outcome State Fault Refusal :=
  s.withFrame f 1 fun s =>
    let t := s.tp
    if f.sseq = t.rxNext then
      match s.placeAll (splitRecords 571 f.payload) with
      | none => { s with tp := t.reply 3 2 [] }
      | some s1 =>
        let t1 := { s1.tp with rxNext := (t.rxNext + 1) % 2 ^ 32, unacked := t.unacked + 1 }
        { s1 with tp := if t1.unacked ≥ 16 then t1.ack else t1 }
    else if seqAfter f.sseq t.rxNext then { s with tp := t.discard.reply 3 1 [] }
    else { s with tp := t.discard.ack }

/-- ACK (16 R461): the module's frames before ASEQ are acknowledged. -/
def execAck (f : Frame) (s : State) : Host.Outcome State Fault Refusal := s.withFrame f 2 id

/-- Sends kept frames again from a sequence number (16 R461). -/
def Transport.resend (t : Transport) (aseq : Nat) : Transport :=
  { t with out := t.out ++ (t.kept.filter fun k => !seqAfter aseq k.1).map fun k => ⟨1, 0, k.1, t.rxNext, t.sid, k.2⟩ }

/-- NAK (16 R461): the module retransmits from its ASEQ. -/
def execNak (f : Frame) (s : State) : Host.Outcome State Fault Refusal :=
  s.withFrame f 3 fun s => { s with tp := s.tp.resend f.aseq }

/-- ACK_TIMER (16 R461): an unacknowledged acceptance is acknowledged. -/
def execAckTimer (s : State) : Host.Outcome State Fault Refusal :=
  .next (if s.tp.live && decide (s.tp.unacked > 0) then { s with tp := s.tp.ack } else s)

/-- The state record of a launch queue (14 R408). -/
def State.queueRecord (s : State) (q : Nat) : List Byte :=
  let x := s.lq q
  let ls := s.launches.filter fun e => e.2.lq == q
  let un := (ls.filter fun e => e.2.unpl).length
  leBytes 8 x.next ++ leBytes 8 (ls.length + b2n x.halt * 2 ^ 8 + b2n x.depw * 2 ^ 9 + b2n (decide (un > 0)) * 2 ^ 10 + un * 2 ^ 16)

/-- The ring record of a launch queue (16 R462). -/
def LQueue.ringRecord (x : LQueue) : List Byte := leBytes 4 x.woff ++ leBytes 4 x.coff ++ leBytes 8 (x.size / 65536)

/-- RESYNC part i (16 R462). -/
def State.resyncPart (s : State) (i : Nat) : List Byte :=
  let t := s.tp
  let oldest := match t.kept.head? with | some k => k.1 | none => t.txNext
  leBytes 4 t.txNext ++ leBytes 4 t.rxNext ++ leBytes 4 oldest ++ leBytes 4 i ++ leBytes 16 t.rseq
    ++ (List.range 64).flatMap fun j => s.queueRecord (64 * i + j) ++ (s.lq (64 * i + j)).ringRecord

/-- RESYNC_REQUEST (16 R462): four parts answer it. -/
def execResyncRequest (f : Frame) (s : State) : Host.Outcome State Fault Refusal :=
  s.withFrame f 4 fun s => { s with tp := (List.range 4).foldl (fun t i => t.reply 5 0 (s.resyncPart i)) s.tp }

/-! ## Sessions -/

/-- A session ends (16 R464): the frames that the host has not acknowledged are kept for the next one, 65,536 at most. -/
def Transport.endSession (t : Transport) : Transport :=
  let all := (t.kept.filter fun k => !seqAfter t.acked k.1).map (·.2) ++ t.backlog
  let past := all.length - 65536
  { t with live := false, kept := [], backlog := all.drop past, dropped := t.dropped + past, unacked := 0 }

/-- A session begins (16 R461, R464): a HELLO answers with the frames dropped, then the kept frames go first. -/
def Transport.begin (t : Transport) (sid endpoint : Nat) : Transport :=
  let t0 := { t with live := true, sid := sid, endpoint := endpoint, txNext := 0, rxNext := 0, acked := 0, kept := [], backlog := [],
                     unacked := 0 }
  let t1 := { t0.reply 6 0 (leBytes 8 t.dropped) with dropped := 0 }
  t.backlog.foldl (fun a p => a.send p) t1

/-- HELLO (16 R464, R480): accepted after bring-up, with a new SID, without a live session of another endpoint. -/
def execHello (f : Frame) (s : State) : Host.Outcome State Fault Refusal :=
  let t := s.tp
  if !(frameOk f 6 && decide (f.len = 0)) then .next { s with tp := t.discard }
  else if !s.up || (t.live && (f.src ≠ t.endpoint || f.sid == t.sid)) then .next s
  else .next { s with tp := (if t.live then t.endSession else t).begin f.sid f.src }

/-- CLOSE (16 R464). -/
def execClose (f : Frame) (s : State) : Host.Outcome State Fault Refusal :=
  if f.len = 0 then s.withFrame f 7 fun s => { s with tp := s.tp.endSession } else .next { s with tp := s.tp.discard }

/-- SESSION_TIMEOUT (16 R464): no valid frame for 10 s. -/
def execSessionTimeout (s : State) : Host.Outcome State Fault Refusal :=
  .next (if s.tp.live then { s with tp := s.tp.endSession } else s)

end Sys2Proof.Machine
end

