-- ==== Sys2Proof/Machine/Records.lean ====
section
/-! DEFINITION. The queue records (16 R465 to R469): what makes one malformed (01 R20), and LAUNCH, WRAP, WRITE, READ and MARKER. -/

namespace Sys2Proof.Machine

/-! ## Launch records -/

/-- A field of a launch record, by its first bit and its width (01 R17). -/
def lfld (n lo w : Nat) : Nat := bits n lo w

/-- The launch record that 256 bytes hold (01 R17, R18): a dependence entry as VAL, PH, LQ, KIND. -/
def LRec.ofNat (n : Nat) : LRec :=
  let dep (i : Nat) : Nat × Nat × Nat × Nat :=
    let b := 512 + 128 * i
    (lfld n b 64, lfld n (b + 64) 32, lfld n (b + 96) 16, lfld n (b + 112) 2)
  { entry := lfld n 0 64, hpc := lfld n 64 64, gx := lfld n 128 16, gy := lfld n 144 16, gz := lfld n 160 16, cw := lfld n 176 4,
    ch := lfld n 180 4, tg := lfld n 184 5, gw := lfld n 192 2, vr := lfld n 194 4, nt := lfld n 200 5, sps := lfld n 208 4,
    pri := lfld n 212 2, dc := bit n 214, part := lfld n 216 8, spb := lfld n 224 32, param := lfld n 256 64, tag := lfld n 320 64,
    nd := lfld n 384 3, deps := (List.range (min (lfld n 384 3) 4)).map dep }

/-- Whether dependence entry i of a launch record breaks 01 R18 or 14 R406. -/
def State.depBad (s : State) (q n i : Nat) : Bool :=
  let e := lfld n (512 + 128 * i) 128
  let lq := bits e 96 16
  if i ≥ lfld n 384 3 then e ≠ 0
  else
    bits e 114 14 ≠ 0
      || (match bits e 112 2 with
          | 1 => bits e 64 32 ≠ 0 || decide (lq ≥ 256) || (s.lq lq).part.isNone || (s.lq lq).part ≠ (s.lq q).part
          | 2 => bits e 0 64 % 8 ≠ 0 || lq ≠ 0
          | _ => true)

/-- The sub-reason of a launch record (01 R20): the lowest-numbered check that it fails, 0 where it fails none. -/
def State.launchSub (s : State) (q n : Nat) : Nat :=
  let r := LRec.ofNat n
  let addr (a : Nat) : Bool := a % 8 ≠ 0 || decide (a ≥ 2 ^ 57)
  let res (lo w : Nat) : Bool := lfld n lo w ≠ 0
  let checks : List (Nat × Bool) :=
    [(1, addr r.entry), (2, r.hpc ≠ 0 && addr r.hpc), (3, r.gx == 0), (4, r.gy == 0), (5, r.gz == 0),
     (6, r.cw == 0 || decide (r.cw > 8)), (7, r.ch == 0 || decide (r.ch > 11)), (8, decide (r.cw * r.ch > 12)),
     (9, r.tg == 0 || decide (r.tg > 16)), (10, decide (r.nt > 16)), (11, decide (r.sps > 8)), (12, (s.lq q).part ≠ some r.part),
     (13, r.spb % 128 ≠ 0 || decide (r.spb > (r.sps + 2) * 2 ^ 18)), (14, r.param % 64 ≠ 0), (15, decide (r.nd > 4)),
     (16, s.depBad q n 0), (17, s.depBad q n 1), (18, s.depBad q n 2), (19, s.depBad q n 3),
     (20, res 189 3 || res 198 2 || res 205 3 || res 215 1 || res 387 125 || res 1024 1024),
     (21, decide (r.nt * ((r.tg + 3) / 4) > 32))]
  match checks.find? fun c => c.2 with
  | some c => c.1
  | none => 0

/-! ## The head of a queue -/

/-- The record that the front end takes next from a queue, and its ring offset: the one at COFF, or the one that the ring cannot hold. -/
def State.headRecord (s : State) (q : Nat) : Option (List Byte × Nat) :=
  let x := s.lq q
  if x.used > 0 then
    let n := 16 * s.rnum (x.base + x.coff + 4) 2
    let m := if n = 0 || n > x.used then x.used else n
    some ((List.range (min m 9136)).map fun i => s.rb (.gpa (x.base + x.coff + i)), x.coff)
  else x.stuck.map fun r => (r, x.woff)

/-- Bytes that a WRITE carries: its SIZE less header and VA, 8,192 at most (16 R466). -/
def writeLen (size : Nat) : Nat := min (16 * size - 24) 8192

/-- The largest SIZE of a record (16 R466). -/
def maxRecSize : Nat := 570

/-- Whether the SIZE of a queue record, or a length in it, is outside its limits (16 R466, R469 reason 5). -/
def State.sizeBad (s : State) (q : Nat) (r : List Byte) (off : Nat) : Bool :=
  let h := recHdr r
  let size := (s.lq q).size
  r.length ≠ 16 * h.size || decide (h.size > maxRecSize)
    || (match h.code with
        | 1 => h.size ≠ 17
        | 2 => decide (size ≠ 0) && off + 16 * h.size ≠ size
        | 3 => decide (h.size < 2) || decide (h.size > 514)
        | 4 => h.size ≠ 2 || recFld r 8 4 == 0 || decide (recFld r 8 4 > 4096)
        | _ => h.size ≠ 2)

/-- Whether the address space of a queue exists (15 R435). -/
def State.queueSpace (s : State) (q : Nat) : Bool :=
  match (s.lq q).part with
  | some p => (s.asRoot (s.part p) (s.queueAsid (s.part p) q)).isSome
  | none => true

/-- The reason and the sub-reason of a malformed queue record (16 R469): the lowest-numbered one, (0, 0) for a good record. The address space of a
LAUNCH is judged at its admission (15 R435). -/
def State.recordReason (s : State) (q : Nat) (r : List Byte) (off : Nat) : Nat × Nat :=
  let x := s.lq q
  let h := recHdr r
  let sub := s.launchSub q (leNat (r.drop 16))
  if h.mgt || h.code = 0 || h.code > 5 then (1, 0)
  else if h.res then (2, 0)
  else if x.size ≠ 0 && off + r.length > x.size then (3, 0)
  else if h.rseq ≠ x.next then (4, 0)
  else if s.sizeBad q r off then (5, 0)
  else if h.code = 1 && sub ≠ 0 then (6, sub)
  else if (h.code = 3 || h.code = 4) && !s.queueSpace q then (7, 0)
  else if x.size = 0 || x.part.isNone then (8, 0)
  else (0, 0)

/-- The front end has finished with a record of `n` bytes: COFF moves past it (16 R465). -/
def LQueue.pass (x : LQueue) (n : Nat) : LQueue := { x with coff := (x.coff + n) % max x.size 1, used := x.used - n }

/-- A record other than a launch is processed (14 R407): NEXT moves on, and dependences on it are met. -/
def LQueue.finish (x : LQueue) (rseq n : Nat) : LQueue := { x.pass n with next := rseq + 1, done := x.done ++ [rseq] }

/-- Takes the next record of a queue, if it has this code or none of the known ones (16 R468): a malformed one halts the queue (16 R469);
a launch that waits for admission holds it (14 R407), and so does a record taken less than TST clk ago. -/
def State.frontStep (s : State) (q code : Nat) (go : State → RHdr → List Byte → Nat → State) : Host.Outcome State Fault Refusal :=
  let x := s.lq q
  if x.halt || x.head.isSome || decide (x.gap > 0) then .next s
  else
    match s.headRecord q with
    | none => .next s
    | some (r, off) =>
      let h := recHdr r
      let (reason, sub) := s.recordReason q r off
      if h.code ≠ code && 1 ≤ h.code && h.code ≤ 5 then .next s
      else if reason ≠ 0 then .next (s.qhalt q h.rseq off reason sub)
      else
        let t := go s h r off
        .next (if (t.lq q).used = x.used then t else t.setLq q { t.lq q with gap := x.tst })

/-- LAUNCH (16 R468): the record goes to the scheduler, where it waits for admission. -/
def execLaunch (q : Nat) (s : State) : Host.Outcome State Fault Refusal :=
  s.frontStep q 1 fun s h r off =>
    s.setLq q { (s.lq q).pass r.length with head := some (h.rseq, LRec.ofNat (leNat (r.drop 16)), off) }

/-- WRAP (16 R465): the rest of the ring is passed over. -/
def execWrap (q : Nat) (s : State) : Host.Outcome State Fault Refusal :=
  s.frontStep q 2 fun s h r _ => s.setLq q ((s.lq q).finish h.rseq r.length)

/-! ## Host accesses -/

/-- How a host access goes (16 R468, 15 R449): its physical addresses, held at a page, or refused. -/
inductive HostAcc
  | ok (pas : List Nat)
  | page (va why lvl : Nat)
  | refused

/-- Translates a host access of `n` bytes (15 R440 to R443). -/
def State.hostSpan (s : State) (p : Part) (asid : Nat) (k : AKind) : Nat → Nat → Nat → List Nat → HostAcc
  | 0, _, _, acc => .ok acc
  | fuel + 1, va, n, acc =>
    if n = 0 then .ok acc
    else if va ≥ 2 ^ 57 then .refused
    else
      let m := min n (65536 - va % 65536)
      match s.walk p asid va with
      | .bad why lvl => .page va why lvl
      | .leaf pte base size _ =>
        match s.judge p pte base va k with
        | .ok pa => s.hostSpan p asid k fuel (va + m) (n - m) (acc ++ (List.range m).map (pa + ·))
        | .error (.page why _) => .page va why (sizeLevel size)
        | .error _ => .refused

/-- Performs a host access of a record: held while a fault record is outstanding; `refuse` where it is refused. -/
def State.hostAccess (s : State) (q : Nat) (va n : Nat) (k : AKind) (go : State → List Nat → State) (refuse : State → State) : State :=
  let x := s.lq q
  let pid := x.part.getD 0
  let p := s.part pid
  let asid := s.queueAsid p q
  if !x.hold.isEmpty then s
  else if x.bad then refuse (s.setLq q { x with bad := false })
  else
    match s.hostSpan p asid k 3 va n [] with
    | .ok pas => go s pas
    | .refused => refuse s
    | .page a why lvl =>
      let (p1, fid) := p.attach asid (a, why, lvl) k.code 4 0 0 (.host q)
      (s.setPart pid p1).setLq q { x with hold := x.hold ++ [fid] }

/-- The RDATA event of a record (16 R472). -/
def State.rdata (s : State) (q rseq : Nat) (data : List Byte) : State :=
  s.emit (.lq q) 7 q ((s.lq q).part.getD 0) (leBytes 8 rseq ++ leBytes 8 data.length ++ data)

/-- WRITE (16 R468). A refused access is answered with an RDATA event without data (log entry 60). -/
def execWrite (q : Nat) (s : State) : Host.Outcome State Fault Refusal :=
  s.frontStep q 3 fun s h r _ =>
    let data := (r.drop 24).take (writeLen h.size)
    let fin (s : State) : State := s.setLq q ((s.lq q).finish h.rseq r.length)
    s.hostAccess q (recFld r 0 8) data.length .write (fun s pas => fin (s.wcells ((pas.map Loc.gpa).zip data)))
      fun s => (fin s).rdata q h.rseq []

/-- READ (16 R468): answered with RDATA. -/
def execRead (q : Nat) (s : State) : Host.Outcome State Fault Refusal :=
  s.frontStep q 4 fun s h r _ =>
    let fin (s : State) : State := s.setLq q ((s.lq q).finish h.rseq r.length)
    s.hostAccess q (recFld r 0 8) (recFld r 8 4) .read (fun s pas => (fin s).rdata q h.rseq (pas.map fun a => s.rb (.gpa a)))
      fun s => (fin s).rdata q h.rseq []

/-- MARKER (16 R468): COMPLETE with its TAG follows every launch earlier in its queue. -/
def execMarker (q : Nat) (s : State) : Host.Outcome State Fault Refusal :=
  s.frontStep q 5 fun s h r _ =>
    let x := (s.lq q).finish h.rseq r.length
    (s.setLq q { x with markers := x.markers ++ [(h.rseq, recFld r 0 8, s.nextLaunch)] }).markers q

end Sys2Proof.Machine
end

