-- ==== Sys2Proof/Machine/Management.lean ====
section
/-! DEFINITION. The management records (16 R459, R463, R466 to R470, R474, R478, R482; 15 R433, R434): each is answered by an MREPLY. -/

namespace Sys2Proof.Machine

/-- What a management record finds: done, refused, malformed (16 R468), with the data that its MREPLY carries. -/
inductive MRes
  | done (s : State) (data : List Byte)
  | refused
  | malformed

/-- Whether a management record has its SIZE, and zero in every body byte that is not listed (16 R467). -/
def bodyOk (r : List Byte) (size : Nat) (listed : List (Nat × Nat)) : Bool :=
  decide ((recHdr r).size = size) && decide (r.length = 16 * size)
    && (List.range (16 * (size - 1))).all fun i => listed.any (fun f => decide (f.1 ≤ i) && decide (i < f.1 + f.2)) || r.getD (16 + i) 0 == 0

/-- Whether a management record's CODE is known (16 R466). -/
def mgmtKnown (code : Nat) : Bool := decide (16 ≤ code) && decide (code ≤ 25)

/-- Takes the next management record, if it has this code or an unknown one (16 R463, R468): it is judged, `go` acts on it, and an MREPLY
answers it. -/
def State.mgmtStep (s : State) (code size : Nat) (listed : List (Nat × Nat)) (go : State → List Byte → MRes) :
    Host.Outcome State Fault Refusal :=
  match s.tp.mgmt with
  | [] => .next s
  | r :: rs =>
    let h := recHdr r
    if mgmtKnown h.code && h.code ≠ code then .next s
    else
      let inSeq := decide (h.rseq = s.tp.rseq)
      let s1 := { s with tp := { s.tp with mgmt := rs, rseq := if inSeq then h.rseq + 1 else s.tp.rseq } }
      let answer (s : State) (status : Nat) (data : List Byte) : State :=
        s.emit .mgmt 6 0 0 (leBytes 8 h.rseq ++ leBytes 8 status ++ data)
      .next (if h.code ≠ code || h.lq ≠ 0 || h.res || !inSeq || !bodyOk r size listed then answer s1 2 []
        else match go s1 r with
          | .done t data => answer t 0 data
          | .refused => answer s1 1 []
          | .malformed => answer s1 2 [])

/-! ## Partitions -/

/-- A power of two between two bounds. -/
def powerIn (n lo hi : Nat) : Bool := n == 2 ^ n.log2 && decide (lo ≤ n) && decide (n ≤ hi)

/-- A field of a partition descriptor or control block at a physical address, by its first bit and width. -/
def State.dfld (s : State) (a lo w : Nat) : Nat := bits (s.rnum a 128) lo w

/-- Whether a control block passes 14 R405. -/
def State.pcbOk (s : State) (a : Nat) : Bool :=
  let f := s.dfld a
  decide (f 0 16 = 1) && decide (64 ≤ f 16 16) && decide (f 16 16 ≤ 4096) && f 128 64 % 64 == 0 && f 192 64 % 4096 == 0
    && powerIn (f 256 32) 1024 (2 ^ 20) && f 288 32 == 0 && f 320 64 % 4096 == 0 && f 384 64 % 4096 == 0 && f 448 576 == 0

/-- Whether a descriptor's fields are within their limits (15 R433). -/
def State.descriptorOk (s : State) (a : Nat) : Bool :=
  let f := s.dfld a
  decide (f 0 8 < 8) && f 8 8 ≠ 0 && f 48 16 ≠ 0 && f 64 64 % 128 == 0 && f 128 64 % 64 == 0 && f 192 64 % 4096 == 0
    && powerIn (f 256 32) 256 65536 && f 288 32 == 0 && f 320 64 % 4096 == 0 && powerIn (f 384 32) 256 65536 && f 416 32 == 0
    && f 448 64 % 64 == 0

/-- Whether something that a descriptor names belongs to a live partition already (15 R434), or a peer skein has no peer (16 R467). -/
def State.taken (s : State) (a : Nat) : Bool :=
  let f := s.dfld a
  (tfind? s.parts (f 0 8)).isSome
    || s.parts.any (fun e => e.2.dies &&& f 8 8 ≠ 0 || e.2.lsk &&& f 16 16 ≠ 0 || e.2.rsk &&& f 32 16 ≠ 0 || e.2.lqmap &&& f 512 256 ≠ 0)
    || (List.range 16).any fun k => (f 32 16).testBit k && !(tget Peer.empty s.peers k).v

/-- The partition that a descriptor creates (15 R434, 14 R404, R423). -/
def State.newPart (s : State) (a : Nat) : Part :=
  let f := s.dfld a
  let g := s.dfld (f 64 64)
  { Part.empty with
    dies := f 8 8, lsk := f 16 16, rsk := f 32 16, nas := f 48 16, pcba := f 64 64, ast := f 128 64, fra := f 192 64, frc := f 256 32,
    rra := f 320 64, rrc := f 384 32, qasa := f 448 64, lqmap := f 512 256, rsz := (List.range 16).map fun k => f (768 + 16 * k) 16,
    gri := g 16 16, swd := g 32 32, pth := g 64 32, npool := g 96 16, lkt := g 112 16, pta := g 128 64, dfqa := g 192 64,
    dfqc := g 256 32, fpa := g 320 64, fpl := g 384 64 }

/-- Whether bytes lie in local memory that exists. -/
def State.present (s : State) (a n : Nat) : Bool :=
  decide (a / 2 ^ 47 < 16) && decide (a % 2 ^ 47 + n ≤ (s.skcap[a / 2 ^ 47]?).getD 0)

/-- A launch queue assigned to a partition, its state record at reset; NEXT stays (15 R434, 16 R463). -/
def LQueue.assign (x : LQueue) (part : Option Nat) : LQueue :=
  { LQueue.init with part := part, next := x.next, floor := x.floor, done := x.done, eseq := x.eseq }

/-- PCREATE (15 R433, R434; 16 R481): the first one confirms the running image. -/
def execPcreate (s : State) : Host.Outcome State Fault Refusal :=
  s.mgmtStep 16 2 [(0, 8)] fun s r =>
    let a := recFld r 0 8
    if a % 128 ≠ 0 then .malformed
    else if !s.present a 128 || !s.descriptorOk a || s.taken a || !s.present (s.dfld a 64 64) 128 || !s.pcbOk (s.dfld a 64 64) then .refused
    else
      let p := s.newPart a
      let pid := s.dfld a 0 8
      let zero (s : State) (a : Nat) : State := s.wbytes a (List.replicate 64 0#8)
      let s1 := zero (zero (s.setPart pid p) p.fra) p.rra
      let s2 := { s1 with
        lqs := ((List.range 256).filter fun q => p.lqmap.testBit q).foldl (fun t q => tput t q ((s1.lq q).assign (some pid))) s1.lqs,
        dies := s1.dies.map fun (e : Nat × Die) => if p.dies.testBit e.1 then (e.1, { e.2 with part := some pid }) else e,
        cores := s1.cores.map fun (e : Nat × Core) => if p.dies.testBit (dieOf e.1) then (e.1, { e.2 with colour := false }) else e,
        rollback := if s1.confirmed then s1.rollback else max s1.rollback ((s1.image.map (·.svn)).getD 0),
        confirmed := true }
      .done s2 []

/-- Whether anything of a partition still runs (15 R434). -/
def State.partBusy (s : State) (pid : Nat) : Bool :=
  s.launches.any (fun e => e.2.lr.part == pid) || s.saved.any (fun v => v.grp.part == pid)
    || s.engs.any fun e => match e.2.cmd with | some c => c.part == pid && !c.ctl | none => false

/-- PDESTROY (15 R434). -/
def execPdestroy (s : State) : Host.Outcome State Fault Refusal :=
  s.mgmtStep 17 2 [(0, 1)] fun s r =>
    let pid := recFld r 0 1
    if (tfind? s.parts pid).isNone || s.partBusy pid then .refused
    else
      .done { s with
        parts := tdel s.parts pid,
        dies := s.dies.map fun (e : Nat × Die) =>
          (e.1, { e.2 with part := if e.2.part = some pid then none else e.2.part, tlb := e.2.tlb.filter fun t => t.part ≠ pid }),
        lqs := s.lqs.map fun (e : Nat × LQueue) => if e.2.part = some pid then (e.1, e.2.assign none) else e } []

/-! ## Queues -/

/-- QCFG (16 R465, R467): a queue's ring and its throttle. -/
def execQcfg (s : State) : Host.Outcome State Fault Refusal :=
  s.mgmtStep 18 3 [(0, 1), (4, 4), (8, 8), (16, 8)] fun s r =>
    let q := recFld r 0 1
    let tst := recFld r 4 4
    let base := recFld r 8 8
    let size := recFld r 16 8
    let x := s.lq q
    if tst = 0 || tst > 1024 || base % 4096 ≠ 0 || !powerIn size 65536 (2 ^ 28) then .malformed
    else
      match x.part with
      | none => .refused
      | some pid =>
        if s.paIn (s.part pid) base && s.paIn (s.part pid) (base + size - 1) && s.present base size then
          .done (s.setLq q { x with base := base, size := size, tst := tst, woff := 0, coff := 0, used := 0, stuck := none }) []
        else .refused

/-- QRESET (16 R469): the ring is empty, NEXT := S, HALT is clear; a launch not yet admitted, and a host access that waits for a page, are dropped
with the ring. -/
def execQreset (s : State) : Host.Outcome State Fault Refusal :=
  s.mgmtStep 19 2 [(0, 1), (8, 8)] fun s r =>
    let q := recFld r 0 1
    let n := recFld r 8 8
    let x := s.lq q
    let leave (f : FaultRec) : FaultRec := { f with att := f.att.filter (· ≠ .host q) }
    .done ({ s with parts := s.parts.map fun (e : Nat × Part) => (e.1, { e.2 with faults := e.2.faults.map leave }) }.setLq q
      { x with woff := 0, coff := 0, used := 0, stuck := none, head := none, next := n, floor := n, halt := false,
               depw := false, cancels := [], done := x.done.filter (· < n), hold := [], bad := false }) []

/-- CANCEL (16 R470). -/
def execCancel (s : State) : Host.Outcome State Fault Refusal :=
  s.mgmtStep 20 2 [(0, 1), (8, 8)] fun s r =>
    let q := recFld r 0 1
    let n := recFld r 8 8
    let x := s.lq q
    match s.launches.find? fun e => e.2.lq == q && e.2.rseq == n with
    | some e => .done (if e.2.abort.isSome then s else s.abortLaunch e.1 3) []
    | none =>
      if n < x.next then .refused
      else .done (s.setLq q { x with cancels := if x.cancels.contains n then x.cancels else x.cancels ++ [n] }) []

/-- RACK (16 R474): the recall that it names is acknowledged. -/
def execRack (s : State) : Host.Outcome State Fault Refusal :=
  s.mgmtStep 21 2 [(0, 8)] fun s r =>
    let i := recFld r 0 8
    if s.recalls.any fun x => x.id == i && !x.acked then
      .done { s with recalls := s.recalls.map fun x => if x.id = i then { x with acked := true } else x } []
    else .refused

/-! ## The module -/

/-- The peer table as measured (16 R467). -/
def State.peerTable (s : State) : List Byte :=
  (List.range 16).flatMap fun k =>
    let e := tget Peer.empty s.peers k
    if e.v then leBytes 8 (k + 2 ^ 8 + e.psk * 2 ^ 16) ++ leBytes 8 e.paid ++ leBytes 16 e.pbase else leBytes 32 k

/-- A measurement record (16 R482): the control-group program is measured as it stands in memory. -/
def State.measure (s : State) (nonce : List Byte) : List Byte :=
  let body := (s.image.map (·.body)).getD []
  let head := leBytes 4 1 ++ leBytes 4 ((s.image.map (·.svn)).getD 0) ++ nonce ++ leBytes 8 s.serial ++ sha512 s.rom
    ++ sha512 body ++ sha512 ((Config.controlImage body).map fun c => Memory.read s.mem c.1) ++ sha512 (Memory.reads s.mem 0 4096)
    ++ sha512 s.peerTable
  head ++ ed25519Sign Config.identitySeed (sha512 head)

/-- Writes a new measurement record where MRA says (16 R459). -/
def State.putMeasure (s : State) (rec_ : List Byte) : State := { s with mem := Memory.writes s.mem s.mra rec_ }

/-- ATTEST (16 R482). -/
def execAttest (s : State) : Host.Outcome State Fault Refusal :=
  s.mgmtStep 22 3 [(0, 32)] fun s r =>
    let m := s.measure ((r.drop 16).take 32)
    .done (s.putMeasure m) m

/-- The launches that cannot leave a die: members of larger clusters on it, and grids confined to it (14 R417, 16 R478). -/
def State.boundTo (s : State) (die : Nat) : List Nat :=
  (s.launches.filter fun e => (e.2.lr.dc && e.2.die == some die)
    || s.clusters.any fun c => c.2.lid == e.1 && decide (c.2.cores.length > 1) && c.2.cores.any fun k => dieOf k == die).map (·.1)

/-- DRESET (16 R478 steps 1 and 2): the die takes no new team; its teams are pre-empted from now on (`State.emptying`), and those that can go
nowhere else are aborted with status 2. -/
def execDreset (s : State) : Host.Outcome State Fault Refusal :=
  s.mgmtStep 23 2 [(0, 1)] fun s r =>
    let d := recFld r 0 1
    if d > 7 then .malformed
    else if (tfind? s.dies d).isNone || (s.die d).resetting then .refused
    else
      let s1 := s.setDie d { s.die d with resetting := true }
      .done ((s1.boundTo d).foldl (fun t lid => t.abortLaunch lid 2) s1) []

/-- INFO (16 R459): the module information record. -/
def execInfo (s : State) : Host.Outcome State Fault Refusal :=
  s.mgmtStep 24 1 [] fun s _ => .done s (Memory.reads s.mem 0 4096)

/-- PEERS (16 R467). -/
def execPeers (s : State) : Host.Outcome State Fault Refusal :=
  s.mgmtStep 25 3 [(0, 3), (8, 2), (16, 8)] fun s r =>
    let k := recFld r 0 1
    let v := recFld r 1 1
    let e : Peer := { v := v == 1, psk := recFld r 2 1, paid := recFld r 8 2, pbase := recFld r 16 8 }
    if k > 15 || v > 1 || e.psk > 15 || e.paid > 1023 || e.pbase % 2 ^ 30 ≠ 0 then .malformed
    else if s.parts.any fun p => p.2.rsk.testBit k then .refused
    else .done { s with peers := if e.v then tput s.peers k e else tdel s.peers k } []

end Sys2Proof.Machine
end

