-- ==== Sys2Proof/Machine/Module.lean ====
section
/-! DEFINITION. The module as a whole (16 R457 to R459, R475 to R484): bring-up, die reset, lost remote requests, requests of peers, power. -/

namespace Sys2Proof.Machine

/-! ## Bring-up -/

/-- Rewrites the live fields of a die's block: RGEN and STALE (16 R459). -/
def State.putLive (s : State) (d : Nat) : State :=
  let x := s.die d
  { s with mem := Memory.writes (Memory.writes s.mem (64 + 32 * d + 12) (leBytes 2 x.rgen)) (64 + 32 * d + 24) (leBytes 8 x.stale) }

/-- Whether the ROM accepts the firmware image of a board (16 R481): `fused` is what earlier bring-ups have raised the rollback counter to. -/
def boardAccepts (b : Board) (fused : Nat) : Bool :=
  let i := b.image
  decide (i.keySlot < 4) && sha512 i.key == b.keyHash.getD i.keySlot [] && !b.revoked.testBit i.keySlot
    && sha512 i.body == i.digest && decide (i.len = i.body.length) && ed25519Verify i.key i.digest i.sig
    && decide (i.svn ≥ max b.rollback fused)

/-- Whether the skeins have their tier's capacity, or none where they are absent (00 R2, 04 R115, 16 R459); skein 0 holds the firmware. -/
def tiersOk (l : List Nat) : Bool :=
  decide (l.length = 16) && decide (l.headD 0 = 2 ^ 36) && l.zipIdx.all fun c => c.1 == 0 || c.1 == (if c.2 < 8 then 2 ^ 36 else 2 ^ 38)

/-- Whether the firmware keeps its own data from an address: the information record, the tile-queue table, the measurement record (16 R459). -/
def State.firmwareData (s : State) (a : Nat) : Bool :=
  decide (a < 4096) || (decide (s.qta ≤ a) && decide (a < s.qta + 64 * 4096)) || (decide (s.mra ≤ a) && decide (a < s.mra + 432))

/-- Loads the control-group program of the running image, and the vendor's certificate into the firmware region (16 R480 step 6, R478, R482). -/
def State.loadControl (s : State) : State :=
  let cert := Config.certificate.2.zipIdx.map fun b => ((Config.certificate.1 + b.2) % firmwareBytes, b.1)
  let cells := (cert ++ Config.controlImage ((s.image.map (·.body)).getD [])).filter fun c => !s.firmwareData c.1
  { s with mem := cells.foldl (fun (m : List Host.Cell) (c : Nat × Byte) => Memory.write m c.1 c.2) s.mem }

/-- Whether a board's dies have enough enabled sites and slices (16 R457), and its firmware's tables lie in the firmware region (16 R459). -/
def boardSound (b : Board) : Bool :=
  let ones (n k : Nat) : Nat := ((List.range n).filter k.testBit).length
  decide (b.cen.length = Config.nDies) && decide (b.sen.length = Config.nDies)
    && b.cen.all (fun c => decide (c < 2 ^ 88) && decide (ones 88 c ≥ 80)) && b.sen.all (fun c => decide (c < 2 ^ 64) && decide (ones 64 c ≥ 56))
    && b.qta % 64 == 0 && decide (4096 ≤ b.qta) && decide (b.qta + 2 ^ 18 ≤ firmwareBytes) && decide (4096 ≤ b.mra)
    && decide (b.mra + 432 ≤ firmwareBytes) && tiersOk b.skcap

/-- The enabled cores of a board. -/
def boardCores (b : Board) : List Nat :=
  (List.range Config.nDies).flatMap fun d =>
    ((List.range Config.nSites).filter fun c => (b.cen.getD d 0).testBit c).map fun c => d * Config.nSites + c

/-- POWER_GOOD (16 R480): bring-up. A step that fails stops it, and no state of it stays. -/
def execPowerGood (b : Board) (s : State) : Host.Outcome State Fault Refusal :=
  if s.up || !boardAccepts b s.rollback || !boardSound b || !b.ok then .next s
  else
    let s1 : State := { State.reset with
      agenda := s.agenda, fresh := s.fresh, up := true, qta := b.qta, mra := b.mra, fwver := b.fwver, serial := b.serial,
      skcap := b.skcap, image := some b.image, rom := b.rom, rollback := max b.rollback s.rollback, peerMem := s.peerMem, poison := s.poison,
      dies := (List.range Config.nDies).map fun d => (d, { Die.init with cen := b.cen.getD d 0, sen := b.sen.getD d 0 }),
      cores := (boardCores b).map fun c => (c, Core.init) }
    let s3 := s1.putInfo.loadControl
    let s4 := (boardCores b).foldl (fun t c => t.startCtl c (Config.controlEntry b.image.body)) s3
    .next (s4.putMeasure (s4.measure (List.replicate 32 0#8)))

/-! ## Die reset -/

/-- The engine slots of a die that hold a command. -/
def State.dieBusy (s : State) (d : Nat) : Bool := s.engs.any fun e => dieOf (e.1 / 128) == d && e.2.cmd.isSome

/-- The user groups of a die. -/
def State.dieGroups (s : State) (d : Nat) : List (Nat × Group) := s.groups.filter fun e => dieOf (coreOf e.1) == d && !e.2.ctl

/-- Readings of a counter that starts anew bound no later one (02 R54). -/
def Group.forgetCyc (g : Group) : Group := { g with p0 := { g.p0 with lastCyc := 0 }, p1 := { g.p1 with lastCyc := 0 } }

/-- Resets a die (16 R478 steps 4 to 6; R477, R479): its generation moves on, its counter is 0, its caches are empty, its cores are in
service again with their control groups' programs reloaded and started anew, and the host is told. Engine slots keep their SEQ and status, since tokens of
groups that left the die stay usable (09 R298; log entry 61). -/
def State.resetDie (s : State) (d : Nat) : State :=
  let x := s.die d
  let colour := match x.part with | some p => (s.part p).cc | none => false
  let mine (c : Nat) : Bool := dieOf c == d
  let s1 := s.setDie d { x with rgen := (x.rgen + 1) % 2 ^ 16, cyc := 0, tlb := [], resetting := false }
  let s2 := { s1 with
    cores := s1.cores.map fun (e : Nat × Core) => if mine e.1 then (e.1, { Core.init with colour := colour }) else e,
    engs := s1.engs.map fun (e : Nat × EngSlot) => if mine (e.1 / 128) && decide (e.2.team ≥ 2 ^ 32) then (e.1, { e.2 with held := false }) else e,
    recalls := s1.recalls.filter fun r => !mine (coreOf r.gk),
    saved := s1.saved.map fun (v : Saved) => if mine v.grp.core then { v with grp := v.grp.forgetCyc } else v }
  let cs := (s2.cores.filter fun e => mine e.1).map (·.1)
  let s3 := s2.loadControl
  let s3 := cs.foldl (fun t c => t.startCtl c (Config.controlEntry ((s.image.map (·.body)).getD []))) s3
  (s3.putLive d).emit (.die d) 8 0 (x.part.getD 0) (leBytes 8 ((x.rgen + 1) % 2 ^ 16) ++ leBytes 8 x.stale)

/-- DIE_RESET (16 R478 steps 2 to 6): once every team of the die is saved or ended and no command of it runs. A group that a faulted core's
control group still holds can never be saved (13 R388): its launch is aborted with status 2. -/
def execDieReset (d : Nat) (s : State) : Host.Outcome State Fault Refusal :=
  if !(s.die d).resetting then .next s
  else
    let gs := s.dieGroups d
    if gs.isEmpty then .next (if s.dieBusy d then s else s.resetDie d)
    else if gs.all fun e => e.2.stopped && decide (e.2.hold = .ctl) && (s.core e.2.core).faulted then
      .next (gs.foldl (fun t e => (t.abortLaunch e.2.lid 2).killGroup e.1) s)
    else .next s

/-! ## Lost remote requests -/

/-- A result without lost lanes; none where nothing of it is left. -/
def PRes.without (lost : List Nat) : PRes → Option PRes
  | .v d ls =>
    let kept := ls.filter fun e => !lost.contains e.1
    if kept.isEmpty then none else some (.v d kept)
  | .s d x => if lost.isEmpty then some (.s d x) else none
  | r => some r

/-- The lanes of a load, with their addresses, whose requests get no answer: of those that leave the die, which is a free choice, but one
at least (log entry 106). -/
def State.lostLanes (s : State) (mesh : Bool) (part : Nat) (l : List (Nat × Nat)) : List (Nat × Nat) :=
  let out := l.filter fun e => s.leaves mesh part e.2
  let part_ := out.filter fun e => Config.lost s.fresh e.1
  if part_.isEmpty then out else part_

/-- Requests of a load or atomic of a group word get no answer in time (16 R476): the results of their lanes are lost, and the group stops with MCE
at the first of their addresses. -/
def State.loseLoad (s : State) (mesh : Bool) (gk p i : Nat) : State :=
  let g := s.group gk
  let l := g.pendOf p
  match l[i]? with
  | none => s
  | some q =>
    match s.lostLanes mesh (s.partOf g) q.remote with
    | [] => s
    | lost@((lane, a) :: _) =>
      if (tfind? s.groups gk).isNone || g.stopped then s
      else
        let r : TrapRec := { cause := 9, reason := 0, ps := p % 2, fetch := false, wr := false, ucause := 0, lane := lane, tpc := q.tpc,
                             word := q.word, addr := BitVec.ofNat 64 a, info0 := 0, info1 := 0, cyc := BitVec.ofNat 64 (s.cycOf gk) }
        let cut (x : Pend) : Option Pend :=
          if x.remote = q.remote && x.tpc == q.tpc && x.word == q.word then (x.res.without (lost.map (·.1))).map fun y => { x with res := y }
          else some x
        let s1 := { s with fresh := s.fresh + 1 }.setGroup gk (g.setPend p (l.filterMap cut))
        if g.ctl then s1.coreFault gk r else s1.stopGroup gk r .ctl

/-- A store gets no answer in time (16 R476): what of it leaves the die is dropped and counted, the rest is performed. -/
def State.loseStore (s : State) (mesh : Bool) (gk i : Nat) : State :=
  let g := s.group gk
  let gone (c : Loc × Byte) : Option Nat :=
    match c.1 with
    | .gpa pa => if s.leaves mesh (s.partOf g) pa then some pa else none
    | _ => none
  match g.sbuf[i]?.bind fun a => a.cells.findSome? gone with
  | none => s
  | some pa =>
    let s1 := s.setGroup gk { g with sbuf := setIdx g.sbuf i fun a => { a with cells := a.cells.filter fun c => (gone c).isNone }, lostRemote := some pa }
    (s1.perform gk i).countLost

/-- The next read that leaves the die by a group's class-6 word, fetch or `red` gets no answer. -/
def State.deafen (s : State) (mesh : Bool) (gk : Nat) : State :=
  if (tfind? s.groups gk).isSome && !(s.group gk).stopped then s.setGroup gk { s.group gk with deaf := some mesh } else s

/-- A command's next read that leaves the die gets no answer: the command ends there with RSN 10 (16 R476, 09 R293). -/
def State.loseRead (s : State) (mesh : Bool) (k : Nat) : State :=
  match (s.eng k).cmd with
  | some c => if c.st = .done then s else s.setCmd k { c with deaf := some mesh }
  | none => s

/-- The writes of a command's next unit that leave the die get no answer: they are dropped and counted (16 R476). -/
def State.loseWrites (s : State) (mesh : Bool) (k : Nat) : State :=
  match (s.eng k).cmd with
  | some c =>
    if c.st = .active && c.susp.isNone then
      let t := (s.settle k c (deliverUnit s c 1 s.fresh)).1
      if mesh && t.mem ≠ s.mem && s.leaves true c.part 0 then { t with mem := s.mem, tqs := s.tqs }.countLost
      else if !mesh && t.peerMem ≠ s.peerMem then { t with peerMem := s.peerMem }.countLost
      else s
    else s
  | none => s

/-- What a lost request does (16 R476): one to a peer, or for `mesh` one to another die of the module (16 R477). -/
def State.lose (s : State) (mesh : Bool) : TimeoutTarget → State
  | .load gk p i => s.loseLoad mesh gk p i
  | .store gk i => s.loseStore mesh gk i
  | .word gk => s.deafen mesh gk
  | .engine k => s.loseRead mesh k
  | .engineWrite k => s.loseWrites mesh k

/-- LINK_TIMEOUT (16 R476). -/
def execLinkTimeout (t : TimeoutTarget) (s : State) : Host.Outcome State Fault Refusal := .next (s.lose false t)
/-- MESH_TIMEOUT (16 R477): the same outcomes, of a request between dies of the module (log entry 65). -/
def execMeshTimeout (t : TimeoutTarget) (s : State) : Host.Outcome State Fault Refusal := .next (s.lose true t)

/-- RESPONSE_ARRIVAL (16 R477): a response of another generation than the die's is dropped and counted. -/
def execResponseArrival (d gen : Nat) (s : State) : Host.Outcome State Fault Refusal :=
  match tfind? s.dies d with
  | some x =>
    .next (if gen % 2 ^ 16 = x.rgen then s else (s.setDie d { x with stale := (x.stale + 1) % 2 ^ 64 }).putLive d)
  | none => .next s

/-! ## Requests of peers -/

/-- REMOTE_REQUEST (16 R475): a peer's read, write or atomic of at most 256 bytes is performed at the home slice. -/
def execRemoteRequest (r : RemoteReq) (s : State) : Host.Outcome State Fault Refusal :=
  match r with
  | .read _ _ => .next s
  | .write pa data =>
    .next (if data.length ≤ 256 && decide (firmwareBytes ≤ pa) && s.present pa data.length then s.wbytes pa data else s)
  | .atomic pa n op b c =>
    .next (if (n = 4 || n = 8) && pa % n = 0 && decide (firmwareBytes ≤ pa) && s.present pa n then
        let l := (List.range n).map fun i => Loc.gpa (pa + i)
        match amoNew op n (leNat (l.map s.rb)) (b % 2 ^ (8 * n)) (c % 2 ^ (8 * n)) with
        | some v => s.putCells (l.zip (leBytes n v))
        | none => s
      else s)

/-! ## Power -/

/-- POWER_LIMIT (16 R483): the arithmetic clock goes down by 25 MHz, to 300 MHz at least. -/
def execPowerLimit (s : State) : Host.Outcome State Fault Refusal := .next { s with mhz := if s.mhz ≥ 325 then s.mhz - 25 else s.mhz }
/-- LIMIT_CLEAR (16 R483): it is raised again. -/
def execLimitClear (s : State) : Host.Outcome State Fault Refusal := .next { s with mhz := if s.mhz + 25 ≤ 600 then s.mhz + 25 else s.mhz }
/-- POWER_LOSS (16 R484): no state survives but the fused rollback counter (16 R481). -/
def execPowerLoss (s : State) : Host.Outcome State Fault Refusal :=
  .next { State.reset with agenda := s.agenda, fresh := s.fresh, powered := false, rollback := s.rollback, peerMem := s.peerMem, poison := s.poison }

end Sys2Proof.Machine
end

