-- ==== Sys2Proof/Machine/Dispatch.lean ====
section
/-! DEFINITION. The dispatch: one arm per constructor of `Instr`, each one direct call of the instruction's meaning. -/

namespace Sys2Proof.Machine

/-- The meaning of every instruction, for the group and path in focus. -/
def exec (i : Instr) (s : State) : Host.Outcome State Fault Refusal :=
  match i with
  | .sadd pk d a b => Sys2Proof.Machine.execSadd pk d a b s
  | .ssub pk d a b => Sys2Proof.Machine.execSsub pk d a b s
  | .smul pk d a b => Sys2Proof.Machine.execSmul pk d a b s
  | .smulh pk d a b => Sys2Proof.Machine.execSmulh pk d a b s
  | .smulhu pk d a b => Sys2Proof.Machine.execSmulhu pk d a b s
  | .sand pk d a b => Sys2Proof.Machine.execSand pk d a b s
  | .sor pk d a b => Sys2Proof.Machine.execSor pk d a b s
  | .sxor pk d a b => Sys2Proof.Machine.execSxor pk d a b s
  | .sandn pk d a b => Sys2Proof.Machine.execSandn pk d a b s
  | .sshl pk d a b => Sys2Proof.Machine.execSshl pk d a b s
  | .sshr pk d a b => Sys2Proof.Machine.execSshr pk d a b s
  | .ssra pk d a b => Sys2Proof.Machine.execSsra pk d a b s
  | .smin pk d a b => Sys2Proof.Machine.execSmin pk d a b s
  | .smax pk d a b => Sys2Proof.Machine.execSmax pk d a b s
  | .sminu pk d a b => Sys2Proof.Machine.execSminu pk d a b s
  | .smaxu pk d a b => Sys2Proof.Machine.execSmaxu pk d a b s
  | .sset pk d a b cc => Sys2Proof.Machine.execSset pk d a b cc s
  | .ssel pk d a b c => Sys2Proof.Machine.execSsel pk d a b c s
  | .smov pk d a => Sys2Proof.Machine.execSmov pk d a s
  | .sli pk d k => Sys2Proof.Machine.execSli pk d k s
  | .slih pk d k => Sys2Proof.Machine.execSlih pk d k s
  | .sbfx pk d a pos len sx => Sys2Proof.Machine.execSbfx pk d a pos len sx s
  | .sclz pk d a => Sys2Proof.Machine.execSclz pk d a s
  | .spopc pk d a => Sys2Proof.Machine.execSpopc pk d a s
  | .srd pk d idx => Sys2Proof.Machine.execSrd pk d idx s
  | .srdVector pk d idx => Sys2Proof.Machine.execSrdVector pk d idx s
  | .swr pk idx a => Sys2Proof.Machine.execSwr pk idx a s
  | .swc pk a => Sys2Proof.Machine.execSwc pk a s
  | .br pk off => Sys2Proof.Machine.execBr pk off s
  | .brIndirect pk a => Sys2Proof.Machine.execBrIndirect pk a s
  | .bz pk a off => Sys2Proof.Machine.execBz pk a off s
  | .bnz pk a off => Sys2Proof.Machine.execBnz pk a off s
  | .bany pk p off => Sys2Proof.Machine.execBany pk p off s
  | .ball pk p off => Sys2Proof.Machine.execBall pk p off s
  | .brd pk p off => Sys2Proof.Machine.execBrd pk p off s
  | .join pk => Sys2Proof.Machine.execJoin pk s
  | .call pk d off => Sys2Proof.Machine.execCall pk d off s
  | .callIndirect pk d a => Sys2Proof.Machine.execCallIndirect pk d a s
  | .ret pk a => Sys2Proof.Machine.execRet pk a s
  | .exit pk => Sys2Proof.Machine.execExit pk s
  | .yield pk => Sys2Proof.Machine.execYield pk s
  | .brk pk k => Sys2Proof.Machine.execBrk pk k s
  | .tret pk => Sys2Proof.Machine.execTret pk s
  | .nop pk => Sys2Proof.Machine.execNop pk s
  | .vadd h wd d a b => Sys2Proof.Machine.execVadd h wd d a b s
  | .vsub h wd d a b => Sys2Proof.Machine.execVsub h wd d a b s
  | .vadds h wd sx d a b => Sys2Proof.Machine.execVadds h wd sx d a b s
  | .vsubs h wd sx d a b => Sys2Proof.Machine.execVsubs h wd sx d a b s
  | .vmul h wd d a b => Sys2Proof.Machine.execVmul h wd d a b s
  | .vmulh h wd d a b => Sys2Proof.Machine.execVmulh h wd d a b s
  | .vmulhu h wd d a b => Sys2Proof.Machine.execVmulhu h wd d a b s
  | .vmad h d a b c => Sys2Proof.Machine.execVmad h d a b c s
  | .vand h d a b => Sys2Proof.Machine.execVand h d a b s
  | .vor h d a b => Sys2Proof.Machine.execVor h d a b s
  | .vxor h d a b => Sys2Proof.Machine.execVxor h d a b s
  | .vandn h d a b => Sys2Proof.Machine.execVandn h d a b s
  | .vshl h wd d a b => Sys2Proof.Machine.execVshl h wd d a b s
  | .vshr h wd d a b => Sys2Proof.Machine.execVshr h wd d a b s
  | .vsra h wd d a b => Sys2Proof.Machine.execVsra h wd d a b s
  | .vmin h wd d a b => Sys2Proof.Machine.execVmin h wd d a b s
  | .vmax h wd d a b => Sys2Proof.Machine.execVmax h wd d a b s
  | .vminu h wd d a b => Sys2Proof.Machine.execVminu h wd d a b s
  | .vmaxu h wd d a b => Sys2Proof.Machine.execVmaxu h wd d a b s
  | .vabs h wd st d a => Sys2Proof.Machine.execVabs h wd st d a s
  | .vsel h d a b p => Sys2Proof.Machine.execVsel h d a b p s
  | .vcmp h d a b cc => Sys2Proof.Machine.execVcmp h d a b cc s
  | .vbfx h sx d a b => Sys2Proof.Machine.execVbfx h sx d a b s
  | .vbfi h d a b => Sys2Proof.Machine.execVbfi h d a b s
  | .vfsh h d a b c => Sys2Proof.Machine.execVfsh h d a b c s
  | .vclz h wd d a => Sys2Proof.Machine.execVclz h wd d a s
  | .vpopc h wd d a => Sys2Proof.Machine.execVpopc h wd d a s
  | .vbrev h wd d a => Sys2Proof.Machine.execVbrev h wd d a s
  | .vmov h d a => Sys2Proof.Machine.execVmov h d a s
  | .vli h d k => Sys2Proof.Machine.execVli h d k s
  | .vdp4 h sx st d a b c => Sys2Proof.Machine.execVdp4 h sx st d a b c s
  | .fadd h st rm d a b => Sys2Proof.Machine.execFadd h st rm d a b s
  | .fsub h st rm d a b => Sys2Proof.Machine.execFsub h st rm d a b s
  | .fmul h st rm d a b => Sys2Proof.Machine.execFmul h st rm d a b s
  | .ffma h st rm d a b c => Sys2Proof.Machine.execFfma h st rm d a b c s
  | .fmin h d a b => Sys2Proof.Machine.execFmin h d a b s
  | .fmax h d a b => Sys2Proof.Machine.execFmax h d a b s
  | .fcmp h d a b cc => Sys2Proof.Machine.execFcmp h d a b cc s
  | .frcp h d a => Sys2Proof.Machine.execFrcp h d a s
  | .frsq h d a => Sys2Proof.Machine.execFrsq h d a s
  | .fex2 h d a => Sys2Proof.Machine.execFex2 h d a s
  | .flg2 h d a => Sys2Proof.Machine.execFlg2 h d a s
  | .fcvt h st rm dty sty d a => Sys2Proof.Machine.execFcvt h st rm dty sty d a s
  | .fpk h st rm ty k d a b => Sys2Proof.Machine.execFpk h st rm ty k d a b s
  | .funpk h ty j d a => Sys2Proof.Machine.execFunpk h ty j d a s
  | .vhad h big d a => Sys2Proof.Machine.execVhad h big d a s
  | .hadd2 h st rm d a b => Sys2Proof.Machine.execHadd2 h st rm d a b s
  | .hmul2 h st rm d a b => Sys2Proof.Machine.execHmul2 h st rm d a b s
  | .hfma2 h st rm d a b c => Sys2Proof.Machine.execHfma2 h st rm d a b c s
  | .q8add h st rm e5 d a b => Sys2Proof.Machine.execQ8add h st rm e5 d a b s
  | .q8mul h st rm e5 d a b => Sys2Proof.Machine.execQ8mul h st rm e5 d a b s
  | .vperm h d a b => Sys2Proof.Machine.execVperm h d a b s
  | .vpush h d a b => Sys2Proof.Machine.execVpush h d a b s
  | .vshfx h d a m => Sys2Proof.Machine.execVshfx h d a m s
  | .vshfu h d a m => Sys2Proof.Machine.execVshfu h d a m s
  | .vshfd h d a m => Sys2Proof.Machine.execVshfd h d a m s
  | .vbcast h d a k => Sys2Proof.Machine.execVbcast h d a k s
  | .vbcastScalar h d a => Sys2Proof.Machine.execVbcastScalar h d a s
  | .vred h d a op => Sys2Proof.Machine.execVred h d a op s
  | .vredVector h d a op => Sys2Proof.Machine.execVredVector h d a op s
  | .vscan h d a op => Sys2Proof.Machine.execVscan h d a op s
  | .vscanExcl h d a op => Sys2Proof.Machine.execVscanExcl h d a op s
  | .vballot h d a => Sys2Proof.Machine.execVballot h d a s
  | .vfirst h d a => Sys2Proof.Machine.execVfirst h d a s
  | .pand h d a b => Sys2Proof.Machine.execPand h d a b s
  | .por h d a b => Sys2Proof.Machine.execPor h d a b s
  | .pxor h d a b => Sys2Proof.Machine.execPxor h d a b s
  | .pnot h d a => Sys2Proof.Machine.execPnot h d a s
  | .pmov h d a => Sys2Proof.Machine.execPmov h d a s
  | .pset h d a => Sys2Proof.Machine.execPset h d a s
  | .psetImm h d k => Sys2Proof.Machine.execPsetImm h d k s
  | .lds h m d a => Sys2Proof.Machine.execLds h m d a s
  | .sts h m d a => Sys2Proof.Machine.execSts h m d a s
  | .ldg h m d a => Sys2Proof.Machine.execLdg h m d a s
  | .stg h m d a => Sys2Proof.Machine.execStg h m d a s
  | .ldr h m d a => Sys2Proof.Machine.execLdr h m d a s
  | .ldc h m d a => Sys2Proof.Machine.execLdc h m d a s
  | .stc h m d a => Sys2Proof.Machine.execStc h m d a s
  | .atom h m op d a b => Sys2Proof.Machine.execAtom h m op d a b s
  | .atoms h m op d a b => Sys2Proof.Machine.execAtoms h m op d a b s
  | .red h m op a b => Sys2Proof.Machine.execRed h m op a b s
  | .fence pk scp ord => Sys2Proof.Machine.execFence pk scp ord s
  | .fenceAsync pk => Sys2Proof.Machine.execFenceAsync pk s
  | .rinv pk scp => Sys2Proof.Machine.execRinv pk scp s
  | .pf h wd am l2 off a => Sys2Proof.Machine.execPf h wd am l2 off a s
  | .wcnt pk cl n => Sys2Proof.Machine.execWcnt pk cl n s
  | .phinit h a b => Sys2Proof.Machine.execPhinit h a b s
  | .phreg h k a mode => Sys2Proof.Machine.execPhreg h k a mode s
  | .phdrop h k => Sys2Proof.Machine.execPhdrop h k s
  | .pharr h scp d k => Sys2Proof.Machine.execPharr h scp d k s
  | .phwait h scp a => Sys2Proof.Machine.execPhwait h scp a s
  | .pharw h scp d k => Sys2Proof.Machine.execPharw h scp d k s
  | .twait h scp d a => Sys2Proof.Machine.execTwait h scp d a s
  | .twaitY h scp d a off => Sys2Proof.Machine.execTwaitY h scp d a off s
  | .ttest h scp d a => Sys2Proof.Machine.execTtest h scp d a s
  | .rsb pk => Sys2Proof.Machine.execRsb pk s
  | .rse pk => Sys2Proof.Machine.execRse pk s
  | .gsync pk d => Sys2Proof.Machine.execGsync pk d s
  | .dfree h a b => Sys2Proof.Machine.execDfree h a b s
  | .tqpush h scp d a b c => Sys2Proof.Machine.execTqpush h scp d a b c s
  | .tqpop h scp d a c => Sys2Proof.Machine.execTqpop h scp d a c s
  | .tqclose h scp a => Sys2Proof.Machine.execTqclose h scp a s
  | .tqcloseOpen h scp a => Sys2Proof.Machine.execTqcloseOpen h scp a s
  | .cpy h d a => Sys2Proof.Machine.execCpy h d a s
  | .cpym h d a => Sys2Proof.Machine.execCpym h d a s
  | .gath h d a => Sys2Proof.Machine.execGath h d a s
  | .scat h d a => Sys2Proof.Machine.execScat h d a s
  | .xsect h d a => Sys2Proof.Machine.execXsect h d a s
  | .sstr h k a => Sys2Proof.Machine.execSstr h k a s
  | .spop h d k => Sys2Proof.Machine.execSpop h d k s
  | .spopPred h d k p => Sys2Proof.Machine.execSpopPred h d k p s
  | .sdrop h k => Sys2Proof.Machine.execSdrop h k s
  | .sfmt h a => Sys2Proof.Machine.execSfmt h a s
  | .sfmtSwap h d a => Sys2Proof.Machine.execSfmtSwap h d a s
  | .enc h bf g d a => Sys2Proof.Machine.execEnc h bf g d a s
  | .dec h bf g d a => Sys2Proof.Machine.execDec h bf g d a s
  | .smm h ta g c d a b => Sys2Proof.Machine.execSmm h ta g c d a b s
  | .smms h ta g c d a b => Sys2Proof.Machine.execSmms h ta g c d a b s
  | .pmm h ta g c d a b => Sys2Proof.Machine.execPmm h ta g c d a b s
  | .dmm h tb ta st g c d a b => Sys2Proof.Machine.execDmm h tb ta st g c d a b s
  | .qmm h tb ta st tag d a b => Sys2Proof.Machine.execQmm h tb ta st tag d a b s
  | .tzero h d => Sys2Proof.Machine.execTzero h d s
  | .tld h full g d a => Sys2Proof.Machine.execTld h full g d a s
  | .tst h i32 full g d a => Sys2Proof.Machine.execTst h i32 full g d a s
  | .tmov h i32 d a => Sys2Proof.Machine.execTmov h i32 d a s
  | .tmovToTile h d a => Sys2Proof.Machine.execTmovToTile h d a s
  | .tscl h d a => Sys2Proof.Machine.execTscl h d a s
  | .tstat h clr d a => Sys2Proof.Machine.execTstat h clr d a s
  | .rset h a => Sys2Proof.Machine.execRset h a s
  | .rot h d a b n => Sys2Proof.Machine.execRot h d a b n s
  | .kvld h d a => Sys2Proof.Machine.execKvld h d a s
  | .kvapp h d a => Sys2Proof.Machine.execKvapp h d a s
  | .kvwr h d a => Sys2Proof.Machine.execKvwr h d a s
  | .kvtrim h d a => Sys2Proof.Machine.execKvtrim h d a s
  | .kvsplice h d a => Sys2Proof.Machine.execKvsplice h d a s
  | .kvshift h d a => Sys2Proof.Machine.execKvshift h d a s
  | .btinv h scp a => Sys2Proof.Machine.execBtinv h scp a s
  | .smaxSoftmax h d a => Sys2Proof.Machine.execSmaxSoftmax h d a s
  | .cred h m d a b => Sys2Proof.Machine.execCred h m d a b s
  | .csrr h d k => Sys2Proof.Machine.execCsrr h d k s
  | .csrw h k a => Sys2Proof.Machine.execCsrw h k a s
  | .dbgr h d a b => Sys2Proof.Machine.execDbgr h d a b s
  | .dbgw h d a b => Sys2Proof.Machine.execDbgw h d a b s
  | .rtiResume h a => Sys2Proof.Machine.execRtiResume h a s
  | .rtiEnd h a => Sys2Proof.Machine.execRtiEnd h a s
  | .rtiAbort h a => Sys2Proof.Machine.execRtiAbort h a s
  | .sysc h k => Sys2Proof.Machine.execSysc h k s
  | .halt h d => Sys2Proof.Machine.execHalt h d s
  | .ctxsv h team a b => Sys2Proof.Machine.execCtxsv h team a b s
  | .ctxld h team d a => Sys2Proof.Machine.execCtxld h team d a s
  | .tlbinv h kind all a b => Sys2Proof.Machine.execTlbinv h kind all a b s
  | .bflip h dev size a b => Sys2Proof.Machine.execBflip h dev size a b s
  | .pgcopy h size d a b => Sys2Proof.Machine.execPgcopy h size d a b s
  | .pairedWord pk h0 h1 => Sys2Proof.Machine.execPairedWord pk h0 h1 s
  | .vaddSweep h d a b n => Sys2Proof.Machine.execVaddSweep h d a b n s
  | .vsubSweep h d a b n => Sys2Proof.Machine.execVsubSweep h d a b n s
  | .vaddsSweep h sx d a b n => Sys2Proof.Machine.execVaddsSweep h sx d a b n s
  | .vsubsSweep h sx d a b n => Sys2Proof.Machine.execVsubsSweep h sx d a b n s
  | .vmulSweep h d a b n => Sys2Proof.Machine.execVmulSweep h d a b n s
  | .vmulhSweep h d a b n => Sys2Proof.Machine.execVmulhSweep h d a b n s
  | .vmulhuSweep h d a b n => Sys2Proof.Machine.execVmulhuSweep h d a b n s
  | .vmadSweep h d a b n => Sys2Proof.Machine.execVmadSweep h d a b n s
  | .vandSweep h d a b n => Sys2Proof.Machine.execVandSweep h d a b n s
  | .vorSweep h d a b n => Sys2Proof.Machine.execVorSweep h d a b n s
  | .vxorSweep h d a b n => Sys2Proof.Machine.execVxorSweep h d a b n s
  | .vandnSweep h d a b n => Sys2Proof.Machine.execVandnSweep h d a b n s
  | .vshlSweep h d a b n => Sys2Proof.Machine.execVshlSweep h d a b n s
  | .vshrSweep h d a b n => Sys2Proof.Machine.execVshrSweep h d a b n s
  | .vsraSweep h d a b n => Sys2Proof.Machine.execVsraSweep h d a b n s
  | .vminSweep h d a b n => Sys2Proof.Machine.execVminSweep h d a b n s
  | .vmaxSweep h d a b n => Sys2Proof.Machine.execVmaxSweep h d a b n s
  | .vminuSweep h d a b n => Sys2Proof.Machine.execVminuSweep h d a b n s
  | .vmaxuSweep h d a b n => Sys2Proof.Machine.execVmaxuSweep h d a b n s
  | .vabsSweep h d a b n => Sys2Proof.Machine.execVabsSweep h d a b n s
  | .vselSweep h d a b n => Sys2Proof.Machine.execVselSweep h d a b n s
  | .vbfxSweep h d a b n => Sys2Proof.Machine.execVbfxSweep h d a b n s
  | .vbfiSweep h d a b n => Sys2Proof.Machine.execVbfiSweep h d a b n s
  | .vfshSweep h d a b n => Sys2Proof.Machine.execVfshSweep h d a b n s
  | .vclzSweep h d a b n => Sys2Proof.Machine.execVclzSweep h d a b n s
  | .vpopcSweep h d a b n => Sys2Proof.Machine.execVpopcSweep h d a b n s
  | .vbrevSweep h d a b n => Sys2Proof.Machine.execVbrevSweep h d a b n s
  | .vmovSweep h d a b n => Sys2Proof.Machine.execVmovSweep h d a b n s
  | .faddSweep h d a b n => Sys2Proof.Machine.execFaddSweep h d a b n s
  | .fsubSweep h d a b n => Sys2Proof.Machine.execFsubSweep h d a b n s
  | .fmulSweep h d a b n => Sys2Proof.Machine.execFmulSweep h d a b n s
  | .ffmaSweep h d a b n => Sys2Proof.Machine.execFfmaSweep h d a b n s
  | .fminSweep h d a b n => Sys2Proof.Machine.execFminSweep h d a b n s
  | .fmaxSweep h d a b n => Sys2Proof.Machine.execFmaxSweep h d a b n s
  | .hadd2Sweep h d a b n => Sys2Proof.Machine.execHadd2Sweep h d a b n s
  | .hmul2Sweep h d a b n => Sys2Proof.Machine.execHmul2Sweep h d a b n s
  | .hfma2Sweep h d a b n => Sys2Proof.Machine.execHfma2Sweep h d a b n s
  | .q8addSweep h d a b n => Sys2Proof.Machine.execQ8addSweep h d a b n s
  | .q8mulSweep h d a b n => Sys2Proof.Machine.execQ8mulSweep h d a b n s
  | .sweepIteration gk p => Sys2Proof.Machine.execSweepIteration gk p s
  | .issueSelect core q => Sys2Proof.Machine.execIssueSelect core q s
  | .ldResultWrite gk p n => Sys2Proof.Machine.execLdResultWrite gk p n s
  | .xResultWrite gk p n => Sys2Proof.Machine.execXResultWrite gk p n s
  | .tileWordPerform gk p n => Sys2Proof.Machine.execTileWordPerform gk p n s
  | .engineAccept team eng => Sys2Proof.Machine.execEngineAccept team eng s
  | .engineDelivery slot n choice => Sys2Proof.Machine.execEngineDelivery slot n choice s
  | .engineCommandEnd slot => Sys2Proof.Machine.execEngineCommandEnd slot s
  | .kvLockAcquire slot => Sys2Proof.Machine.execKvLockAcquire slot s
  | .kvLockTimeout slot => Sys2Proof.Machine.execKvLockTimeout slot s
  | .streamFetch gk k => Sys2Proof.Machine.execStreamFetch gk k s
  | .graceSweep part => Sys2Proof.Machine.execGraceSweep part s
  | .colourArrival core => Sys2Proof.Machine.execColourArrival core s
  | .watchdogExpiry gk => Sys2Proof.Machine.execWatchdogExpiry gk s
  | .launchAdmit lq => Sys2Proof.Machine.execLaunchAdmit lq s
  | .teamPlace lid cl rank core octets => Sys2Proof.Machine.execTeamPlace lid cl rank core octets s
  | .noRoomTimeout lid cl slots => Sys2Proof.Machine.execNoRoomTimeout lid cl slots s
  | .classPreemptTimeout lid cl slots => Sys2Proof.Machine.execClassPreemptTimeout lid cl slots s
  | .preemptStop gk => Sys2Proof.Machine.execPreemptStop gk s
  | .saveComplete gk => Sys2Proof.Machine.execSaveComplete gk s
  | .teamRestore team core octets => Sys2Proof.Machine.execTeamRestore team core octets s
  | .groupRestore idx core octet => Sys2Proof.Machine.execGroupRestore idx core octet s
  | .faultRecordSend part idx => Sys2Proof.Machine.execFaultRecordSend part idx s
  | .replyProcess part => Sys2Proof.Machine.execReplyProcess part s
  | .dataFrame fr => Sys2Proof.Machine.execDataFrame fr s
  | .ack fr => Sys2Proof.Machine.execAck fr s
  | .nak fr => Sys2Proof.Machine.execNak fr s
  | .ackTimer => Sys2Proof.Machine.execAckTimer s
  | .resyncRequest fr => Sys2Proof.Machine.execResyncRequest fr s
  | .hello fr => Sys2Proof.Machine.execHello fr s
  | .close fr => Sys2Proof.Machine.execClose fr s
  | .sessionTimeout => Sys2Proof.Machine.execSessionTimeout s
  | .launch lq => Sys2Proof.Machine.execLaunch lq s
  | .wrap lq => Sys2Proof.Machine.execWrap lq s
  | .write lq => Sys2Proof.Machine.execWrite lq s
  | .read lq => Sys2Proof.Machine.execRead lq s
  | .marker lq => Sys2Proof.Machine.execMarker lq s
  | .pcreate => Sys2Proof.Machine.execPcreate s
  | .pdestroy => Sys2Proof.Machine.execPdestroy s
  | .qcfg => Sys2Proof.Machine.execQcfg s
  | .qreset => Sys2Proof.Machine.execQreset s
  | .cancel => Sys2Proof.Machine.execCancel s
  | .rack => Sys2Proof.Machine.execRack s
  | .attest => Sys2Proof.Machine.execAttest s
  | .dreset => Sys2Proof.Machine.execDreset s
  | .info => Sys2Proof.Machine.execInfo s
  | .peers => Sys2Proof.Machine.execPeers s
  | .dieReset die => Sys2Proof.Machine.execDieReset die s
  | .linkTimeout t => Sys2Proof.Machine.execLinkTimeout t s
  | .meshTimeout t => Sys2Proof.Machine.execMeshTimeout t s
  | .responseArrival die gen => Sys2Proof.Machine.execResponseArrival die gen s
  | .powerGood board => Sys2Proof.Machine.execPowerGood board s
  | .powerLimit => Sys2Proof.Machine.execPowerLimit s
  | .limitClear => Sys2Proof.Machine.execLimitClear s
  | .powerLoss => Sys2Proof.Machine.execPowerLoss s
  | .remoteRequest req => Sys2Proof.Machine.execRemoteRequest req s
  | .accessPerformed gk n => Sys2Proof.Machine.execAccessPerformed gk n s

end Sys2Proof.Machine
end

