-- ==== Sys2Proof/Machine/Due.lean ====
section
/-! DEFINITION. The default schedule (log entry 4): which internal events are due, in one order that the rules permit. Every event acts only
where its rule permits it, so that an agenda in another order is another permitted run; what the host, peers, timers and the board bring
comes in through the agenda only. -/

namespace Sys2Proof.Machine

/-- The writes of a path slot's outstanding results, in order (02 R72). -/
def dueResults (gk p : Nat) (l : List Pend) : List Due :=
  l.map fun q => .result q.cls gk p

/-- What is due for a resident group. -/
def dueGroup (s : State) (gk : Nat) (g : Group) : List Due :=
  let preq := (s.core (coreOf gk)).preq.testBit (slotOf gk)
  let sweep (p : Nat) : List Due := if (g.path p).sweep.isSome then [.sweepIteration gk p] else []
  g.sbuf.map (fun _ => .accessPerformed gk) ++ dueResults gk 0 g.p0.pend ++ dueResults gk 1 g.p1.pend ++ dueResults gk 2 g.orph
    ++ sweep 0 ++ sweep 1
    ++ (List.range 4).filterMap (fun k => ((g.stream k).nextRound g.w).map fun _ => .streamFetch gk k)
    ++ (if (g.preempt || preq || s.aborting g.lid || s.emptying gk) && !g.ctl then [.preemptStop gk] else [])
    ++ (if g.stopped && (g.hold = .saved || g.hold = .page) then [.saveComplete gk] else [])
    ++ (if s.overAge g && g.wds ≠ some g.sec then [.watchdogExpiry gk] else [])

/-- What is due for the engines: the heads of queues, running commands, ends. -/
def dueEngines (s : State) : List Due :=
  s.teams.flatMap (fun e => (if e.2.cq.cmds.isEmpty then [] else [Due.engineAccept e.1 0])
      ++ (if e.2.gq.cmds.isEmpty then [] else [.engineAccept e.1 1]))
    ++ s.engs.filterMap fun e => match e.2.cmd with
      | some c =>
        if c.susp.isSome then none
        else match c.st with
          | .queued => none
          | .lockWait =>
          let k := (s.part c.part).lkt
          some (if k ≠ 0 && c.waited > k * 1024 then .kvLockTimeout e.1 else .kvLockAcquire e.1)
          | .active => some (.engineDelivery e.1)
          | .done => some (.engineCommandEnd e.1)
      | none => none

/-- The first core on which a candidate is next (14 R410). -/
def coreFor (s : State) (c : Cand) : Option Nat := (s.cores.find? fun e => s.isNext c e.1).map (·.1)

/-- The saved teams that no core can take again (14 R417). -/
def dueStranded (s : State) : List Due :=
  (s.teams.filter fun e => s.stranded e.2 && !s.aborting e.2.lid).map fun e => .teamRestore e.1 e.2.core 0

/-- The next placement or restore that the order permits. -/
def duePlacement (s : State) : List Due :=
  (s.cands.findSome? fun c => (coreFor s c).map fun core =>
    match c.saved with
    | some t => Due.teamRestore t core (s.teamSaved t).length
    | none =>
      let tg := match tfind? s.launches c.lid with | some l => l.lr.tg | none => 0
      Due.teamPlace c.lid c.idx c.rank core tg).toList

/-- The next saved group that is restored by itself. -/
def dueGroups (s : State) : List Due :=
  ((List.range s.saved.length).find? fun i => s.saved[i]?.any s.returns).toList.map fun i =>
    .groupRestore i (match s.saved[i]? with | some v => (s.team v.team).core | none => 0)

/-- A team to be swapped out for a candidate without room that passes a test (14 R414), where there are both. -/
def victim (s : State) (may : Cand → Bool) (ok : Group → Bool) : Option (Cand × List Nat) :=
  s.cands.findSome? fun c =>
    if may c && !s.hasRoom c then
      (s.teams.find? fun e => !e.2.saved && s.mayLeave c ok e.1 && (s.teamGroups e.1).any (fun g => !g.2.leaving)
        && s.poolRoom (s.candPart c) [e.1]).map fun e => (c, (s.teamGroups e.1).map (·.1))
    else none

/-- The swap-outs that make room for a candidate that has none (14 R414): of one team whose every group waits, or of one of class 0. -/
def dueSwap (s : State) : List Due :=
  ((victim s s.mayClear Group.inWait).map fun x => Due.noRoomTimeout x.1.lid x.1.idx x.2).toList
    ++ ((victim s s.mayPreempt fun g => g.pri == 0).map fun x => Due.classPreempt x.1.lid x.1.idx x.2).toList

/-- The records that the front end, the scheduler and the firmware take next. -/
def dueRecords (s : State) : List Due :=
  s.lqs.flatMap (fun e =>
    (match s.headRecord e.1 with
     | some (r, _) => if e.2.halt || e.2.head.isSome || decide (e.2.gap > 0) then [] else [Due.record e.1 (recHdr r).code]
     | none => []) ++ (if e.2.head.isSome then [.launchAdmit e.1] else []))
    ++ (match s.tp.mgmt.head? with
        | some r => [.management (recHdr r).code]
        | none => [])
    ++ (if s.tp.live && decide (s.tp.unacked > 0) then [.ackTimer] else [])

/-- What is due for a partition: faults, replies, colours and the tracker's sweep. -/
def duePart (s : State) (pid : Nat) (p : Part) : List Due :=
  (match (List.range p.faults.length).find? fun i => match p.faults[i]? with | some f => !f.sent | none => false with
   | some i => [Due.faultRecordSend pid i]
   | none => [])
    ++ (if s.rnum p.rra 8 = s.rnum (p.rra + 8) 8 then [] else [.replyProcess pid])
    ++ (((s.partCores p).filter fun c => (s.core c).colour ≠ p.cc).map fun c => .colourArrival c)
    ++ (if p.gtick < p.gri then [] else [.graceSweep pid])

/-- One clk of every quadrant that holds a group, and of the first core of every die that does (16 R479). -/
def dueIssue (s : State) : List Due :=
  let busy (c q : Nat) : Bool := s.countsClk c q || !(s.quadrant c q).isEmpty || (q == 0 && (tfind? s.groups (c * Config.nSlots + 64)).isSome)
  s.cores.flatMap fun e => ((List.range 4).filter fun q => busy e.1 q).map fun q => .issueSelect e.1 q

/-- The internal events that are due. -/
def dueEvents (s : State) : List Due :=
  s.groups.flatMap (fun e => dueGroup s e.1 e.2) ++ dueEngines s ++ s.parts.flatMap (fun e => duePart s e.1 e.2) ++ dueRecords s
    ++ dueStranded s ++ duePlacement s ++ dueGroups s ++ dueSwap s
    ++ ((s.dies.filter fun e => e.2.resetting).map fun e => .dieReset e.1) ++ dueIssue s

/-- Runs an internal event: its meaning, with the operands of the default schedule. -/
def runDue (e : Due) (s : State) : Host.Outcome State Fault Refusal :=
  match e with
  | .sweepIteration gk p => execSweepIteration gk p s
  | .issueSelect core q => execIssueSelect core q s
  | .result .ld gk p => execLdResultWrite gk p 0 s
  | .result .x gk p => execXResultWrite gk p 0 s
  | .result .tile gk p => execTileWordPerform gk p 0 s
  | .accessPerformed gk => execAccessPerformed gk 0 s
  | .engineAccept team eng => execEngineAccept team eng s
  | .engineDelivery slot => execEngineDelivery slot 65536 s.fresh s.tick
  | .engineCommandEnd slot => execEngineCommandEnd slot s
  | .kvLockAcquire slot => execKvLockAcquire slot s
  | .streamFetch gk k => execStreamFetch gk k s
  | .graceSweep part => execGraceSweep part s
  | .colourArrival core => execColourArrival core s
  | .watchdogExpiry gk => execWatchdogExpiry gk s
  | .launchAdmit q => execLaunchAdmit q s
  | .teamPlace lid cl rank core tg => execTeamPlace lid cl rank core (List.replicate tg 0) s
  | .noRoomTimeout lid cl slots => execNoRoomTimeout lid cl slots s
  | .classPreempt lid cl slots => execClassPreemptTimeout lid cl slots s
  | .kvLockTimeout slot => execKvLockTimeout slot s
  | .preemptStop gk => execPreemptStop gk s
  | .saveComplete gk => execSaveComplete gk s
  | .teamRestore team core n => execTeamRestore team core (List.replicate n 0) s
  | .groupRestore idx core => execGroupRestore idx core 0 s
  | .faultRecordSend part idx => execFaultRecordSend part idx s
  | .replyProcess part => execReplyProcess part s
  | .record q code =>
    (match code with
     | 2 => execWrap q s
     | 3 => execWrite q s
     | 4 => execRead q s
     | 5 => execMarker q s
     | _ => execLaunch q s)
  | .management code =>
    (match code with
     | 17 => execPdestroy s
     | 18 => execQcfg s
     | 19 => execQreset s
     | 20 => execCancel s
     | 21 => execRack s
     | 22 => execAttest s
     | 23 => execDreset s
     | 24 => execInfo s
     | 25 => execPeers s
     | _ => execPcreate s)
  | .ackTimer => execAckTimer s
  | .dieReset die => execDieReset die s

end Sys2Proof.Machine
end

