-- ==== Sys2Proof/Machine/Step.lean ====
section
/-! DEFINITION. One step of the module: the next event of the agenda, which holds what comes from outside; else the next internal event
that is due; else the next word of the groups chosen for this clk; else the events that are due are listed (log entry 4). -/

namespace Sys2Proof.Machine

/-- What a chosen group's issue does (14 R419): its word runs, or the trap of its fetch or its encoding is taken. -/
def issue (gk : Nat) (s : State) : Host.Outcome State Fault Refusal :=
  match s.prepare gk with
  | (s1, .idle) => .next s1
  | (s1, .trap t) => .next (s1.trapWord 0 t)
  | (s1, .bad w r) => .next (s1.trapWord (BitVec.ofNat 64 w) { cause := 1, reason := r })
  | (s1, .run i) => exec i s1

/-- One step. -/
def step (s : State) : Host.Outcome State Fault Refusal :=
  match s.agenda with
  | e :: es => exec e { s with agenda := es }
  | [] =>
    match s.todo with
    | d :: ds => runDue d { s with todo := ds }
    | [] =>
      match s.chosen with
      | gk :: ks => issue gk { s with chosen := ks }
      | [] => .next { s with todo := dueEvents s }

/-- A state whose very next step runs the instruction of a word (log entry 2): `loadWord` says where it is placed. -/
def State.withFetchWord (s : State) (nbits w : Nat) : State := s.loadWord (w % 2 ^ min nbits 64)

end Sys2Proof.Machine
end

