-- ==== Sys2Proof/Safety.lean ====
section
/-! DEFINITION. The terms in which claims are stated: what a safe step is, when a word issues, and what it leaves unchanged. -/

namespace Sys2Proof.Machine

/-- An outcome is a next state of which something holds. -/
def Completes (o : Host.Outcome State Fault Refusal) (P : State → Prop) : Prop := ∃ t, o = .next t ∧ P t

/-- A state is safe for one step: the step neither faults nor refuses. -/
def State.Safe (s : State) : Prop := Completes (step s) fun _ => True

/-- A word of the path in focus issues and has its own effect: its path can issue (14 R418), it is legal in its group (02 R76), and neither an
outstanding result (02 R74, R75) nor its own entry holds it. -/
def State.Issues (s : State) (i : Instr) : Prop :=
  s.canIssue = true ∧ s.tick.dynReason i = 0 ∧ s.grp.held s.fpath i = false ∧ s.tick.waits i = false

/-- What an instruction leaves unchanged outside the group that issues it: every other group, every byte of memory and of scratchpads, and
every other field of the state, but for the counter of free values. -/
def State.Elsewhere (s t : State) : Prop :=
  t = { s with groups := t.groups, fresh := t.fresh } ∧ (∀ k, k ≠ s.focus → t.group k = s.group k) ∧ ∀ x, t.rb x = s.rb x

/-- As `Elsewhere`, for a word that translates: it may leave further cached translations in the dies (15 R441). -/
def State.ElsewhereButTlb (s t : State) : Prop :=
  t = { s with groups := t.groups, fresh := t.fresh, dies := t.dies } ∧ (∀ d, t.die d = { s.die d with tlb := (t.die d).tlb })
    ∧ (∀ k, k ≠ s.focus → t.group k = s.group k) ∧ ∀ x, t.rb x = s.rb x

/-- What a word leaves of its group's registers: all of them, and its tiles, its status and its control words. -/
def Group.SameRegs (g h : Group) : Prop :=
  h.sreg = g.sreg ∧ h.vreg = g.vreg ∧ h.preg = g.preg ∧ h.tile = g.tile ∧ h.tstat = g.tstat ∧ h.fps = g.fps ∧ h.fm = g.fm ∧ h.sc = g.sc
    ∧ h.fq = g.fq

/-- What a word leaves of every group but its own. -/
def State.OtherGroups (s t : State) : Prop := ∀ k, k ≠ s.focus → t.group k = s.group k

/-- An outstanding result without what its value depends on (05 R143). -/
def Pend.plain (q : Pend) : Pend := { q with dep := 0 }

/-- The issuing path goes on at an address with a park marker and further outstanding results, changed in nothing else but what its outstanding
values depend on; the other path is unchanged. -/
def State.Goes (s t : State) (pc : W64) (pk : Bool) (new : List Pend) : Prop :=
  t.pth = { s.pth with pc := pc, park := pk, pend := t.pth.pend } ∧ t.pth.pend.map Pend.plain = (s.pth.pend ++ new).map Pend.plain
    ∧ t.grp.path (1 - s.fpath) = s.grp.path (1 - s.fpath)

/-- What a group has observed, with other dependences of its registers (05 R143). -/
def Group.obsAs (g h : Group) : Obs := { g.obs with dep := h.obs.dep }

/-- A word may have performed its group's pending accesses, all of them, and wrote no other byte. -/
def State.Settles (s t : State) : Prop :=
  (t.grp.sbuf = s.grp.sbuf ∧ ∀ x, t.rb x = s.rb x) ∨ (t.grp.sbuf = [] ∧ ∀ x, t.rb x = (s.performAll s.focus).rb x)

/-- The issuing path waits at its word for a cluster member (01 R30, 13 R398). -/
def State.Stalls (s t : State) (wk rank : Nat) : Prop :=
  t.pth = { s.pth with park := t.pth.park, st := .waiting, wait := some ⟨wk, BitVec.ofNat 64 rank, 0, 0, 0, none, .ln, 0⟩ } ∧ s.OtherGroups t
    ∧ s.grp.SameRegs t.grp ∧ ∀ x, t.rb x = s.rb x

/-- The group in a slot stores to no address that lies in a peer module. -/
def Group.StoresHere (g : Group) : Prop := ∀ a ∈ g.sbuf, ∀ c ∈ a.cells, ∀ pa, c.1 = .gpa pa → pa < 2 ^ 51

/-- The stored value of a lane of a vector register. -/
def Group.lane (g : Group) (n l : Nat) : W32 := tget 0#32 g.vreg (n * 64 + l)

/-- The stored value of a predicate register. -/
def Group.pred (g : Group) (n : Nat) : Mask := tget 0#64 g.preg n

/-- A word that writes one scalar register at once, `em` (s127) within the lanes its path owns (01 R32), goes on at an address, and changes
nothing else. -/
def WritesScalarAndGoes (s : State) (pk : Bool) (pc : W64) (d : Nat) (v : W64) (o : Host.Outcome State Fault Refusal) : Prop :=
  Completes o fun t =>
    s.Elsewhere t ∧ t.grp = { s.grp with sreg := t.grp.sreg, obs := s.grp.obsAs t.grp, p0 := t.grp.p0, p1 := t.grp.p1 }
      ∧ t.grp.sraw s.fpath d = (if d = 127 then v &&& s.pth.owned else v)
      ∧ (∀ n, n ≠ d → t.grp.sraw s.fpath n = s.grp.sraw s.fpath n)
      ∧ t.pth = { s.pth with pc := pc, park := pk, mask := t.pth.mask }
      ∧ t.grp.path (1 - s.fpath) = s.grp.path (1 - s.fpath)

/-- A word that writes one scalar register at once and nothing else but its pc. -/
def WritesScalar (s : State) (pk : Bool) (d : Nat) (v : W64) (o : Host.Outcome State Fault Refusal) : Prop :=
  WritesScalarAndGoes s pk (s.pc + 8) d v o

/-- The outcome of a word whose effect is a state `t`: its path goes on at the next word. -/
def State.goesOn (s : State) (i : Instr) (t : State) : Host.Outcome State Fault Refusal := .next ((t.flow i).advance (s.pc + 8) i.pk)

/-- The system trap of a word of the path in focus: `State.sysTrap`, or nothing yet while the other path is in a sweep, which issued before (13
R373). -/
def State.sysTrapped (s : State) (i : Instr) (t : Trap) : State :=
  if s.grp.sweeps then s else s.sysTrap s.focus s.fpath (BitVec.ofNat 64 (encode i)) t

/-- The user trap of a word of the path in focus after its effect, where it cannot be delivered: it stops the group, or nothing happens yet while
the other path is in a sweep. -/
def State.userTrapped (s : State) (i : Instr) (cause : Nat) (i0 i1 : W64) (re : Bool) (t : State) : State :=
  if s.grp.sweeps then s
  else (t.setPth { t.pth with park := i.pk && !re }).userTrap (BitVec.ofNat 64 (encode i)) cause i0 i1 re

/-- A word that writes lanes of one vector register at once, in the lanes of a mask, and nothing else but its pc. -/
def WritesVector (s : State) (pk : Bool) (d : Nat) (em : Mask) (f : Nat → W32) (o : Host.Outcome State Fault Refusal) : Prop :=
  Completes o fun t =>
    s.Elsewhere t ∧ s.Goes t (s.pc + 8) pk [] ∧ t.grp = { s.grp with vreg := t.grp.vreg, obs := s.grp.obsAs t.grp, p0 := t.grp.p0, p1 := t.grp.p1 }
      ∧ (∀ l, l < 64 → t.grp.lane d l = if mbit em l then f l else s.grp.lane d l)
      ∧ (∀ n l, n ≠ d → l < 64 → t.grp.lane n l = s.grp.lane n l)

/-- As `WritesVector`, and the flags of the lanes are gathered in FPS (02 R56). -/
def WritesVectorFlags (s : State) (pk : Bool) (d : Nat) (em : Mask) (f : Nat → W32 × FFlags) (o : Host.Outcome State Fault Refusal) : Prop :=
  Completes o fun t =>
    s.Elsewhere t ∧ s.Goes t (s.pc + 8) pk []
      ∧ t.grp = { s.grp with vreg := t.grp.vreg, fps := t.grp.fps, obs := s.grp.obsAs t.grp, p0 := t.grp.p0, p1 := t.grp.p1 }
      ∧ (∀ l, l < 64 → t.grp.lane d l = if mbit em l then (f l).1 else s.grp.lane d l)
      ∧ (∀ n l, n ≠ d → l < 64 → t.grp.lane n l = s.grp.lane n l)
      ∧ t.grp.fps = s.grp.fps ||| (orFlags ((lanesOf em).map fun l => (f l).2)).setWidth 64

/-- A word that writes one predicate register at once, in the lanes of a mask, and nothing else but its pc. -/
def WritesPredicate (s : State) (pk : Bool) (d : Nat) (em : Mask) (f : Nat → Bool) (o : Host.Outcome State Fault Refusal) : Prop :=
  Completes o fun t =>
    s.Elsewhere t ∧ s.Goes t (s.pc + 8) pk [] ∧ t.grp = { s.grp with preg := t.grp.preg, p0 := t.grp.p0, p1 := t.grp.p1 }
      ∧ (∀ l, l < 64 → mbit (t.grp.pred d) l = if mbit em l then f l else mbit (s.grp.pred d) l)
      ∧ ∀ n, n ≠ d → t.grp.pred n = s.grp.pred n

/-- A word whose results stay outstanding (02 R72), and which changes nothing else but its pc; FPS gathers the flags. -/
def LeavesPending (s : State) (pk : Bool) (new : List Pend) (f : FFlags) (o : Host.Outcome State Fault Refusal) : Prop :=
  Completes o fun t =>
    s.Elsewhere t ∧ s.Goes t (s.pc + 8) pk new
      ∧ t.grp = { s.grp with fps := s.grp.fps ||| f.setWidth 64, p0 := t.grp.p0, p1 := t.grp.p1 }

/-- A word that has issued and hands its step to the tile unit (08 R263). Of its group only the tiles, its pending accesses, what it has observed and
its paths may change, and no other group does. Without a `qmm` that waits, `eff` holds of its group before and after, and its results are
outstanding. Behind one (log entry 97) the tiles stay and the step waits in the tile unit, which then does this to the group as it finds it; its results have no
value yet. -/
def State.TileSteps (s t : State) (i : Instr) (eff : Group → Group → Prop) (res : Group → List PRes) : Prop :=
  let g := s.grp
  let p (r : PRes) : Pend := ⟨.tile, r, s.pc, BitVec.ofNat 64 (encode i), [], 0⟩
  t.grp = { g with tile := t.grp.tile, tstat := t.grp.tstat, tileq := t.grp.tileq, sbuf := t.grp.sbuf, ends := t.grp.ends, obs := t.grp.obs,
                   p0 := t.grp.p0, p1 := t.grp.p1 }
    ∧ s.OtherGroups t
    ∧ (g.tileBusy = false → eff g t.grp ∧ t.grp.tileq = g.tileq ∧ s.Goes t (s.pc + 8) i.pk ((res g).map p))
    ∧ (g.tileBusy = true → ∃ x : TStep, t.grp.tile = g.tile ∧ t.grp.tstat = g.tstat ∧ t.grp.tileq = g.tileq ++ [x]
        ∧ s.Goes t (s.pc + 8) i.pk ((res g).map fun r => p (.q x.n r.reg.1 r.reg.2))
        ∧ ∀ o : Group, let n := o.tileWrite x.op
            n = { o with tile := n.tile, tstat := n.tstat } ∧ eff o n ∧ o.tileResults x.op = res o)

/-- A user trap that continues waits for a sweep of the other path whose end may trap (13 R373; log entry 83). -/
def Group.later (g : Group) : Bool := g.sweeps && g.flagTraps

/-- The cells are those of an engine's unit: written in order, so that a location takes the last byte written there; every other byte keeps its value,
and no group changes. -/
def State.Wrote (s u : State) (cells : List (Loc × Byte)) : Prop :=
  (∀ y, u.rb y = ((cells.reverse.find? fun e => decide (e.1 = y)).map (·.2)).getD (s.rb y)) ∧ ∀ k, u.group k = s.group k

/-- Locations of which none lies in a peer module. -/
def LocsHere (ls : List Loc) : Prop := ∀ pa, Loc.gpa pa ∈ ls → pa < 2 ^ 51

/-- A word that only moves its path to an address. -/
def OnlyGoes (s : State) (pk : Bool) (pc : W64) (o : Host.Outcome State Fault Refusal) : Prop :=
  Completes o fun t => s.Elsewhere t ∧ s.Goes t pc pk [] ∧ t.grp = { s.grp with p0 := t.grp.p0, p1 := t.grp.p1 }

/-- The results of a vector word that stay outstanding. -/
def vecPends (s : State) (cls : RCls) (d : Nat) (lanes : List (Nat × W32)) (w : Nat) : List Pend :=
  if lanes.isEmpty then [] else [⟨cls, .v d lanes, s.pc, BitVec.ofNat 64 w, [], 0⟩]

end Sys2Proof.Machine
end

