-- ==== Sys2Proof/Certificates/Slice0/Obligations.lean ====
section
/-! DEFINITION. The statements for the provers (OBLIGATIONS.json lists them). A statement that rests on a choice of the model names its log
entry. -/

open Sys2Proof Sys2Proof.Machine

/-- O1. (14 R418, R419). Where nothing else is to happen first and the 8 bytes that the path of a chosen group fetches at its PC decode to an
instruction, the step is that instruction's execution, with the group and path in focus. (02 R76, 13 R373 to R376, 15 R440, R444). Where the
fetched word is no instruction, the step is the trap ILI with the decoder's reason, or with 10 or 11 where a register field is wrong as well;
where the fetch fails, it is the trap PAGE or PROT of a fetch, with the PC as its address; nothing of a word is executed. A group whose other
path is in a sweep traps when that is over (13 R373). SystemTraps says what a trap does. The order of a step: what comes from outside, then what
is due, then the chosen groups, then the listing of what is due (the model's own schedule, log entry 4). -/
def Obligations.StepRunsDecodedWord : Prop :=
  (∀ (s s2 : State) (gk p : Nat) (ks : List Nat) (ls : List Loc) (i : Instr),
      s.agenda = [] → s.todo = [] → s.chosen = gk :: ks → ({ s with chosen := ks } : State).choosePath gk = some p →
      ((({ s with chosen := ks } : State).at_ gk p).setGrp { s.group gk with lastPath := p, idle := 0 }).gaccess gk
          (((s.group gk).path p).pc.toNat) 8 .fetch = (s2, .ok ls) →
      s2.noAnswer gk ls = none → decode (leNat (ls.map fun l => s2.gb gk l)) = .ok i →
      step s = exec i s2)
    ∧ (∀ (s s2 : State) (gk p : Nat) (ks : List Nat),
      s.agenda = [] → s.todo = [] → s.chosen = gk :: ks → ({ s with chosen := ks } : State).choosePath gk = some p →
      let pc := ((s.group gk).path p).pc
      let fetched := ((({ s with chosen := ks } : State).at_ gk p).setGrp { s.group gk with lastPath := p, idle := 0 }).gaccess gk pc.toNat 8 .fetch
      let takes (w : Nat) (t : Trap) : Prop :=
        s2.grp.path p = (s.group gk).path p ∧ ((s.group gk).sweeps = false → step s = .next (s2.sysTrap gk p (BitVec.ofNat 64 w) t))
          ∧ ((s.group gk).sweeps = true → step s = .next s2)
      (∀ ls r j, fetched = (s2, .ok ls) → s2.noAnswer gk ls = none → let w := leNat (ls.map fun l => s2.gb gk l)
          decode w = .bad r j → takes w { cause := 1, reason := s2.badReason r j }
            ∧ (s2.badReason r j = r ∨ s2.badReason r j = 10 ∨ s2.badReason r j = 11) ∧ s2.badReason r j ≤ r)
        ∧ (∀ va why lvl, fetched = (s2, .error (.fail va (.page why lvl))) →
            takes 0 { cause := 2, reason := 3, fetch := true, addr := pc, pages := [(va, why, lvl)] })
        ∧ (∀ ls pa, fetched = (s2, .ok ls) → s2.noAnswer gk ls = some pa → takes 0 { cause := 9, reason := 0, fetch := true, addr := BitVec.ofNat 64 pa })
        ∧ (∀ va r, fetched = (s2, .error (.fail va (.prot r))) → takes 0 { cause := 3, reason := r, fetch := true, addr := pc }))
    ∧ (∀ s : State,
      (∀ e es, s.agenda = e :: es → step s = exec e { s with agenda := es })
        ∧ (∀ d ds, s.agenda = [] → s.todo = d :: ds → step s = runDue d { s with todo := ds })
        ∧ (∀ gk ks, s.agenda = [] → s.todo = [] → s.chosen = gk :: ks → ({ s with chosen := ks } : State).choosePath gk = none →
            step s = .next { s with chosen := ks })
        ∧ (s.agenda = [] → s.todo = [] → s.chosen = [] → step s = .next { s with todo := dueEvents s }))

/-- O2. No step faults or refuses: every trap of the spec is a next state. -/
def Obligations.EveryStepAnswersNextState : Prop := ∀ s : State, s.Safe

/-- O3. (13 R370, 16 R480; log entry 2). Reset is the module before power-good: no die, core, group, team, launch, partition, session or queue, and
memory lists nothing. -/
def Obligations.ResetState : Prop :=
  State.reset.up = false ∧ State.reset.dies = [] ∧ State.reset.cores = [] ∧ State.reset.groups = [] ∧ State.reset.teams = []
    ∧ State.reset.launches = [] ∧ State.reset.parts = [] ∧ State.reset.lqs = [] ∧ State.reset.engs = [] ∧ State.reset.tqs = []
    ∧ State.reset.peers = [] ∧ State.reset.tp.live = false ∧ State.reset.tp.unacked = 0 ∧ State.reset.agenda = []
    ∧ State.reset.chosen = [] ∧ Memory.wf State.reset.mem = true ∧ ∀ a, Memory.read State.reset.mem a = unlisted

/-- O4. The invariant of memory: every step keeps its canonical form (addresses strictly rising, no byte listed that reads as unlisted). -/
def Obligations.MemoryStaysCanonical : Prop :=
  ∀ s t : State, Memory.wf s.mem = true → step s = .next t → Memory.wf t.mem = true

/-- O5. (02 R57 to R63). Words written out from the encodings of the spec decode to the instructions they stand for. (02 R76). A word for each reason
for which the decoder refuses one: an unassigned opcode, an unassigned half opcode, a reserved field, a reserved guard, a guarded class-0 word,
two memory halves, two halves that write one register, a bank conflict, a guarded class-0 half, a register outside its file, a sweep of count 0. -/
def Obligations.WrittenWordsDecode : Prop :=
  (decode 0x080c030506000200 = .ok (.vadd ⟨12, false, false⟩ .w 3 5 (.reg 6))
      ∧ decode 0x044c0003007ffffb = .ok (.bnz false 3 (BitVec.ofInt 23 (-5)))
      ∧ decode 0x204c040600034a40 = .ok (.ldg ⟨12, false, false⟩ ⟨.w, false, .lane, .dev, .acq, 64⟩ 4 6)
      ∧ decode 0x2a0c080400000000 = .ok (.cpy ⟨12, false, false⟩ 8 4)
      ∧ decode 0x32ac213200000000 = .ok (.kvtrim ⟨12, false, false⟩ 33 50)
      ∧ decode 0x388c000400000000 = .ok (.rtiResume ⟨12, false, false⟩ 4)
      ∧ decode 0x48604048_40c0c0e2 = .ok (.pairedWord false ⟨.vadd, 12, 8, 9, 0⟩ ⟨.lds, 12, 12, 14, 2⟩))
    ∧ (let reason (w r : Nat) : Prop := ∃ i, decode w = .bad r i
    reason 0x3fec000000000000 1 ∧ reason 0x7fec000000000000 2 ∧ reason 0x080c030506800200 3 ∧ reason 0x080d030506000200 4
      ∧ reason 0x04430003007ffffb 5 ∧ reason 0x6060404840c0c0e2 6 ∧ reason 0x4860404811c080e0 7 ∧ reason 0x4860404840c0c0d2 8
      ∧ reason 0x4098404811c090e0 9 ∧ reason 0x024c800300000000 10 ∧ reason 0x0c0c030405000000 12)

/-- O6. (02 R57 to R66). Words of classes 0 and 1, the class-1 sweeps included: decoding an encoded well-formed instruction gives it back. The same
for classes 2 and 3. -/
def Obligations.RoundTripClasses0To3 : Prop :=
  (∀ i : Instr, WellFormed i → bit (encode i) 62 = false → encode i / 2 ^ 59 % 8 ≤ 1 → decode (encode i) = .ok i)
    ∧ (∀ i : Instr, WellFormed i → bit (encode i) 62 = false → 2 ≤ encode i / 2 ^ 59 % 8 → encode i / 2 ^ 59 % 8 ≤ 3 → decode (encode i) = .ok i)

/-- O7. The same for classes 4 and 5. The same for classes 6 and 7. -/
def Obligations.RoundTripClasses4To7 : Prop :=
  (∀ i : Instr, WellFormed i → bit (encode i) 62 = false → 4 ≤ encode i / 2 ^ 59 % 8 → encode i / 2 ^ 59 % 8 ≤ 5 → decode (encode i) = .ok i)
    ∧ (∀ i : Instr, WellFormed i → bit (encode i) 62 = false → 6 ≤ encode i / 2 ^ 59 % 8 → decode (encode i) = .ok i)

/-- O8. (02 R62 to R65). The same for paired words. -/
def Obligations.RoundTripPaired : Prop :=
  ∀ (pk : Bool) (h0 h1 : Half), WellFormed (.pairedWord pk h0 h1) → decode (encode (.pairedWord pk h0 h1)) = .ok (.pairedWord pk h0 h1)

/-- O9. (02 R76). What the decoder answers for a 64-bit word is well-formed and encodes to that word: every legal word has one meaning. -/
def Obligations.DecodedWordsAreWellFormed : Prop :=
  ∀ (w : Nat) (i : Instr), w < 2 ^ 64 → decode w = .ok i → WellFormed i ∧ encode i = w

/-- O10. (14 R418, 02 R74, R75). A word that cannot issue changes nothing: its path cannot issue, or an outstanding result or its own entry holds it. -/
def Obligations.HeldWordChangesNothing : Prop :=
  ∀ (i : Instr) (s : State), i.isEvent = false →
    s.canIssue = false ∨ (s.tick.dynReason i = 0 ∧ (s.grp.held s.fpath i = true ∨ s.tick.waits i = true)) → exec i s = .next s

/-- O11. (02 R76, 13 R373, R374). A word that its user group may not issue executes nothing: the group stops with the illegal-instruction record of
the lowest reason, the words that wait in its tile unit and its pending accesses performed and its outstanding results written; every other group
stays as it was. While the other path is in a sweep, which issued before, the word waits. (13 R369). A word of class 7 other than `sysc` that a
user group issues is reason 13, and so it traps as IllegalWordTraps says. (13 R371). In the control group a word that is not available to it is
reason 14: sections, grace periods, tile queues, the multicast copy, `tret`, `sysc`, `phreg` and `pharr` on scratchpad phasers, and class 6 (but
for a register beyond the allocation, a lower reason). -/
def Obligations.IllegalWordTraps : Prop :=
  (∀ (i : Instr) (s : State), i.isEvent = false → s.canIssue = true → s.tick.dynReason i ≠ 0 → s.grp.ctl = false →
      (s.grp.sweeps = false → Completes (exec i s) fun t =>
        t.grp = { ((s.quiesce s.focus).grp).landAll with
                  stopped := true, hold := .ctl, preempt := false, deaf := none,
                  trap := some { cause := 1, reason := s.tick.dynReason i, ps := s.fpath, fetch := false, wr := false, ucause := 0, lane := 0,
                                 tpc := s.pc, word := BitVec.ofNat 64 (encode i), addr := 0, info0 := 0, info1 := 0,
                                 cyc := BitVec.ofNat 64 (s.cycOf s.focus) } }
          ∧ s.OtherGroups t ∧ ∀ x, t.rb x = (s.quiesce s.focus).rb x)
        ∧ (s.grp.sweeps = true → exec i s = .next s))
    ∧ (∀ (i : Instr) (s : State), isPrivileged i = true → s.grp.ctl = false → s.dynReason i = 13)
    ∧ (∀ (s : State) (pk : Bool) (h : Hdr) (d a b c n : Nat) (scp : Scope) (k : BitVec 16) (mode : PhMode), s.grp.ctl = true →
      (s.dynReason (.rsb pk) = 14 ∧ s.dynReason (.rse pk) = 14 ∧ s.dynReason (.gsync pk d) = 14 ∧ s.dynReason (.dfree h a b) = 14
        ∧ s.dynReason (.cpym h d a) = 14 ∧ s.dynReason (.tqpush h scp d a b c) = 14 ∧ s.dynReason (.tqpop h scp d a c) = 14
        ∧ s.dynReason (.tqclose h scp a) = 14 ∧ s.dynReason (.tqcloseOpen h scp a) = 14 ∧ s.dynReason (.tret pk) = 14 ∧ s.dynReason (.sysc h k) = 14)
        ∧ s.dynReason (.phreg h n a mode) = (if (s.rs a).getLsbD 63 = true then 14 else 0)
        ∧ s.dynReason (.pharr h scp d n) = (if (s.grp.slot n).h.getLsbD 63 = true then 14 else 0)
        ∧ ∀ i : Instr, isClass6 i = true → qmmB s.grp.w i < 256 → qmmB s.grp.w i < s.grp.nv →
            (∀ r ∈ i.uses.r ++ i.uses.w, s.grp.beyond r = false) → s.dynReason i = 14)

/-- O12. (09 R291, R299 to R306; 04 R113; 05 R133). What one unit of each kind of engine command delivers, where its ranges can be accessed and no
phaser counts it (its size is the model's choice: log entry 66). A copied chunk puts the bytes of the source at each destination: of `cpy` the
row's, of `cpym` the windows of the served receivers, of `gath` the element that the index names; under SPL a whole block, judged first. Small
elements of a `gath` are collected to a destination word; a `scat` writes all its elements, in command order, so that the later one stays at an
overlap; `xsect` writes the pairs of equal values of two rising lists, then their number. Every other byte keeps its value. (10 R312, R313, R317,
R318, R324, R327 to R337; 14 R428). The parts of the units of the key-cache commands, for ranges that can be accessed and no phaser: an entry is
read, cached or from memory, and written as 16 bytes that are a release and drop every cached copy; a reference is counted up or down, a block
without one goes to the deferred-free queue; a block is allocated; a token is written, row by row, then its entry, after a copy where the block
is shared; the descriptor is written last. `kvld` writes a row or zeros, then the mask. What a cached entry may be replaced by, and that RC
wraps, are the model's choice (log entries 107, 114). Every other byte keeps its value. -/
def Obligations.EngineUnits : Prop :=
  (∀ (s s1 s2 s3 s4 : State) (c : Cmd) (n i ix : Nat) (l m : List (Loc × Nat)) (ds : List (List (Loc × Nat) × Option (Nat × AFail)))
      (blk : List Byte), c.counted = [] →
      let pos := c.pos
      let z := c.esz
      let cnt := c.fld 288 17
      let put (x : List (Loc × Nat)) (bs : List Byte) : List (Loc × Byte) := (segLocs x).zip bs
      let good (k : Nat) : Prop := ∀ x ∈ ds, x.2 = none ∧ (segLocs x.1).length = k ∧ LocsHere (segLocs x.1)
      let on (x : Cmd) (k : Nat) (bs : List Byte) : Cmd := { x with pos := x.pos + k, delivered := x.delivered + k, ahead := bs.drop k }
      -- a chunk of `k` of the `rem` bytes left at a source, to destinations
      let copies (x : Cmd) (sg : Bool) (src : Nat) (dg : Bool) (dsts : List Nat) (k rem : Nat) (o : K) (fin : State → Cmd → K) : Prop :=
        let h := x.ahead.length
        let want := min ((src + k + 3) / 4 * 4 - src) rem
        let data := x.ahead ++ s1.cmdBytes x (segLocs l)
        0 < k → k ≤ rem → h ≤ want → s.eSegs x sg (src + h) (want - h) .read = (s1, l, none) → (segLocs l).length = want - h →
          s1.dstSegs x dg k dsts = (s2, ds) → good k → ∃ u, o = fin u (on x k data) ∧ s.Wrote u (ds.flatMap fun y => put y.1 data)
      -- a block, read and judged by `withBlock`, to destinations
      let block (x : Cmd) (sg : Bool) (a left e : Nat) (exact dg : Bool) (dsts : List Nat) (o : K) (fin : State → Cmd → K) : Prop :=
        (∀ go, withBlock s x sg a left e exact go = go s1 blk) → 0 < blk.length → s1.dstSegs x dg blk.length dsts = (s2, ds) → good blk.length →
          ∃ u, o = fin u (on x blk.length blk) ∧ s.Wrote u (ds.flatMap fun y => put y.1 blk)
      let one (x : Cmd) : Cmd := { x with idxs := [ix] }
      let el := c.indexed ix
      let gdst := (c.fld 192 64 + pos) % 2 ^ 64
      let gfin (u : State) (x : Cmd) : K := doneAt (cnt * z) u (if x.pos % z = 0 then { x with idxs := [] } else x)
      let len := c.fld 256 32
      let row (base lo : Nat) : Nat := modInt 64 ((c.fld base 64 : Int) + (pos / len : Nat) * sxInt 32 (c.fld lo 32) + (pos % len : Nat))
      let wins := (ranksOf c.served).map fun r => c.fld 192 22 + pos + 2 ^ 22 + r * 2 ^ 23
      let b0 := s1.cmdBytes c (segLocs l)
      let bs := b0 ++ s2.cmdBytes c (segLocs m)
      let whole (exact : Bool) (left : Nat) : Option (Nat × Nat) :=
        judgeBlock (if exact then .exact left else .atMost left)
          ((List.range (if lineZeroOk b0 then min (blockLines (lineHdr b0).bf (lineHdr b0).cap) left else 1)).map fun i => (bs.drop (128 * i)).take 128)
      let found (a b : List Nat) : List (Nat × Nat) := (List.range a.length).filterMap fun i => (b.findIdx? fun y => y == a.getD i 0).map fun j => (i, j)
      -- a split block of at most `left` lines: read, judged, and only then delivered
      (∀ sg a left e exact go, s.eSegs c sg a 128 .read = (s1, l, none) →
          s1.eSegs c sg (a + 128) (128 * ((if lineZeroOk b0 then min (blockLines (lineHdr b0).bf (lineHdr b0).cap) left else 1) - 1)) .read = (s2, m, none) →
          (whole exact left = none → withBlock s c sg a left e exact go = go s2 bs)
            ∧ (∀ j t, whole exact left = some (j, t) → withBlock s c sg a left e exact go = .stop s2 { c.fail 5 (a + 128 * j) e with test := t })
            ∧ ∀ y, s2.rb y = s.rb y)
        -- cpy
        ∧ (c.word = 1 → c.fld 13 1 = 1 → block c (c.fld 304 1 == 1) (row 128 320) ((len - pos) / 128) pos false (c.fld 305 1 == 1) [row 192 352]
            (deliverUnit s c n i) (doneAt (len * c.fld 288 16)))
        ∧ (∀ t, doneAt t s c = .ok s (if t ≤ pos then { c with st := .done } else c))
        -- cpym
        ∧ (c.word = 2 → c.fld 13 1 = 0 → copies c (c.fld 300 1 == 1) ((c.fld 128 64 + pos) % 2 ^ 64) false wins
            (min (n + (4 - (c.fld 192 22 + pos + n) % 4) % 4) (len - pos)) (len - pos) (deliverUnit s c n i) cpymDone)
        ∧ (c.word = 2 → c.fld 13 1 = 1 → block c (c.fld 300 1 == 1) ((c.fld 128 64 + pos) % 2 ^ 64) ((len - pos) / 128) pos false false wins
            (deliverUnit s c n i) cpymDone)
        ∧ (pos < len → cpymDone s c = .ok s c) ∧ (len ≤ pos → c.served = c.fld 288 12 → cpymDone s c = .ok s { c with st := .done })
        ∧ (∀ r, len ≤ pos → c.served ≠ c.fld 288 12 → (ranksOf (c.fld 288 12)).find? (fun r => !c.served.testBit r) = some r →
            cpymDone s c = .stop s (c.fail 3 (c.fld 192 22 + 2 ^ 22 + r * 2 ^ 23) len))
        -- gath
        ∧ (c.word = 3 → 4 ≤ z → c.idxs = [] → el % c.ealign = 0 → s.eSegs c false (c.fld 256 27 + 4 * (pos / z)) 4 .read = (s1, l, none) → leNat b0 = ix →
            deliverUnit s c n i = deliverUnit s1 (one c) n i)
        ∧ (c.word = 3 → 4 ≤ z → c.idxs = [ix] → el % c.ealign ≠ 0 → deliverUnit s c n i = .stop s (c.fail 4 el (pos / z)))
        ∧ (c.word = 3 → 4 ≤ z → c.idxs = [ix] → el % c.ealign = 0 → c.fld 13 1 = 0 → copies c (c.fld 356 1 == 1) (el + pos % z) (c.fld 357 1 == 1) [gdst]
            (z - pos % z) (z - pos % z) (deliverUnit s c n i) gfin)
        ∧ (c.word = 3 → 4 ≤ z → c.idxs = [ix] → el % c.ealign = 0 → c.fld 13 1 = 1 → block c (c.fld 356 1 == 1) el (z / 128) (pos / z) true (c.fld 357 1 == 1)
            [gdst] (deliverUnit s c n i) gfin)
        ∧ (c.word = 3 → z < 4 → deliverUnit s c n i = gathSmall s c gdst (min ((4 - gdst % 4) / z) (cnt - pos / z)) (pos / z) [] s c)
        ∧ (∀ d e todo, let x : Cmd := { c with idxs := c.idxs ++ [ix] }
            c.idxs.length = i - e.pos / z → s.eSegs c false (c.fld 256 27 + 4 * i) 4 .read = (s1, l, none) → leNat b0 = ix → el % c.ealign = 0 →
            s1.eSegs x (c.fld 356 1 == 1) el z .read = (s2, m, none) →
            gathSmall s3 e d (todo + 1) i blk s c = gathSmall s3 e d todo (i + 1) (blk ++ s2.cmdBytes x (segLocs m)) s2 x)
        ∧ (∀ d e todo, c.idxs[i - e.pos / z]? = some ix → el % c.ealign = 0 → s.eSegs c (c.fld 356 1 == 1) el z .read = (s1, l, none) →
            gathSmall s3 e d (todo + 1) i blk s c = gathSmall s3 e d todo (i + 1) (blk ++ b0) s1 c)
        ∧ (∀ d e todo, c.idxs[i - e.pos / z]? = some ix → el % c.ealign ≠ 0 →
            gathSmall s3 e d (todo + 1) i [] s c = .stop s (c.fail 4 el i))
        ∧ (∀ d e, 0 < blk.length → s.eSegs { c with ahead := [] } (c.fld 357 1 == 1) d blk.length .write = (s1, l, none) → (segLocs l).length = blk.length →
            LocsHere (segLocs l) → ∃ u, gathSmall s3 e d 0 i blk s c = doneAt (cnt * z) u { on c blk.length blk with idxs := [] } ∧ s.Wrote u (put l blk))
        -- scat
        ∧ (c.word = 4 → c.idxs = [] → s.eSegs c false (c.fld 256 27) (4 * cnt) .read = (s1, l, none) →
            deliverUnit s c n i = scatRun s1 { c with idxs := words32 b0 })
        ∧ (c.word = 4 → c.idxs ≠ [] → deliverUnit s c n i = scatRun s c)
        ∧ (∀ (fin : State → List (Loc × Byte) → Option (AKind × Nat × Nat × (Nat × AFail)) → K) (r : List Nat) (acc : List (Loc × Byte)),
            scatFrom c fin [] i acc s = fin s acc none
              ∧ (el % c.ealign ≠ 0 → scatFrom c fin (ix :: r) i acc s = fin s acc (some (.write, 3, i, (el, .fail el (.prot 3)))))
              ∧ (el % c.ealign = 0 → s.eSegs c (c.fld 357 1 == 1) ((c.fld 192 64 + i * z) % 2 ^ 64) z .read = (s1, l, none) →
                  (∀ k f, s1.eSegs c (c.fld 356 1 == 1) el (segLocs l).length .write = (s2, m, some (k, f)) →
                    scatFrom c fin (ix :: r) i acc s = fin s2 acc (some (.write, 3, i, (k, f))))
                    ∧ (s1.eSegs c (c.fld 356 1 == 1) el (segLocs l).length .write = (s2, m, none) →
                        scatFrom c fin (ix :: r) i acc s = scatFrom c fin r (i + 1) (acc ++ put m (s2.cmdBytes c (segLocs l))) s2)))
        ∧ (∀ cells, (∀ fin, scatFrom c fin c.idxs 0 [] s = fin s1 cells none) → c.idxs.length = cnt → LocsHere (cells.map (·.1)) →
            ∃ u, scatRun s c = .ok u { c with pos := cells.length, delivered := c.delivered + cells.length, st := .done } ∧ s.Wrote u cells)
        ∧ (∀ cells kd rsn va r, (∀ fin, scatFrom c fin c.idxs 0 [] s = fin s1 cells (some (kd, rsn, i, (va, .fail va (.prot r))))) →
            LocsHere (cells.map (·.1)) →
            ∃ u, scatRun s c = .stop u (({ c with pos := cells.length, delivered := c.delivered + cells.length } : Cmd).fail rsn va i) ∧ s.Wrote u cells)
        -- xsect
        ∧ (c.word = 5 → s.eSegs c false (c.fld 128 27) (4 * c.fld 160 17) .read = (s1, l, none) →
            s1.eSegs c false (c.fld 192 27) (4 * c.fld 224 17) .read = (s2, m, none) →
            let a := words32 b0
            let b := words32 (s2.cmdBytes c (segLocs m))
            let w := xsectWalk a b (c.fld 128 27) (c.fld 192 27) (c.fld 256 27) (c.fld 288 17) (a.length + b.length + 1) 0 0 []
            let pairs := w.pairs.flatMap fun p => leBytes 4 p.1 ++ leBytes 4 p.2
            ∀ (pl nl : List (Loc × Nat)), s2.eSegs c false (c.fld 256 27) pairs.length .write = (s3, pl, none) → LocsHere (segLocs pl) →
              let c1 : Cmd := { c with delivered := 8 * w.pairs.length }
              let c2 : Cmd := { c with delivered := 8 * w.pairs.length + 4 }
              let both := put pl pairs ++ put nl (leBytes 4 w.pairs.length)
              (w.rsn = 6 → ∃ u, deliverUnit s c n i = .stop u (c1.fail 6 w.faddr w.epos) ∧ s.Wrote u (put pl pairs))
                ∧ ((s3.cmdCells c (put pl pairs)).eSegs c1 false (c.fld 320 27) 4 .write = (s4, nl, none) → LocsHere (segLocs nl) →
                    (w.rsn = 0 → ∃ u, deliverUnit s c n i = .ok u { c2 with st := .done } ∧ s.Wrote u both)
                      ∧ (w.rsn = 7 → ∃ u, deliverUnit s c n i = .stop u (c2.fail 7 w.faddr w.epos) ∧ s.Wrote u both)))
        ∧ (∀ (a b : List Nat) (la lb out most : Nat), a.Pairwise (· < ·) → b.Pairwise (· < ·) →
            let w := xsectWalk a b la lb out most (a.length + b.length + 1) 0 0 []
            ((found a b).length ≤ most → w.pairs = found a b ∧ w.rsn = 0)
              ∧ ∀ p, (found a b)[most]? = some p → w.pairs = (found a b).take most ∧ w.rsn = 7 ∧ w.epos = p.1 ∧ w.faddr = out + 8 * most))
    ∧ (∀ (s s1 s2 s3 : State) (c : Cmd) (e ep p b nb choice t : Nat) (l l2 l3 l4 : List (Loc × Nat)) (x : BEnt) (pl : Pool)
      (go : State → Cmd → K) (goE : State → BEnt → K) (goS : State → K) (goN : State → Nat → K), c.counted = [] → 16 ≤ c.word →
      let d := c.desc
      let dva := c.fld 128 64
      let r := descR d
      let len := c.len
      let put (x : List (Loc × Nat)) (bs : List Byte) : List (Loc × Byte) := (segLocs x).zip bs
      let here (x : List (Loc × Nat)) (n : Nat) : Prop := (segLocs x).length = n ∧ LocsHere (segLocs x)
      let rd (s : State) (x : List (Loc × Nat)) : List Byte := (segLocs x).map s.rb
      let rc := leNat (rd s1 l)
      let enter (e : Nat) (i : Nat) : Prop := ∀ go, readEntry s c dva d e i go = go s1 x
      -- reading and writing an entry
      (((s.core c.core).btc.find? fun z => z.asid = c.asid && z.va = bits d 0 57 + 16 * e) = none →
          s.eSegs c true (bits d 0 57 + 16 * e) 16 .read = (s1, l, none) → BEnt.ofNum rc = x →
          (x.rsv ≠ 0 → ∃ u, readEntry s c dva d e ep goE = .stop u (c.fail 13 dva ep))
            ∧ (x.rsv = 0 → ∃ u, readEntry s c dva d e ep goE = goE u x ∧ s.Wrote u []
                ∧ ⟨c.asid, bits d 0 57 + 16 * e, dva, rd s1 l⟩ ∈ (u.core c.core).btc))
        ∧ (∀ z, ((s.core c.core).btc.find? fun z => z.asid = c.asid && z.va = bits d 0 57 + 16 * e) = some z →
            s.stands c (bits d 0 57 + 16 * e) z.bytes = true → BEnt.ofNum (leNat z.bytes) = x → x.rsv = 0 → readEntry s c dva d e ep goE = goE s x)
        ∧ (s.eSegs c true (bits d 0 57 + 16 * e) 16 .write = (s1, l, none) → here l 16 → ∃ u, writeEntry s c d e x ep goS = goS u
            ∧ s.Wrote u (put l (leBytes 16 x.num)) ∧ (∀ y ∈ segLocs l, ∃ r ∈ u.rels, r.loc = y ∧ r.who = s.cmdWho c ∧ r.scp = c.scp ∧ r.till = none)
            ∧ ∀ k, (s.part c.part).dies.testBit (dieOf k) = true → ∀ z ∈ (u.core k).btc, ¬ (z.asid = c.asid ∧ z.va = bits d 0 57 + 16 * e))
        ∧ (x.pbn < 2 ^ 32 → x.posb < 2 ^ 32 → x.sm < 2 ^ 16 → x.tier < 2 → x.rsv = 0 → BEnt.ofNum (leNat (leBytes 16 x.num)) = x
            ∧ leBytes 16 x.num = leBytes 4 x.pbn ++ leBytes 4 x.posb ++ leBytes 2 x.sm
                ++ [BitVec.ofNat 8 (b2n x.v + 2 * x.tier + 4 * b2n x.topen + 8 * b2n x.cw), 0#8, 0#8, 0#8, 0#8, 0#8])
        -- references and blocks
        ∧ (s.blockPool c p = some pl → s.eSegs c true (pl.rcb + 4 * b) 4 .rmw = (s1, l, none) → here l 4 →
            (∃ u, rcInc s c p b ep goS = goS u ∧ s.Wrote u (put l (leBytes 4 (rc / 2 ^ 24 * 2 ^ 24 + (rc + 1) % 2 ^ 24))))
              ∧ (rc % 2 ^ 24 ≠ 1 → ∃ u, rcDec s c p b ep goS = goS u
                  ∧ s.Wrote u (put l (leBytes 4 (rc / 2 ^ 24 * 2 ^ 24 + (rc % 2 ^ 24 + 2 ^ 24 - 1) % 2 ^ 24))))
              ∧ (rc % 2 ^ 24 = 1 → (s.part c.part).dfqFull = true → rcDec s c p b ep goS = .hold)
              ∧ (rc % 2 ^ 24 = 1 → (s.part c.part).dfqFull = false →
                  ∃ u, rcDec s c p b ep goS = goS (u.dfAppend c.part (pl.base + b * pl.bsz) 0 p) ∧ s.Wrote u (put l (leBytes 4 (2 * 2 ^ 24)))))
        ∧ (s.blockPool c p = some pl → s.eSegs c true pl.rcb (4 * pl.nblk) .read = (s1, l, none) →
            let free := (List.range pl.nblk).filter fun b => leNat (((rd s1 l).drop (4 * b)).take 4) / 2 ^ 24 % 4 == 0
            (free = [] → withAlloc s c choice p ep goN = .stop s1 (c.fail 11 dva ep))
              ∧ (free ≠ [] → ∃ b ∈ free, s1.eSegs c true (pl.rcb + 4 * b) 4 .write = (s2, l2, none) → here l2 4 →
                  ∃ u, s.Wrote u (put l2 (leBytes 4 (1 + 2 ^ 24))) ∧ (∀ t c', goN u b = .ok t c' → withAlloc s c choice p ep goN = .ok t c')
                    ∧ ∀ t c', goN u b = .stop t c' → withAlloc s c choice p ep goN = .stop (freeBlock t c' p b) c'))
        ∧ (∀ i f, s.blockPool c i = none → rcInc s c i b ep goS = .stop s (c.fail 14 dva ep) ∧ rcDec s c i b ep goS = .stop s (c.fail 14 dva ep)
            ∧ withAlloc s c choice i ep goN = .stop s (c.fail 14 dva ep) ∧ withPool s c i ep f = .stop s (c.fail 14 dva ep))
        -- kvld
        ∧ (let pos := c.pos
           let n := descDh d * (dfmt (c.fld 220 3)).2.1
           let at_ := c.fld 192 27 + pos * n
           let vals := c.fld 219 1 == 1
           let q : W32 := BitVec.ofNat 32 (x.posb + t % 16)
           let src := pl.base + x.pbn * pl.bsz + ((if vals then 16 else 0) + t % 16) * r
           let after (u : State) (k a : Nat) : K := .ok u { c with pos := pos + 1, delivered := c.delivered + k, idxs := c.idxs ++ [a],
                                                                   st := if pos + 1 = c.fld 256 11 ∧ c.fld 299 1 = 0 then .done else c.st }
           let zeros : Prop := ∃ u, deliverUnit s c nb choice = after u n 0 ∧ s.Wrote u (put l2 (List.replicate n 0#8))
           let row := kvRow d vals (c.fld 220 3) c.fq q (rd s2 l3)
           c.word = 16 → pos < c.fld 256 11 → t = c.fld 224 32 + pos →
            (bits d 64 32 ≤ t → s.eSegs c false at_ n .write = (s2, l2, none) → here l2 n → zeros)
              ∧ (t < bits d 64 32 → enter (t / 16) t → (x.v = false ∨ x.sm.testBit (t % 16) = true ∨ c.attends q = false) →
                  s1.eSegs c false at_ n .write = (s2, l2, none) → here l2 n → zeros)
              ∧ (t < bits d 64 32 → enter (t / 16) t → x.v = true → x.sm.testBit (t % 16) = false → c.attends q = true →
                  s1.blockPool c (descPool d x.tier) = some pl → x.pbn < pl.nblk → s1.eSegs c true src r .read = (s2, l3, none) →
                  s2.eSegs c false at_ row.length .write = (s3, l4, none) → here l4 row.length →
                  ∃ u, deliverUnit s c nb choice = after u row.length 1 ∧ s.Wrote u (put l4 row))
              ∧ (t < bits d 64 32 → enter (t / 16) t → x.v = true → x.sm.testBit (t % 16) = false → c.attends q = true →
                  s1.blockPool c (descPool d x.tier) = some pl → pl.nblk ≤ x.pbn → deliverUnit s c nb choice = .stop s1 (c.fail 13 dva t)))
        ∧ (let mask := (List.range ((c.fld 256 11 + 7) / 8)).map fun i =>
              BitVec.ofNat 8 ((List.range 8).foldl (fun acc k => acc + c.idxs.getD (8 * i + k) 0 * 2 ^ k) 0)
           c.word = 16 → c.fld 256 11 ≤ c.pos → s.eSegs c false (c.fld 272 27) mask.length .write = (s1, l, none) → here l mask.length →
              ∃ u, deliverUnit s c nb choice = .ok u { c with delivered := c.delivered + mask.length, st := .done } ∧ s.Wrote u (put l mask))
        ∧ (∀ q : W32, c.attends q = true ↔ (c.fld 300 1 = 1 → q.toInt ≤ sxInt 32 (c.fld 304 32))
            ∧ (c.fld 336 32 ≠ 0 → sxInt 32 (c.fld 304 32) - q.toInt < c.fld 336 32))
        ∧ (∀ df fq (q : W32) (bs : List Byte) (i : Nat), let z := descZ d
            let zd := (dfmt df).2.1
            let el (j : Nat) : FV := (descFmt d).dec (leNat ((bs.drop (z * j)).take z))
            let out (v : FV) : List Byte := leBytes zd ((dfmt df).1.round .rne (dfmt df).2.2 v).1
            let two := rotatePair (rotary (phase q (fqAt fq i))) (flOf (el (2 * i))) (flOf (el (2 * i + 1)))
            (i < bs.length / z → ((kvRow d true df fq q bs).drop (zd * i)).take zd = out (el i))
              ∧ (i < bs.length / (2 * z) → ((kvRow d false df fq q bs).drop (2 * zd * i)).take (2 * zd) = out (dec32 two.1.1) ++ out (dec32 two.2.1)))
        -- a row of a token, and a token: its rows and its entry, after a copy of the block where it is shared
        ∧ (∀ from_ to_, c.ahead = [] → 0 < r → s.eSegs c false from_ r .read = (s1, l, none) → (segLocs l).length = r →
            s1.eSegs c true to_ r .write = (s2, l2, none) → here l2 r →
            ∃ u, putRow s c from_ to_ t go = go u { c with delivered := c.delivered + r } ∧ s.Wrote u (put l2 (rd s1 l)))
        ∧ (let pid := descPool d x.tier
           let blk (k : Nat) : Nat := pl.base + k * pl.bsz
           let sl := t % 16
           let ent (clr : Bool) (k : Nat) : BEnt := { x with pbn := k, cw := false, sm := if clr then x.sm &&& (2 ^ 16 - 1 - 2 ^ sl) else x.sm }
           let row (i : Nat) : Nat := c.fld 192 27 + i * r
           s.blockPool c pid = some pl →
            (∀ ks vs clr, x.v = false ∨ pl.nblk ≤ x.pbn → writeToken s c choice t x ks vs clr go = .stop s (c.fail 13 dva t))
              ∧ (∀ ks vs clr, x.v = true → x.pbn < pl.nblk → s.eSegs c true (pl.rcb + 4 * x.pbn) 4 .read = (s1, l, none) →
                  let fin (k : Nat) (u : State) (y : Cmd) : K := writeEntry u y d (t / 16) (ent clr k) t fun u => .ok u y
                  let rows (k : Nat) (u : State) : K :=
                    match ks, vs with
                    | true, true => putRow u c (row c.pos) (blk k + sl * r) t fun u y => putRow u y (row (c.fld 256 9 + c.pos)) (blk k + (16 + sl) * r) t (fin k)
                    | true, false => putRow u c (row c.pos) (blk k + sl * r) t (fin k)
                    | false, true => putRow u c (row c.pos) (blk k + (16 + sl) * r) t (fin k)
                    | false, false => fin k u c
                  (rc % 2 ^ 24 ≤ 1 → writeToken s c choice t x ks vs clr go = (rows x.pbn s1).andThen go)
                    ∧ (1 < rc % 2 ^ 24 → writeToken s c choice t x ks vs clr go =
                        (withAlloc s1 c choice pid t fun u k => eRead u c true (blk x.pbn) pl.bsz 4 t fun u old =>
                          eWrite u c true (blk k) old 3 t fun u => rows k u).andThen fun u y => rcDec u y pid x.pbn t fun u => go u y)))
        ∧ (∀ (k : K) (f : State → Cmd → K), (∀ u y, k = .ok u y → k.andThen f = f u y) ∧ ∀ u y, k = .stop u y → k.andThen f = .stop u y)
        -- the steps of the modifying commands
        ∧ (c.rsn = 0 → c.word = 17 → c.pos < c.fld 256 9 →
            let fin (t : Nat) (u : State) (c : Cmd) : K := .ok u { c with len := t + 1, npos := (c.npos + 1) % 2 ^ 32, pos := c.pos + 1 }
            let new (nb : Nat) : BEnt :=
              { pbn := nb, posb := c.npos, sm := 2 ^ 16 - 1, v := true, tier := bits d 176 1, topen := true, cw := false, rsv := 0 }
            (len % 16 = 0 → len = 16 * bits d 128 16 → deliverUnit s c nb choice = .stop s (c.fail 12 dva len))
              ∧ (len % 16 = 0 → len ≠ 16 * bits d 128 16 → deliverUnit s c nb choice =
                  withAlloc s c choice (descPool d (bits d 176 1)) len fun u b => writeToken u c choice len (new b) true true true (fin len))
              ∧ (len % 16 ≠ 0 → enter (len / 16) len → x.topen = true → (x.posb + len % 16) % 2 ^ 32 = c.npos →
                  deliverUnit s c nb choice = writeToken s1 c choice len x true true true (fin len))
              ∧ (len % 16 ≠ 0 → enter (len / 16) len → (x.topen = false ∨ (x.posb + len % 16) % 2 ^ 32 ≠ c.npos) → len / 16 + 1 ≠ bits d 128 16 →
                  deliverUnit s c nb choice =
                    writeEntry s1 c d (len / 16) { x with sm := x.sm ||| (2 ^ 16 - 2 ^ (len % 16)), topen := false } len fun u =>
                      withAlloc u { c with len := 16 * (len / 16 + 1) } choice (descPool d (bits d 176 1)) (16 * (len / 16 + 1)) fun u b =>
                        writeToken u { c with len := 16 * (len / 16 + 1) } choice (16 * (len / 16 + 1)) (new b) true true true (fin (16 * (len / 16 + 1)))))
        ∧ (c.rsn = 0 → c.word = 18 → c.pos < c.fld 256 9 → t = c.fld 224 32 + c.pos →
            (len ≤ t → deliverUnit s c nb choice = .stop s (c.fail 13 dva t))
              ∧ (t < len → enter (t / 16) t → deliverUnit s c nb choice =
                  writeToken s1 c choice t x (c.fld 272 1 == 1) (c.fld 273 1 == 1) (c.fld 274 1 == 1) fun u c => .ok u { c with pos := c.pos + 1 }))
        ∧ (let nl := c.fld 192 32
           let next (u : State) : K := .ok u { c with pos := c.pos + 1 }
           let last (u : State) (v : Nat) : K := .ok u { c with pos := c.pos + 1, len := nl, npos := v % 2 ^ 32 }
           let gone (e : Nat) (u : State) : K := writeEntry u c d e { x with v := false } e next
           c.rsn = 0 → c.word = 19 → (c.pos < trimUnits c ∨ len < nl) → e = (nl + 15) / 16 + c.pos →
            (len < nl → deliverUnit s c nb choice = .stop s (c.fail 2 0 0))
              ∧ (nl ≤ len → 16 * e < len → enter e e → x.v = false → deliverUnit s c nb choice = gone e s1)
              ∧ (nl ≤ len → 16 * e < len → enter e e → x.v = true → s1.blockPool c (descPool d x.tier) = some pl →
                  deliverUnit s c nb choice = if pl.nblk ≤ x.pbn then .stop s1 (c.fail 13 dva e) else rcDec s1 c (descPool d x.tier) x.pbn e (gone e))
              ∧ (nl ≤ len → len ≤ 16 * e → nl % 16 ≠ 0 → enter (nl / 16) (nl / 16) → deliverUnit s c nb choice =
                  writeEntry s1 c d (nl / 16) { x with sm := x.sm ||| (2 ^ 16 - 2 ^ (nl % 16)), topen := true } (nl / 16) fun u => last u (x.posb + nl % 16))
              ∧ (nl ≤ len → len ≤ 16 * e → nl % 16 = 0 → 0 < nl → enter (nl / 16 - 1) (nl / 16 - 1) → deliverUnit s c nb choice = last s1 (x.posb + 16))
              ∧ (nl ≤ len → len ≤ 16 * e → nl = 0 → deliverUnit s c nb choice = last s c.npos))
        ∧ (let sva := c.fld 192 64
           let at_ := len / 16
           let se := c.fld 256 16 + (c.pos - 1)
           let shut : BEnt := { x with sm := x.sm ||| (2 ^ 16 - 2 ^ (len % 16)), topen := false }
           c.rsn = 0 → c.word = 20 →
            (∀ sd, c.pos = 0 → s.eSegs c true sva 64 .read = (s1, l, none) → rc = sd →
                (s1.descOk c sd = false → deliverUnit s c nb choice = .stop s1 (c.fail 14 sva at_))
                  ∧ (s1.descOk c sd = true → len % 16 = 0 → deliverUnit s c nb choice = .ok s1 { c with sdesc := sd, pos := 1 })
                  ∧ (s1.descOk c sd = true → len % 16 ≠ 0 → (∀ go, readEntry s1 c dva d at_ at_ go = go s2 x) → deliverUnit s c nb choice =
                      writeEntry s2 c d at_ shut at_ fun u => .ok u { c with sdesc := sd, pos := 1, len := 16 * (at_ + 1) }))
              ∧ (0 < c.pos → c.pos ≤ c.fld 272 16 → bits c.sdesc 128 16 ≤ se → deliverUnit s c nb choice = .stop s (c.fail 13 sva at_))
              ∧ (0 < c.pos → c.pos ≤ c.fld 272 16 → se < bits c.sdesc 128 16 → (∀ go, readEntry s c sva c.sdesc se at_ go = go s1 x) →
                  s1.blockPool c (descPool d x.tier) = some pl →
                  ((x.v = false ∨ bits c.sdesc 144 32 ≠ bits d 144 32 ∨ pl.nblk ≤ x.pbn) → deliverUnit s c nb choice = .stop s1 (c.fail 13 sva at_))
                    ∧ (x.v = true → bits c.sdesc 144 32 = bits d 144 32 → x.pbn < pl.nblk → deliverUnit s c nb choice =
                        if len = 16 * bits d 128 16 then .stop s1 (c.fail 12 dva at_) else
                        rcInc s1 c (descPool d x.tier) x.pbn at_ fun u => writeEntry u c d at_
                          { x with posb := (x.posb + c.fld 288 32) % 2 ^ 32, topen := false, cw := true,
                                   sm := x.sm ||| (if c.pos = 1 then c.fld 320 16 else 0) ||| (if c.pos = c.fld 272 16 then c.fld 336 16 else 0) } at_ fun u =>
                          .ok u { c with len := len + 16, pos := c.pos + 1, npos := if c.pos = c.fld 272 16 ∧ c.fld 384 1 = 0 then c.fld 352 32 else c.npos })))
        ∧ (let ne := c.fld 208 16
           let i := c.fld 192 16 + c.pos
           let delta := c.fld 224 32
           c.rsn = 0 → c.word = 21 → c.pos < ne →
            ((len + 15) / 16 < c.fld 192 16 + ne → deliverUnit s c nb choice = .stop s (c.fail 2 0 0))
              ∧ (c.fld 192 16 + ne ≤ (len + 15) / 16 → enter i i → deliverUnit s c nb choice =
                  writeEntry s1 c d i { x with posb := (x.posb + delta) % 2 ^ 32 } i fun u => .ok u { c with
                    pos := c.pos + 1, npos := if c.pos + 1 = ne ∧ c.fld 256 1 = 1 then (c.npos + delta) % 2 ^ 32 else c.npos }))
        ∧ (let v := bits d 0 63 + len % 2 ^ 32 * 2 ^ 64 + c.npos % 2 ^ 32 * 2 ^ 96 + d / 2 ^ 128 * 2 ^ 128
           let cells := (List.range 64).zipWith (fun i b => (Loc.gpa (c.descPa + i), b)) (leBytes 64 v)
           16 < c.word → (c.rsn ≠ 0 ∨ (c.word = 17 ∧ c.fld 256 9 ≤ c.pos) ∨ (c.word = 18 ∧ c.fld 256 9 ≤ c.pos)
               ∨ (c.word = 19 ∧ c.fld 192 32 ≤ len ∧ trimUnits c ≤ c.pos) ∨ (c.word = 20 ∧ c.fld 272 16 < c.pos) ∨ (c.word = 21 ∧ c.fld 208 16 ≤ c.pos)) →
             c.descPa + 64 ≤ 2 ^ 51 → ∃ u, deliverUnit s c nb choice = .ok u { c with delivered := c.delivered + 64, st := .done } ∧ s.Wrote u cells
               ∧ ∀ i, 4 ≤ i → i < 8 → ∃ r ∈ u.rels, r.loc = Loc.gpa (c.descPa + i) ∧ r.who = s.cmdWho c ∧ r.scp = c.scp ∧ r.till = none))

/-- O13. (13 R373, R374, R386, R396). A system trap of a user group other than PAGE: the group stops with its record, the words that wait in its tile
unit and its pending accesses performed and its outstanding results written; the event waits for the control group's `halt` and a pre-emption
request is spent; nothing else of the groups changes. A trap that resumes at the next word has moved the path's PC on. (13 R378, 15 R444, R445).
A PAGE trap of a user group: it stops, held at its pages, and a fault record of its partition covers every failing page. (13 R372). A system trap
of the control group faults its core: the group stops with the record, no byte and no other group changes, and the scheduler asks every running
user group of the core whose team the frame pool has room for to stop, to save it. -/
def Obligations.SystemTraps : Prop :=
  (∀ (s : State) (gk p : Nat) (w : W64) (tr : Trap), (s.group gk).ctl = false → tr.cause ≠ 2 →
      let g := s.group gk
      let moved := g.setPath p { g.path p with pc := (g.path p).pc + 8 }
      let s1 := if tr.adv = true then s.setGroup gk moved else s
      let u := s.sysTrap gk p w tr
      (u.group gk = { ((s1.quiesce gk).group gk).landAll with
          stopped := true, hold := .ctl, preempt := false, deaf := none, trap := some (s.trapRec gk p w tr) })
        ∧ (∀ k, k ≠ gk → u.group k = s.group k) ∧ (∀ x, u.rb x = (s.quiesce gk).rb x)
        ∧ (⟨s.cycOf gk, slotOf gk, 1, 0⟩ : CoreEv) ∈ (u.core (coreOf gk)).events ∧ (∀ e ∈ (s.core (coreOf gk)).events, e ∈ (u.core (coreOf gk)).events)
        ∧ (u.core (coreOf gk)).preq.testBit (slotOf gk) = false)
    ∧ (∀ (s : State) (gk p : Nat) (w : W64) (tr : Trap), (s.group gk).ctl = false → tr.cause = 2 → tr.adv = false →
      let u := s.sysTrap gk p w tr
      (u.group gk).stopped = true ∧ (u.group gk).hold = .page ∧ (u.group gk).trap = some (s.trapRec gk p w tr)
        ∧ (∀ q ∈ (u.group gk).pends, q.queued = true) ∧ (u.group gk).sbuf = []
        ∧ (u.core (coreOf gk)).preq.testBit (slotOf gk) = false
        ∧ (∀ k, k ≠ gk → u.group k = s.group k) ∧ (∀ x, u.rb x = (s.quiesce gk).rb x)
        ∧ ∀ pg ∈ tr.pages, (u.part (s.group gk).part).faults.any (fun f => f.covers (s.group gk).asid pg.1) = true)
    ∧ (∀ (s : State) (gk p : Nat) (w : W64) (tr : Trap), (s.group gk).ctl = true → tr.adv = false →
      let u := s.sysTrap gk p w tr
      (u.core (coreOf gk)).faulted = true ∧ (u.group gk).stopped = true ∧ (u.group gk).trap = some (s.trapRec gk p w tr)
        ∧ (∀ x, u.rb x = s.rb x) ∧ (∀ k, k ≠ gk → u.group k = s.group k)
        ∧ ∀ e ∈ u.groups, coreOf e.1 = coreOf gk → e.1 ≠ gk → (u.group e.1).ctl = false → (u.group e.1).stopped = false →
            u.poolRoom (u.group e.1).part [(u.group e.1).team] = true → u.emptying e.1 = true)

/-- O14. (01 R38, R39). A user trap is delivered to the handler: of a continuing cause the word's own results are written and the group's pending
accesses performed first; s120 to s125 are written as the map says, and results outstanding for them are dropped (log entry 73); the other path,
if live, is held, and the path goes on at HPC with its mask; no other register, no other group and no other byte changes. (01 R39). The results
that a continuing user trap writes first: those that the word at the path's PC has asked for, and no others; one that waits in the tile unit
stays outstanding. (01 R41, 13 R375). Without a handler, or inside one, a user trap of a user group is the system trap UTR with reason 1 or 2,
carrying the user cause and its information words, and no lane (log entry 112); a continuing cause has performed the group's accesses and moved
the PC on. In the control group, which has no handler, it faults the core. -/
def Obligations.UserTraps : Prop :=
  (∀ (s : State) (w : W64) (cause : Nat) (i0 i1 : W64) (re : Bool), s.grp.hpc ≠ 0 → s.grp.uhc = 0 →
      let t := s.userTrap w cause i0 i1 re
      let b := if re = true then s else (s.setGrp (s.grp.landOwn s.fpath)).performAll s.focus
      let g := b.grp
      let o := g.path (1 - s.fpath)
      let keep (l : List Pend) : List Pend :=
        l.filter fun q => match q.res with | .s d _ | .q _ .s d => decide (d < 120 ∨ 125 < d) | _ => true
      tget 0#64 t.grp.sreg 120 = s.pc ∧ tget 0#64 t.grp.sreg 121 = BitVec.ofNat 64 cause ∧ tget 0#64 t.grp.sreg 122 = i0
        ∧ tget 0#64 t.grp.sreg 123 = i1 ∧ tget 0#64 t.grp.sreg 124 = (g.path s.fpath).mask
        ∧ tget 0#64 t.grp.sreg 125 = BitVec.ofNat 64 (s.fpath + b2n (decide (o.st ≠ .free)) * 2 + s.pth.stack.length * 4 + s.grp.rsd * 256)
        ∧ (∀ n, ¬ (120 ≤ n ∧ n ≤ 125) → tget 0#64 t.grp.sreg n = tget 0#64 g.sreg n)
        ∧ t.pc = s.grp.hpc ∧ t.am = (g.path s.fpath).mask
        ∧ t.pth.pend = keep (g.path s.fpath).pend ∧ t.grp.path (1 - s.fpath) = { o with held := decide (o.st ≠ .free), pend := keep o.pend }
        ∧ t.grp = { g with sreg := t.grp.sreg, uhc := cause, hpath := s.fpath, orph := keep g.orph, p0 := t.grp.p0, p1 := t.grp.p1 }
        ∧ b.Elsewhere t ∧ (re = false → g.sbuf = [] ∧ ∀ x, b.rb x = (s.performAll s.focus).rb x))
    ∧ (∀ (g : Group) (p : Nat), p < 2 → (∀ q ∈ (g.path p).pend, q.tpc = (g.path p).pc → ∀ d v, q.res ≠ .s d v) →
      let h := g.landOwn p
      (h.path p).pend = (g.path p).pend.filter (fun q => decide (q.tpc ≠ (g.path p).pc) || q.queued) ∧ h.sreg = g.sreg ∧ h.path (1 - p) = g.path (1 - p)
        ∧ (∀ q d l r n k, (g.path p).pend.filter (fun q => decide (q.tpc = (g.path p).pc)) = [q] → q.res = .v d l → (∀ x ∈ l, x.1 < 64) →
            (l.map (·.1)).Nodup → (k, r) ∈ l → (h.lane d k = r ∧ (n ≠ d → ∀ j, j < 64 → h.lane n j = g.lane n j))))
    ∧ (∀ (s : State) (w : W64) (cause : Nat) (i0 i1 : W64) (re : Bool), (s.grp.hpc = 0 ∨ s.grp.uhc ≠ 0) →
      let t := s.userTrap w cause i0 i1 re
      let r : TrapRec := { cause := 7, reason := if s.grp.hpc = 0 then 1 else 2, ps := s.fpath, fetch := false, wr := false, ucause := cause, lane := 0,
                           tpc := s.pc, word := w, addr := 0, info0 := i0, info1 := i1, cyc := BitVec.ofNat 64 (s.cycOf s.focus) }
      t.grp.stopped = true ∧ t.grp.trap = some r ∧ s.OtherGroups t
        ∧ (s.grp.ctl = false → t.grp.hold = .ctl ∧ (t.grp.path s.fpath).pc = (if re = true then s.pc else s.pc + 8)
            ∧ (∀ q ∈ t.grp.pends, q.queued = true) ∧ ∀ x, t.rb x = (s.quiesce s.focus).rb x)
        ∧ (s.grp.ctl = true → (t.core (coreOf s.focus)).faulted = true ∧ ∀ x, t.rb x = (if re = true then s else s.performAll s.focus).rb x))

/-- O15. (06 R172). The scalar arithmetic, on the registers read at issue. -/
def Obligations.ScalarArithmetic : Prop :=
  ∀ (s : State) (pk : Bool) (d a : Nat) (b : SSrc),
    let x := s.tick.rs a
    let y := s.tick.ssrc b
    (s.Issues (.sadd pk d a b) → WritesScalar s pk d (BitVec.ofNat 64 (x.toNat + y.toNat)) (exec (.sadd pk d a b) s))
      ∧ (s.Issues (.ssub pk d a b) → WritesScalar s pk d (BitVec.ofInt 64 ((x.toNat : Int) - y.toNat)) (exec (.ssub pk d a b) s))
      ∧ (s.Issues (.smul pk d a b) → WritesScalar s pk d (BitVec.ofNat 64 (x.toNat * y.toNat)) (exec (.smul pk d a b) s))
      ∧ (s.Issues (.smulh pk d a b) → WritesScalar s pk d (BitVec.ofInt 64 (x.toInt * y.toInt / (2 ^ 64 : Nat))) (exec (.smulh pk d a b) s))
      ∧ (s.Issues (.smulhu pk d a b) → WritesScalar s pk d (BitVec.ofNat 64 (x.toNat * y.toNat / 2 ^ 64)) (exec (.smulhu pk d a b) s))
      ∧ (s.Issues (.sand pk d a b) → WritesScalar s pk d (x &&& y) (exec (.sand pk d a b) s))
      ∧ (s.Issues (.sor pk d a b) → WritesScalar s pk d (x ||| y) (exec (.sor pk d a b) s))
      ∧ (s.Issues (.sxor pk d a b) → WritesScalar s pk d (x ^^^ y) (exec (.sxor pk d a b) s))
      ∧ (s.Issues (.sandn pk d a b) → WritesScalar s pk d (x &&& ~~~y) (exec (.sandn pk d a b) s))
      ∧ (s.Issues (.sshl pk d a b) → WritesScalar s pk d (BitVec.ofNat 64 (x.toNat * 2 ^ min y.toNat 64)) (exec (.sshl pk d a b) s))
      ∧ (s.Issues (.sshr pk d a b) → WritesScalar s pk d (BitVec.ofNat 64 (x.toNat / 2 ^ min y.toNat 64)) (exec (.sshr pk d a b) s))
      ∧ (s.Issues (.ssra pk d a b) → WritesScalar s pk d (BitVec.ofInt 64 (x.toInt / (2 ^ min y.toNat 64 : Nat))) (exec (.ssra pk d a b) s))
      ∧ (s.Issues (.smin pk d a b) → WritesScalar s pk d (BitVec.ofInt 64 (min x.toInt y.toInt)) (exec (.smin pk d a b) s))
      ∧ (s.Issues (.smax pk d a b) → WritesScalar s pk d (BitVec.ofInt 64 (max x.toInt y.toInt)) (exec (.smax pk d a b) s))
      ∧ (s.Issues (.sminu pk d a b) → WritesScalar s pk d (BitVec.ofNat 64 (min x.toNat y.toNat)) (exec (.sminu pk d a b) s))
      ∧ (s.Issues (.smaxu pk d a b) → WritesScalar s pk d (BitVec.ofNat 64 (max x.toNat y.toNat)) (exec (.smaxu pk d a b) s))

/-- O16. (06 R173 to R175). The other scalar words: set, select, move, immediates, bit fields and counts. -/
def Obligations.ScalarMoves : Prop :=
  ∀ (s : State) (pk sx : Bool) (d a b c pos len : Nat) (cc : ICond) (k : BitVec 40) (m : BitVec 32),
    let x := s.tick.rs a
    (s.Issues (.sset pk d a b cc) → WritesScalar s pk d (if icond cc x (s.tick.rs b) then 1 else 0) (exec (.sset pk d a b cc) s))
      ∧ (s.Issues (.ssel pk d a b c) → WritesScalar s pk d (if s.tick.rs c ≠ 0 then x else s.tick.rs b) (exec (.ssel pk d a b c) s))
      ∧ (s.Issues (.smov pk d a) → WritesScalar s pk d x (exec (.smov pk d a) s))
      ∧ (s.Issues (.sli pk d k) → WritesScalar s pk d (BitVec.ofInt 64 k.toInt) (exec (.sli pk d k) s))
      ∧ (s.Issues (.slih pk d m) →
          WritesScalar s pk d (BitVec.ofNat 64 (m.toNat * 2 ^ 32 + (s.tick.rs d).toNat % 2 ^ 32)) (exec (.slih pk d m) s))
      ∧ (s.Issues (.sbfx pk d a pos len sx) →
          WritesScalar s pk d (if sx then BitVec.ofInt 64 (sxInt len (x.toNat / 2 ^ pos)) else BitVec.ofNat 64 (x.toNat / 2 ^ pos % 2 ^ len))
            (exec (.sbfx pk d a pos len sx) s))
      ∧ (s.Issues (.sclz pk d a) → WritesScalar s pk d (BitVec.ofNat 64 (if x = 0 then 64 else 63 - x.toNat.log2)) (exec (.sclz pk d a) s))
      ∧ (s.Issues (.spopc pk d a) →
          WritesScalar s pk d (BitVec.ofNat 64 ((List.range 64).filter fun i => x.getLsbD i).length) (exec (.spopc pk d a) s))

/-- O17. (02 R53 to R56, 06 R176). The special registers: `srd` to a scalar or to lanes, `swr` of FPS. Reading CYC (index 8) gives the die's counter
at some clk from the issue on (log entry 7), never less than the path's last reading, and notes the value; GSQ is the number at the issue (log
entry 72), of a control group without a partition that of partition 0 (log entry 54). -/
def Obligations.SpecialRegisters : Prop :=
  ∀ (s : State) (pk : Bool) (d a idx : Nat) (v : W64),
    let g := s.grp
    let num (n : Nat) : W64 := BitVec.ofNat 64 n
    let values : List (Nat × W64) :=
      [(1, num g.gid), (2, num g.rank), (3, num g.cx), (4, num g.cy), (5, num g.cz), (6, g.gsh0), (7, g.gsh1),
       (9, num (s.part (if g.ctl = true then ((s.die (dieOf g.core)).part).getD 0 else g.part)).gsq), (10, g.fps), (11, num g.rsd)]
    let cyc := max s.pth.lastCyc (s.cycOf s.focus + Config.cycDelay (s.fresh + 1))
    ((idx, v) ∈ values → s.Issues (.srd pk d idx) → WritesScalar s pk d v (exec (.srd pk d idx) s))
      ∧ (s.Issues (.srd pk d 8) → Completes (exec (.srd pk d 8) s) fun t =>
          s.Elsewhere t ∧ t.grp = { g with sreg := t.grp.sreg, obs := g.obsAs t.grp, p0 := t.grp.p0, p1 := t.grp.p1 }
            ∧ t.grp.sraw s.fpath d = (if d = 127 then num cyc &&& s.pth.owned else num cyc)
            ∧ (∀ n, n ≠ d → t.grp.sraw s.fpath n = g.sraw s.fpath n)
            ∧ t.pth = { s.pth with pc := s.pc + 8, park := pk, mask := t.pth.mask, lastCyc := cyc }
            ∧ t.grp.path (1 - s.fpath) = g.path (1 - s.fpath))
      ∧ (s.Issues (.srdVector pk d 0) → WritesVector s pk d s.am (fun l => BitVec.ofNat 32 l) (exec (.srdVector pk d 0) s))
      ∧ ((idx, v) ∈ values → s.Issues (.srdVector pk d idx) → WritesVector s pk d s.am (fun _ => v.setWidth 32) (exec (.srdVector pk d idx) s))
      ∧ (s.Issues (.srdVector pk d 8) → Completes (exec (.srdVector pk d 8) s) fun t =>
          s.Elsewhere t ∧ t.grp = { g with vreg := t.grp.vreg, obs := g.obsAs t.grp, p0 := t.grp.p0, p1 := t.grp.p1 }
            ∧ (∀ l, l < 64 → t.grp.lane d l = if mbit s.am l then (num cyc).setWidth 32 else g.lane d l)
            ∧ (∀ n l, n ≠ d → l < 64 → t.grp.lane n l = g.lane n l)
            ∧ t.pth = { s.pth with pc := s.pc + 8, park := pk, lastCyc := cyc }
            ∧ t.grp.path (1 - s.fpath) = g.path (1 - s.fpath))
      ∧ (s.Issues (.swr pk 10 a) → Completes (exec (.swr pk 10 a) s) fun t =>
          s.Elsewhere t ∧ s.Goes t (s.pc + 8) pk []
            ∧ t.grp = { g with fps := s.tick.rs a &&& 0x3f3f#64, p0 := t.grp.p0, p1 := t.grp.p1 })

/-- O18. (06 R203). `swc` takes a value into `sc`; one with a reserved bit, EW = 3, PSEL of 12 or more or a step that is no multiple of 4 raises ILI
with reason 12 and leaves `sc` unchanged. -/
def Obligations.SweepControl : Prop :=
  ∀ (s : State) (pk : Bool) (a : Nat), s.Issues (.swc pk a) →
    let v := (s.tick.rs a).toNat
    let good := bits v 55 1 = 0 ∧ bits v 61 3 = 0 ∧ bits v 50 2 ≠ 3 ∧ bits v 56 4 < 12 ∧ bits v 0 16 % 4 = 0 ∧ bits v 16 16 % 4 = 0
      ∧ bits v 32 16 % 4 = 0
    (good → Completes (exec (.swc pk a) s) fun t =>
        s.Elsewhere t ∧ s.Goes t (s.pc + 8) pk [] ∧ t.grp = { s.grp with sc := s.tick.rs a, p0 := t.grp.p0, p1 := t.grp.p1 })
      ∧ (¬ good → exec (.swc pk a) s = .next (s.sysTrapped (.swc pk a) { cause := 1, reason := 12 })
          ∧ (s.sysTrapped (.swc pk a) { cause := 1, reason := 12 }).grp.sc = s.grp.sc)

/-- O19. (06 R178, R179, R181, R182). Branches, `ret`, `yield` and `nop` move their path to an address and change nothing else. (06 R181). `call`
writes the return address and goes on at its target; an indirect target is read before the link is written. -/
def Obligations.BranchesAndCalls : Prop :=
  (∀ (s : State) (pk : Bool) (a p : Nat) (off : BitVec 23),
      let dest := s.pc + 8 * off.signExtend 64
      let next := s.pc + 8
      (s.Issues (.br pk off) → OnlyGoes s pk dest (exec (.br pk off) s))
        ∧ (s.Issues (.brIndirect pk a) → OnlyGoes s pk (s.tick.rs a &&& ~~~7#64) (exec (.brIndirect pk a) s))
        ∧ (s.Issues (.bz pk a off) → OnlyGoes s pk (if s.tick.rs a = 0 then dest else next) (exec (.bz pk a off) s))
        ∧ (s.Issues (.bnz pk a off) → OnlyGoes s pk (if s.tick.rs a = 0 then next else dest) (exec (.bnz pk a off) s))
        ∧ (s.Issues (.bany pk p off) → OnlyGoes s pk (if s.tick.rpm p &&& s.am = 0 then next else dest) (exec (.bany pk p off) s))
        ∧ (s.Issues (.ball pk p off) → OnlyGoes s pk (if s.tick.rpm p &&& s.am = s.am then dest else next) (exec (.ball pk p off) s))
        ∧ (s.Issues (.ret pk a) → OnlyGoes s pk (s.tick.rs a &&& ~~~7#64) (exec (.ret pk a) s))
        ∧ (s.Issues (.yield pk) → OnlyGoes s pk next (exec (.yield pk) s))
        ∧ (s.Issues (.nop pk) → OnlyGoes s pk next (exec (.nop pk) s)))
    ∧ (∀ (s : State) (pk : Bool) (d a : Nat) (off : BitVec 23),
      (s.Issues (.call pk d off) → WritesScalarAndGoes s pk (s.pc + 8 * off.signExtend 64) d (s.pc + 8) (exec (.call pk d off) s))
        ∧ (s.Issues (.callIndirect pk d a) → WritesScalarAndGoes s pk (s.tick.rs a &&& ~~~7#64) d (s.pc + 8) (exec (.callIndirect pk d a) s)))

/-- O20. (01 R33). `brd`: with no lane falling through it branches; with none branching it goes on; otherwise a free other slot (never in the control
group, which has one path, 13 R370) takes the branching lanes, and without one the entry pushed on the stack keeps the others; a full stack
traps. (01 R34). `join`: the first arrival at a stack entry runs the other lanes, the second restores the mask, both within the lanes that the
path owns now (log entry 42); with an empty stack it goes on alone, parks, or merges with the parked path, whose part of a handler it takes over
(log entry 93); a PC other than the noted one traps. -/
def Obligations.DivergenceAndJoin : Prop :=
  (∀ (s : State) (pk : Bool) (p : Nat) (off : BitVec 23), s.Issues (.brd pk p off) →
      let t := s.am &&& s.tick.rpm p
      let n := s.am &&& ~~~(s.tick.rpm p)
      let dest := s.pc + 8 * off.signExtend 64
      (n = 0 → OnlyGoes s pk dest (exec (.brd pk p off) s))
        ∧ (n ≠ 0 → t = 0 → OnlyGoes s pk (s.pc + 8) (exec (.brd pk p off) s))
        ∧ (n ≠ 0 → t ≠ 0 → (s.grp.path (1 - s.fpath)).st = .free → s.grp.ctl = false → Completes (exec (.brd pk p off) s) fun u =>
            s.Elsewhere u ∧ u.grp = { s.grp with p0 := u.grp.p0, p1 := u.grp.p1 }
              ∧ u.pth = { s.pth with pc := s.pc + 8, park := pk, mask := n, owned := s.pth.owned &&& ~~~t }
              ∧ u.grp.path (1 - s.fpath) = { Path.idle with pc := dest, mask := t, owned := t, st := .ready })
        ∧ (n ≠ 0 → t ≠ 0 → ((s.grp.path (1 - s.fpath)).st ≠ .free ∨ s.grp.ctl = true) → s.pth.stack.length < 8 →
            Completes (exec (.brd pk p off) s) fun u =>
              s.Elsewhere u ∧ u.grp = { s.grp with p0 := u.grp.p0, p1 := u.grp.p1 }
                ∧ u.pth = { s.pth with pc := dest, park := pk, mask := t, stack := ⟨s.pc + 8, n, s.am, none, false⟩ :: s.pth.stack }
                ∧ u.grp.path (1 - s.fpath) = s.grp.path (1 - s.fpath))
        ∧ (n ≠ 0 → t ≠ 0 → ((s.grp.path (1 - s.fpath)).st ≠ .free ∨ s.grp.ctl = true) → 8 ≤ s.pth.stack.length →
            exec (.brd pk p off) s = .next (s.sysTrapped (.brd pk p off) { cause := 4, reason := 1 })))
    ∧ (∀ (s : State) (pk : Bool) (e : StackEnt) (r : List StackEnt), s.Issues (.join pk) →
      (s.pth.stack = e :: r → e.second = false → Completes (exec (.join pk) s) fun u =>
          s.Elsewhere u ∧ u.pth = { s.pth with pc := e.rpc, park := pk, mask := e.rmask &&& s.pth.owned,
                                               stack := { e with jpc := some s.pc, second := true } :: r }
            ∧ u.grp = { s.grp with p0 := u.grp.p0, p1 := u.grp.p1 } ∧ u.grp.path (1 - s.fpath) = s.grp.path (1 - s.fpath))
        ∧ (s.pth.stack = e :: r → e.second = true → (e.jpc = none ∨ e.jpc = some s.pc) → Completes (exec (.join pk) s) fun u =>
            s.Elsewhere u ∧ u.pth = { s.pth with pc := s.pc + 8, park := pk, mask := e.full &&& s.pth.owned, stack := r }
              ∧ u.grp = { s.grp with p0 := u.grp.p0, p1 := u.grp.p1 } ∧ u.grp.path (1 - s.fpath) = s.grp.path (1 - s.fpath))
        ∧ (s.pth.stack = [] → (s.grp.path (1 - s.fpath)).st = .free → OnlyGoes s pk (s.pc + 8) (exec (.join pk) s))
        ∧ (s.pth.stack = [] → (s.grp.path (1 - s.fpath)).st = .parked → s.pc = (s.grp.path (1 - s.fpath)).jpc →
            Completes (exec (.join pk) s) fun u =>
              s.Elsewhere u ∧ u.grp.path (1 - s.fpath) = Path.idle
                ∧ u.grp = { s.grp with hpath := if s.grp.hpath = 1 - s.fpath then s.fpath else s.grp.hpath, p0 := u.grp.p0, p1 := u.grp.p1 }
                ∧ u.pth = { s.pth with pc := s.pc + 8, park := pk, owned := s.pth.owned ||| (s.grp.path (1 - s.fpath)).owned,
                                       mask := s.pth.mask ||| (s.grp.path (1 - s.fpath)).mask,
                                       pend := s.pth.pend ++ (s.grp.path (1 - s.fpath)).pend.filter fun q => match q.res with
                                         | .s d _ | .q _ .s d => decide (d ≠ 127)
                                         | _ => true })
        ∧ (s.pth.stack = e :: r → e.second = true → e.jpc ≠ none → e.jpc ≠ some s.pc →
            exec (.join pk) s = .next (s.sysTrapped (.join pk) { cause := 4, reason := 2 }))
        ∧ (s.pth.stack = [] → (s.grp.path (1 - s.fpath)).st = .parked → s.pc ≠ (s.grp.path (1 - s.fpath)).jpc →
            exec (.join pk) s = .next (s.sysTrapped (.join pk) { cause := 4, reason := 2 }))
        ∧ (s.pth.stack = [] → (s.grp.path (1 - s.fpath)).st ≠ .free → (s.grp.path (1 - s.fpath)).st ≠ .parked →
            Completes (exec (.join pk) s) fun u =>
              s.Elsewhere u ∧ u.grp = { s.grp with p0 := u.grp.p0, p1 := u.grp.p1 } ∧ u.pth = { s.pth with park := pk, jpc := s.pc, st := .parked }
                ∧ u.grp.path (1 - s.fpath) = s.grp.path (1 - s.fpath)))

/-- O21. (01 R25, R35, R40). `exit` in a read section traps. With an entry on the stack whose other lanes have not run, they run; with one that has
noted a `join` and has lanes left, they go on past it; an entry without lanes left is passed over. With an empty stack the path's slot is free
and its outstanding results stay the group's; a parked other path goes on past its `join`; the handling path's end is the handler's. The lanes
that end, and those that the path does not own, go out of every entry of the stack (log entry 42). A user group whose last path ends with no
result outstanding ends: its slot is free, and its pending accesses are performed. (06 R183, 01 R38 to R41). `brk` is the user trap BRK with its
number, or UTR where it cannot be delivered; `tret` returns from a user trap with the mask of s124 within the owned set, past the word unless the
cause re-executes, and releases the other path; outside a handler it traps. Beside a sweep whose end may raise ARI, a `brk` waits for it (log
entry 83). -/
def Obligations.ExitAndReturn : Prop :=
  (∀ (s : State) (pk : Bool) (e : StackEnt) (r : List StackEnt), s.Issues (.exit pk) →
      let g := s.grp
      let q := s.pth
      let o := g.path (1 - s.fpath)
      let ends : Bool := decide (g.uhc ≠ 0 ∧ g.hpath = s.fpath)
      let freed : Path := if ends = true then { o with held := false } else o
      let other : Path := if o.st = .parked then { freed with st := .ready, pc := o.jpc + 8 } else freed
      let gone := q.mask ||| ~~~q.owned
      let runs (m : Mask) (pc : W64) (x : Mask) (st : List StackEnt) : Prop := Completes (exec (.exit pk) s) fun u =>
        s.Elsewhere u ∧ u.grp = { g with uhc := if ends = true then 0 else g.uhc, p0 := u.grp.p0, p1 := u.grp.p1 }
          ∧ u.pth = { q with pc := pc, park := pk, mask := m, stack := st, owned := q.owned &&& ~~~x } ∧ u.grp.path (1 - s.fpath) = freed
      (0 < g.rsd → exec (.exit pk) s = .next (s.sysTrapped (.exit pk) { cause := 4, reason := 3 }))
        ∧ (g.rsd = 0 → q.stack = e :: r → e.second = false →
            runs (e.rmask &&& ~~~gone) e.rpc gone ({ e with full := e.full &&& ~~~gone, second := true } :: r))
        ∧ (∀ j, g.rsd = 0 → q.stack = e :: r → e.second = true → e.jpc = some j → e.full &&& ~~~gone ≠ 0#64 →
            runs (e.full &&& ~~~gone) (j + 8) gone r)
        ∧ (∀ m pc st x, g.rsd = 0 → q.stack = e :: r → e.second = true → (e.jpc = none ∨ e.full &&& ~~~gone = 0#64) →
            exitUnwind (gone ||| (e.full &&& ~~~gone)) r = some (m, pc, st, x) → runs m pc x st)
        ∧ (g.rsd = 0 → exitUnwind gone q.stack = none → (o.st ≠ .free ∨ g.ctl = true ∨ g.pends ≠ []) → Completes (exec (.exit pk) s) fun u =>
            s.Elsewhere u ∧ u.pth = { Path.idle with park := pk } ∧ u.grp.path (1 - s.fpath) = other
              ∧ u.grp = { g with uhc := if ends = true then 0 else g.uhc, orph := g.orph ++ q.pend, p0 := u.grp.p0, p1 := u.grp.p1 })
        ∧ (exitUnwind gone [] = none)
        ∧ (g.rsd = 0 → exitUnwind gone q.stack = none → o.st = .free → g.ctl = false → g.pends = [] → Completes (exec (.exit pk) s) fun u =>
            tfind? u.groups s.focus = none ∧ s.OtherGroups u ∧ (∀ pa, u.rb (.gpa pa) = (s.performAll s.focus).rb (.gpa pa))
              ∧ (u.core (coreOf s.focus)).preq.testBit (slotOf s.focus) = false
              ∧ ((tfind? s.teams g.team).isSome = true → (s.team g.team).ended.length + 1 < (s.team g.team).tg →
                  (u.team g.team).ended = (s.team g.team).ended ++ [g.gid])))
    ∧ (∀ (s : State) (pk : Bool) (k : BitVec 16),
      let b := (s.setGrp (s.grp.landOwn s.fpath)).performAll s.focus
      let g := b.grp
      let later : Bool := s.grp.sweeps && decide (s.grp.fps.toNat / 2 ^ 8 % 2 ^ 6 ≠ 0)
      (s.Issues (.brk pk k) → s.grp.hpc ≠ 0 → s.grp.uhc = 0 → later = false → Completes (exec (.brk pk k) s) fun t =>
          b.Elsewhere t ∧ t.pc = s.grp.hpc ∧ t.am = (g.path s.fpath).mask
            ∧ t.grp = { g with sreg := t.grp.sreg, uhc := 4, hpath := s.fpath, orph := t.grp.orph, p0 := t.grp.p0, p1 := t.grp.p1 }
            ∧ tget 0#64 t.grp.sreg 120 = s.pc ∧ tget 0#64 t.grp.sreg 121 = 4 ∧ tget 0#64 t.grp.sreg 122 = BitVec.ofNat 64 k.toNat
            ∧ tget 0#64 t.grp.sreg 123 = 0 ∧ tget 0#64 t.grp.sreg 124 = (g.path s.fpath).mask
            ∧ ∀ n, ¬ (120 ≤ n ∧ n ≤ 125) → tget 0#64 t.grp.sreg n = tget 0#64 g.sreg n)
        ∧ (s.Issues (.brk pk k) → s.grp.hpc ≠ 0 → s.grp.uhc = 0 → later = true → exec (.brk pk k) s = .next s)
        ∧ ((∀ q ∈ s.pth.pend, q.tpc ≠ s.pc) → s.grp.sbuf = [] → g = s.grp ∧ ∀ x, b.rb x = s.rb x)
        ∧ (s.Issues (.brk pk k) → (s.grp.hpc = 0 ∨ s.grp.uhc ≠ 0) →
            exec (.brk pk k) s = .next (s.userTrapped (.brk pk k) 4 (k.setWidth 64) 0 false s.tick))
        ∧ (s.Issues (.tret pk) → s.grp.uhc ≠ 0 → Completes (exec (.tret pk) s) fun t =>
            s.Elsewhere t ∧ t.grp = { s.grp with uhc := 0, p0 := t.grp.p0, p1 := t.grp.p1 }
              ∧ t.pth = { s.pth with park := pk, mask := s.tick.rs 124 &&& s.pth.owned,
                                     pc := (s.tick.rs 120 &&& ~~~7#64) + (if s.grp.uhc = 1 then 0 else 8) }
              ∧ t.grp.path (1 - s.fpath) = { s.grp.path (1 - s.fpath) with held := false })
        ∧ (s.Issues (.tret pk) → s.grp.uhc = 0 → exec (.tret pk) s = .next (s.sysTrapped (.tret pk) { cause := 4, reason := 4 })))

/-- O22. (06 R168, R169, R184, R187 to R190). The vector integer words that raise no flag: in every lane of the effective mask each element takes the
operation of its sources; other lanes, other registers and FPS keep their values. -/
def Obligations.VectorInteger : Prop :=
  ∀ (s : State) (h : Hdr) (wd : Width) (d a : Nat) (b : VSrc),
    let e := wbits wd
    let em := s.tick.em h
    let on (f : Nat → Nat → Nat) : Nat → W32 := fun l => ofElems e fun j => f (elem e (s.tick.rv a l) j) (elem e (s.tick.vsrc e b l) j)
    let sh (f : Nat → Nat → Nat) : Nat → W32 := fun l => ofElems e fun j => f (elem e (s.tick.rv a l) j) (elem e (s.tick.vzsrc e b l) j)
    let of (f : Nat → Nat) : Nat → W32 := fun l => ofElems e fun j => f (elem e (s.tick.rv a l) j)
    (s.Issues (.vadd h wd d a b) → WritesVector s h.pk d em (on fun x y => (x + y) % 2 ^ e) (exec (.vadd h wd d a b) s))
      ∧ (s.Issues (.vsub h wd d a b) → WritesVector s h.pk d em (on fun x y => modInt e ((x : Int) - y)) (exec (.vsub h wd d a b) s))
      ∧ (s.Issues (.vmul h wd d a b) → WritesVector s h.pk d em (on fun x y => x * y % 2 ^ e) (exec (.vmul h wd d a b) s))
      ∧ (s.Issues (.vmulh h wd d a b) →
          WritesVector s h.pk d em (on fun x y => modInt e (sxInt e x * sxInt e y / (2 ^ e : Nat))) (exec (.vmulh h wd d a b) s))
      ∧ (s.Issues (.vmulhu h wd d a b) → WritesVector s h.pk d em (on fun x y => x * y / 2 ^ e) (exec (.vmulhu h wd d a b) s))
      ∧ (s.Issues (.vshl h wd d a b) → WritesVector s h.pk d em (sh fun x n => x * 2 ^ min n e % 2 ^ e) (exec (.vshl h wd d a b) s))
      ∧ (s.Issues (.vshr h wd d a b) → WritesVector s h.pk d em (sh fun x n => x / 2 ^ min n e) (exec (.vshr h wd d a b) s))
      ∧ (s.Issues (.vsra h wd d a b) →
          WritesVector s h.pk d em (sh fun x n => modInt e (sxInt e x / (2 ^ min n e : Nat))) (exec (.vsra h wd d a b) s))
      ∧ (s.Issues (.vmin h wd d a b) → WritesVector s h.pk d em (on fun x y => modInt e (min (sxInt e x) (sxInt e y))) (exec (.vmin h wd d a b) s))
      ∧ (s.Issues (.vmax h wd d a b) → WritesVector s h.pk d em (on fun x y => modInt e (max (sxInt e x) (sxInt e y))) (exec (.vmax h wd d a b) s))
      ∧ (s.Issues (.vminu h wd d a b) → WritesVector s h.pk d em (on min) (exec (.vminu h wd d a b) s))
      ∧ (s.Issues (.vmaxu h wd d a b) → WritesVector s h.pk d em (on max) (exec (.vmaxu h wd d a b) s))
      ∧ (s.Issues (.vclz h wd d a) → WritesVector s h.pk d em (of fun x => if x = 0 then e else e - 1 - x.log2) (exec (.vclz h wd d a) s))
      ∧ (s.Issues (.vpopc h wd d a) →
          WritesVector s h.pk d em (of fun x => ((List.range e).filter fun i => x.testBit i).length) (exec (.vpopc h wd d a) s))
      ∧ (s.Issues (.vbrev h wd d a) → WritesVector s h.pk d em
          (of fun x => ((List.range e).map fun i => if x.testBit i then 2 ^ (e - 1 - i) else 0).sum) (exec (.vbrev h wd d a) s))

/-- O23. (06 R184, R187 to R190). The vector words on whole 32-bit values: multiply-add, logic, select, bit fields, funnel shift, moves. (06 R185,
R191, 02 R56). The vector integer words that may clamp: FPS gathers SAT; an enabled SAT is the case of EnabledFlagTraps. -/
def Obligations.VectorWholeWords : Prop :=
  (∀ (s : State) (h : Hdr) (sx : Bool) (d a b c p : Nat) (y : VSrc) (k : BitVec 32),
      let em := s.tick.em h
      let x := s.tick.rv a
      let z := s.tick.rv b
      (s.Issues (.vmad h d a b c) → WritesVector s h.pk d em (fun l => x l * z l + s.tick.rv c l) (exec (.vmad h d a b c) s))
        ∧ (s.Issues (.vand h d a y) → WritesVector s h.pk d em (fun l => x l &&& s.tick.vsrc 32 y l) (exec (.vand h d a y) s))
        ∧ (s.Issues (.vor h d a y) → WritesVector s h.pk d em (fun l => x l ||| s.tick.vsrc 32 y l) (exec (.vor h d a y) s))
        ∧ (s.Issues (.vxor h d a y) → WritesVector s h.pk d em (fun l => x l ^^^ s.tick.vsrc 32 y l) (exec (.vxor h d a y) s))
        ∧ (s.Issues (.vandn h d a y) → WritesVector s h.pk d em (fun l => x l &&& ~~~(s.tick.vsrc 32 y l)) (exec (.vandn h d a y) s))
        ∧ (s.Issues (.vsel h d a b p) → WritesVector s h.pk d em (fun l => if s.tick.rp p l then x l else z l) (exec (.vsel h d a b p) s))
        ∧ (s.Issues (.vbfx h sx d a b) → WritesVector s h.pk d em
            (fun l =>
              let pos := (z l).toNat % 32
              let n := min ((z l).toNat / 256 % 64) (32 - pos)
              if n = 0 then 0
              else if sx then BitVec.ofInt 32 (sxInt n ((x l).toNat / 2 ^ pos)) else BitVec.ofNat 32 ((x l).toNat / 2 ^ pos % 2 ^ n))
            (exec (.vbfx h sx d a b) s))
        ∧ (s.Issues (.vbfi h d a b) → WritesVector s h.pk d em
            (fun l =>
              let pos := (z l).toNat % 32
              let n := min ((z l).toNat / 256 % 64) (32 - pos)
              let m : W32 := BitVec.ofNat 32 (2 ^ (pos + n) - 2 ^ pos)
              (s.tick.rv d l &&& ~~~m) ||| ((x l <<< pos) &&& m))
            (exec (.vbfi h d a b) s))
        ∧ (s.Issues (.vfsh h d a b c) → WritesVector s h.pk d em
            (fun l => BitVec.ofNat 32 (((x l).toNat * 2 ^ 32 + (z l).toNat) / 2 ^ ((s.tick.rv c l).toNat % 32))) (exec (.vfsh h d a b c) s))
        ∧ (s.Issues (.vmov h d a) → WritesVector s h.pk d em x (exec (.vmov h d a) s))
        ∧ (s.Issues (.vli h d k) → WritesVector s h.pk d em (fun _ => k) (exec (.vli h d k) s)))
    ∧ (∀ (s : State) (h : Hdr) (wd : Width) (sx st : Bool) (d a b c : Nat) (y : VSrc),
      let e := wbits wd
      let em := s.tick.em h
      let sat (f : Nat → Nat → Int) : Nat → W32 × FFlags := fun l =>
        (ofElems e fun j => (clampElem e sx (f (elem e (s.tick.rv a l) j) (elem e (s.tick.vsrc e y l) j))).1,
         satFlag ((List.range (32 / e)).any fun j => (clampElem e sx (f (elem e (s.tick.rv a l) j) (elem e (s.tick.vsrc e y l) j))).2))
      let num (x : Nat) : Int := if sx then sxInt e x else (x : Int)
      let quiet (f : Nat → W32 × FFlags) : Prop := s.grp.enabled (orFlags ((lanesOf em).map fun l => (f l).2)) = 0#6
      (s.Issues (.vadds h wd sx d a y) → quiet (sat fun x z => num x + num z) →
          WritesVectorFlags s h.pk d em (sat fun x z => num x + num z) (exec (.vadds h wd sx d a y) s))
        ∧ (s.Issues (.vsubs h wd sx d a y) → quiet (sat fun x z => num x - num z) →
            WritesVectorFlags s h.pk d em (sat fun x z => num x - num z) (exec (.vsubs h wd sx d a y) s))
        ∧ (s.Issues (.vabs h wd st d a) → quiet (fun l => laneAbs e st (s.tick.rv a l) (s.tick.rv a l) (s.tick.rv a l)) →
            WritesVectorFlags s h.pk d em (fun l => laneAbs e st (s.tick.rv a l) (s.tick.rv a l) (s.tick.rv a l)) (exec (.vabs h wd st d a) s))
        ∧ (s.Issues (.vdp4 h sx st d a b c) → quiet (fun l => laneDp4 sx st (s.tick.rv a l) (s.tick.rv b l) (s.tick.rv c l)) →
            WritesVectorFlags s h.pk d em (fun l => laneDp4 sx st (s.tick.rv a l) (s.tick.rv b l) (s.tick.rv c l)) (exec (.vdp4 h sx st d a b c) s)))

/-- O24. (02 R56, 01 R38, R39). A vector word that raises an enabled flag writes its results, those of class x too, and gathers its flags, and then
raises the user trap ARI with the flags and the lanes, the group's pending accesses performed; shown for `fadd`, `vadds`, `q8mul`, `frcp` and
`vred`. Without a handler, or inside one, it is UTR. Beside a sweep, whose end may raise ARI too, it waits (log entry 83). No earlier word at the
same address has results outstanding: such a word writes the register again and waits (02 R74). -/
def Obligations.EnabledFlagTraps : Prop :=
  ∀ (s : State) (h : Hdr) (st e5 sx : Bool) (rm : Rnd) (wd : Width) (d a b : Nat) (y : VSrc) (op : ROp), (∀ q ∈ s.pth.pend, q.tpc ≠ s.pc) →
    let em := s.tick.em h
    let raised (i : Instr) (fl : FFlags) (lanes : Nat → Bool) (q : State → Prop) : Prop :=
      s.Issues i → s.grp.enabled fl ≠ 0#6 → s.grp.hpc ≠ 0 → s.grp.uhc = 0 → (s.grp.sweeps = true → exec i s = .next s) ∧
        (s.grp.sweeps = false → Completes (exec i s) fun t =>
        (s.performAll s.focus).Elsewhere t ∧ t.pc = s.grp.hpc ∧ tget 0#64 t.grp.sreg 120 = s.pc ∧ tget 0#64 t.grp.sreg 121 = 3
          ∧ tget 0#64 t.grp.sreg 122 = BitVec.ofNat 64 fl.toNat ∧ (∀ l, l < 64 → mbit (tget 0#64 t.grp.sreg 123) l = lanes l)
          ∧ t.grp.preg = s.grp.preg ∧ t.grp.fps = s.grp.fps ||| BitVec.ofNat 64 fl.toNat ∧ q t)
    let traps (i : Instr) (f : Nat → W32 × FFlags) : Prop :=
      let fl := orFlags ((lanesOf em).map fun l => (f l).2)
      raised i fl (fun l => mbit em l && decide (s.grp.enabled (f l).2 ≠ 0#6)) (fun t =>
          (∀ l, l < 64 → t.grp.lane d l = if mbit em l then (f l).1 else s.grp.lane d l)
            ∧ ∀ n l, n ≠ d → l < 64 → t.grp.lane n l = s.grp.lane n l)
        ∧ (s.Issues i → s.grp.enabled fl ≠ 0#6 → (s.grp.hpc = 0 ∨ s.grp.uhc ≠ 0) → s.grp.ctl = false → s.grp.sweeps = false →
            Completes (exec i s) fun t => t.grp.stopped = true ∧ (t.grp.path s.fpath).pc = s.pc + 8
              ∧ (t.grp.trap.map fun r => (r.cause, r.ucause, r.tpc, r.info0)) = some (7, 3, s.pc, BitVec.ofNat 64 fl.toNat)
              ∧ (s.grp.tileq = [] → (∀ q ∈ s.grp.pends, ∀ x, q.res ≠ .v d x) → ∀ l, l < 64 → mbit em l = true → t.grp.lane d l = (f l).1))
    traps (.fadd h st rm d a b) (fun l => laneF rm st (fvAdd rm) (s.tick.rv a l) (s.tick.rv b l) (s.tick.rv b l))
      ∧ traps (.vadds h wd sx d a y) (fun l => laneAdds (wbits wd) sx (s.tick.rv a l) (s.tick.vsrc (wbits wd) y l) 0)
      ∧ traps (.q8mul h st rm e5 d a b) (fun l => laneSub (q8fmt e5) rm st fvMul (s.tick.rv a l) (s.tick.rv b l) (s.tick.rv b l))
      ∧ traps (.frcp h d a) (fun l => frcp32 (s.tick.rv a l))
      ∧ (d < 120 → raised (.vred h d a op) (s.tick.red op a em).2 (fun l => mbit em l) fun t =>
          tget 0#64 t.grp.sreg d = BitVec.ofNat 64 (s.tick.red op a em).1.toNat ∧ t.grp.vreg = s.grp.vreg)

/-- O25. (06 R171, R186, R194). Comparisons of lanes into a predicate register. (06 R218). The predicate words, lane by lane in the effective mask. -/
def Obligations.ComparisonsAndPredicates : Prop :=
  (∀ (s : State) (h : Hdr) (d a b : Nat) (ic : ICond) (fc : FCond),
      (s.Issues (.vcmp h d a b ic) →
          WritesPredicate s h.pk d (s.tick.em h) (fun l => icond ic (s.tick.rv a l) (s.tick.rv b l)) (exec (.vcmp h d a b ic) s))
        ∧ (s.Issues (.fcmp h d a b fc) →
            WritesPredicate s h.pk d (s.tick.em h) (fun l => fcond fc (s.tick.rv a l) (s.tick.rv b l)) (exec (.fcmp h d a b fc) s)))
    ∧ (∀ (s : State) (h : Hdr) (d a b : Nat) (k : Bool),
      let em := s.tick.em h
      let x := fun l => mbit (s.tick.rpm a) l
      let y := fun l => mbit (s.tick.rpm b) l
      (s.Issues (.pand h d a b) → WritesPredicate s h.pk d em (fun l => x l && y l) (exec (.pand h d a b) s))
        ∧ (s.Issues (.por h d a b) → WritesPredicate s h.pk d em (fun l => x l || y l) (exec (.por h d a b) s))
        ∧ (s.Issues (.pxor h d a b) → WritesPredicate s h.pk d em (fun l => x l ^^ y l) (exec (.pxor h d a b) s))
        ∧ (s.Issues (.pnot h d a) → WritesPredicate s h.pk d em (fun l => !x l && decide (l < 64)) (exec (.pnot h d a) s))
        ∧ (s.Issues (.pmov h d a) → WritesPredicate s h.pk d em x (exec (.pmov h d a) s))
        ∧ (s.Issues (.pset h d a) → WritesPredicate s h.pk d em (fun l => mbit (s.tick.rs a) l) (exec (.pset h d a) s))
        ∧ (s.Issues (.psetImm h d k) → WritesPredicate s h.pk d em (fun l => k && decide (l < 64)) (exec (.psetImm h d k) s)))

/-- O26. (06 R193 to R198, 02 R56). FP32 arithmetic and conversions: each lane's result is the exact value rounded once, and FPS gathers the lanes'
flags; an enabled flag is the case of EnabledFlagTraps. -/
def Obligations.FloatArithmetic : Prop :=
  ∀ (s : State) (h : Hdr) (st : Bool) (rm : Rnd) (dty sty : Ty) (k d a b c : Nat),
    let em := s.tick.em h
    let x := s.tick.rv a
    let y := s.tick.rv b
    let val (l : Nat) : FV := dec32 (x l)
    let arg (l : Nat) : FV := dec32 (y l)
    let quiet (f : Nat → W32 × FFlags) : Prop := s.grp.enabled (orFlags ((lanesOf em).map fun l => (f l).2)) = 0#6
    let add := fun l => rnd32 rm st ((val l).add rm (arg l))
    let sub := fun l => rnd32 rm st ((val l).add rm (arg l).neg)
    let mul := fun l => rnd32 rm st ((val l).mul (arg l))
    let fma := fun l => rnd32 rm st (FV.fma rm (val l) (arg l) (dec32 (s.tick.rv c l)))
    (s.Issues (.fadd h st rm d a b) → quiet add → WritesVectorFlags s h.pk d em add (exec (.fadd h st rm d a b) s))
      ∧ (s.Issues (.fsub h st rm d a b) → quiet sub → WritesVectorFlags s h.pk d em sub (exec (.fsub h st rm d a b) s))
      ∧ (s.Issues (.fmul h st rm d a b) → quiet mul → WritesVectorFlags s h.pk d em mul (exec (.fmul h st rm d a b) s))
      ∧ (s.Issues (.ffma h st rm d a b c) → quiet fma → WritesVectorFlags s h.pk d em fma (exec (.ffma h st rm d a b c) s))
      ∧ (s.Issues (.fmin h d a b) → WritesVector s h.pk d em (fun l => (laneMinMax false (x l) (y l) 0).1) (exec (.fmin h d a b) s))
      ∧ (s.Issues (.fmax h d a b) → WritesVector s h.pk d em (fun l => (laneMinMax true (x l) (y l) 0).1) (exec (.fmax h d a b) s))
      ∧ (s.Issues (.fcvt h st rm dty sty d a) → quiet (fun l => writeTy dty rm st (readTy sty (x l).toNat)) →
          WritesVectorFlags s h.pk d em (fun l => writeTy dty rm st (readTy sty (x l).toNat)) (exec (.fcvt h st rm dty sty d a) s))
      ∧ (s.Issues (.fpk h st rm dty k d a b) → quiet (fun l => lanePk st rm dty k (x l) (y l) (s.tick.rv d l)) →
          WritesVectorFlags s h.pk d em (fun l => lanePk st rm dty k (x l) (y l) (s.tick.rv d l)) (exec (.fpk h st rm dty k d a b) s))
      ∧ (s.Issues (.funpk h sty k d a) → WritesVector s h.pk d em (fun l => (laneUnpk sty k (x l) 0 0).1) (exec (.funpk h sty k d a) s))

/-- O27. (06 R200, R201). Packed arithmetic on BF16 pairs and FP8 quadruples, each element rounded once. (06 R195, R199, 02 R72). The transcendental
words and `vhad`: their results are of class x and stay outstanding; FPS gathers the flags. -/
def Obligations.PackedAndTranscendental : Prop :=
  (∀ (s : State) (h : Hdr) (st e5 : Bool) (rm : Rnd) (d a b c : Nat),
      let em := s.tick.em h
      let quiet (f : Nat → W32 × FFlags) : Prop := s.grp.enabled (orFlags ((lanesOf em).map fun l => (f l).2)) = 0#6
      let el (t : Fmt) (r l j : Nat) : FV := t.dec (elem t.width (s.tick.rv r l) j)
      let each (t : Fmt) (f : Nat → Nat → FV × FFlags) : Nat → W32 × FFlags := fun l =>
        (ofElems t.width fun j => (t.roundR rm st (f l j)).1, orFlags ((List.range (32 / t.width)).map fun j => (t.roundR rm st (f l j)).2))
      let add (t : Fmt) := each t fun l j => (el t a l j).add rm (el t b l j)
      let mul (t : Fmt) := each t fun l j => (el t a l j).mul (el t b l j)
      let fma := each bf16 fun l j => FV.fma rm (el bf16 a l j) (el bf16 b l j) (el bf16 c l j)
      (s.Issues (.hadd2 h st rm d a b) → quiet (add bf16) → WritesVectorFlags s h.pk d em (add bf16) (exec (.hadd2 h st rm d a b) s))
        ∧ (s.Issues (.hmul2 h st rm d a b) → quiet (mul bf16) → WritesVectorFlags s h.pk d em (mul bf16) (exec (.hmul2 h st rm d a b) s))
        ∧ (s.Issues (.hfma2 h st rm d a b c) → quiet fma → WritesVectorFlags s h.pk d em fma (exec (.hfma2 h st rm d a b c) s))
        ∧ (s.Issues (.q8add h st rm e5 d a b) → quiet (add (q8fmt e5)) →
            WritesVectorFlags s h.pk d em (add (q8fmt e5)) (exec (.q8add h st rm e5 d a b) s))
        ∧ (s.Issues (.q8mul h st rm e5 d a b) → quiet (mul (q8fmt e5)) →
            WritesVectorFlags s h.pk d em (mul (q8fmt e5)) (exec (.q8mul h st rm e5 d a b) s)))
    ∧ (∀ (s : State) (h : Hdr) (big : Bool) (d a : Nat),
      let em := s.tick.em h
      let x := s.tick.rv a
      let flags (f : Nat → Fl) : FFlags := orFlags ((lanesOf em).map fun l => (f l).2)
      let late (i : Instr) (f : Nat → Fl) : Prop := s.Issues i → s.grp.enabled (flags f) = 0#6 →
        LeavesPending s h.pk (vecPends s .x d ((lanesOf em).map fun l => (l, (f l).1)) (encode i)) (flags f) (exec i s)
      let n := if big then 32 else 16
      let had (l : Nat) : List Fl := hadamard (if big then 5 else 4) 2 ((List.range n).map fun i => (s.tick.rv (a + i) l, 0#6))
      late (.frcp h d a) (fun l => frcp32 (x l)) ∧ late (.frsq h d a) (fun l => frsq32 (x l)) ∧ late (.fex2 h d a) (fun l => fex232 (x l))
        ∧ late (.flg2 h d a) (fun l => flg232 (x l))
        ∧ (s.Issues (.vhad h big d a) → s.grp.enabled (orFlags ((lanesOf em).map fun l => orFlags ((had l).map (·.2)))) = 0#6 →
            LeavesPending s h.pk
              ((List.range n).flatMap fun i => vecPends s .x (d + i) ((lanesOf em).map fun l => (l, ((had l).getD i (flc 0)).1)) (encode (.vhad h big d a)))
              (orFlags ((lanesOf em).map fun l => orFlags ((had l).map (·.2)))) (exec (.vhad h big d a) s)))

/-- O28. (06 R209 to R217, 02 R72). Cross-lane words: which lane's value each lane of the effective mask receives, or what is reduced, scanned or
counted; the results are of class x and stay outstanding. -/
def Obligations.CrossLane : Prop :=
  ∀ (s : State) (h : Hdr) (d a b m : Nat) (op : ROp),
    let em := s.tick.em h
    let w := s.grp.w
    let x := s.tick.rv a
    let late (i : Instr) (f : Nat → W32) : Prop := s.Issues i →
      LeavesPending s h.pk (vecPends s .x d ((lanesOf em).map fun l => (l, f l)) (encode i)) 0#6 (exec i s)
    let scal (i : Instr) (v : W64) : Prop := s.Issues i →
      LeavesPending s h.pk [⟨.x, .s d v, s.pc, BitVec.ofNat 64 (encode i), [], 0⟩] 0#6 (exec i s)
    late (.vperm h d a b) (fun l => x ((s.tick.rv b l).toNat % w))
      ∧ (s.Issues (.vpush h d a b) → LeavesPending s h.pk
          (vecPends s .x d ((lanesOf em).filterMap fun l =>
            (((lanesOf em).reverse.find? fun n => (s.tick.rv b n).toNat % w == l).map x).map fun v => (l, v)) (encode (.vpush h d a b)))
          0#6 (exec (.vpush h d a b) s))
      ∧ late (.vshfx h d a m) (fun l => x (l ^^^ m))
      ∧ late (.vshfu h d a m) (fun l => x (if m ≤ l then l - m else l))
      ∧ late (.vshfd h d a m) (fun l => x (if l + m < w then l + m else l))
      ∧ late (.vbcast h d a m) (fun _ => x m)
      ∧ late (.vbcastScalar h d a) (fun _ => BitVec.ofNat 32 (s.tick.rs a).toNat)
      ∧ scal (.vballot h d a) (s.tick.rpm a &&& em)
      ∧ scal (.vfirst h d a) (BitVec.ofNat 64 (((List.range 64).find? fun l => mbit (s.tick.rpm a) l && mbit em l).getD 64))
      ∧ (s.Issues (.vred h d a op) → s.grp.enabled (s.tick.red op a em).2 = 0#6 →
          LeavesPending s h.pk [⟨.x, .s d (BitVec.ofNat 64 (s.tick.red op a em).1.toNat), s.pc, BitVec.ofNat 64 (encode (.vred h d a op)), [], 0⟩]
            (s.tick.red op a em).2 (exec (.vred h d a op) s))
      ∧ (s.Issues (.vredVector h d a op) → s.grp.enabled (s.tick.red op a em).2 = 0#6 →
          LeavesPending s h.pk (vecPends s .x d ((lanesOf em).map fun l => (l, (s.tick.red op a em).1)) (encode (.vredVector h d a op)))
            (s.tick.red op a em).2 (exec (.vredVector h d a op) s))
      ∧ ∀ excl : Bool, let i : Instr := if excl then .vscanExcl h d a op else .vscan h d a op
        let st := (s.tick.scan op a em).filter fun r => mbit em r.1
        s.Issues i → s.grp.enabled (orFlags (st.map fun r => r.2.2.2)) = 0#6 →
          LeavesPending s h.pk (vecPends s .x d (st.map fun r => (r.1, if excl then r.2.1 else r.2.2.1)) (encode i))
            (orFlags (st.map fun r => r.2.2.2)) (exec i s)

/-- O29. (05 R133, R134, R139 to R145, R159; reading at issue at a stamp that the group keeps is log entry 5). One indivisible read of a group: its
own pending stores first; elsewhere the present values where no memory has been written there since the stamp that the group must see, otherwise
the values at some stamp from that one on, after which it reads there nothing older; of scratchpad always the present values. An acquire that
returns a release, and every read that returns a completion record's, sees all that the release's agent had done, where each covers the other. A
read writes nothing. (07 R219 to R225, 05 R133, R134). Loads: every access is checked; each lane reads its bytes while the word issues (log
entries 5, 103), an aligned access as one, another byte by byte, of scratchpad by aligned words; the results are outstanding; no register and no
other group changes, and no byte but by the group's own pending stores. A failing check is the trap of the first failing lane, data that memory
reports as uncorrectable the trap MCE; an access to a member that has not started waits. (04 R121, 05 R156, R161). `ldr` reads through the core's
read-only lines: a line that it holds since what the group must see answers, unless it was replaced (log entry 92); another is filled first, from
the values that the group may see; a host-biased page is read at its home slice, and an access that straddles two kinds of page byte by byte. No
byte changes but by the group's own pending stores. (07 R219 to R225, R228; 05 R132, R133, R136). Stores: the data are read at issue and wait
among the group's pending accesses at the addresses that the form computes (log entry 5), one access for each lane, or for each byte of a lane
that is not aligned, of scratchpad for what lies in one aligned word (log entry 103); of lanes that write one byte the highest writes it; no byte
of memory changes yet. -/
def Obligations.LoadsAndStores : Prop :=
  (∀ (s : State) (gk dep code : Nat) (own : Access → Bool) (acq : Option Scope) (l : List Loc),
      (s.group gk).drainsFor own acq.isSome l = false →
      let g := s.group gk
      let mine (x : Loc) : Option Byte := sbufByte (g.sbuf.filter own) x
      let rest := l.filter fun x => (mine x).isNone
      let lo := max (g.obs.from_ rest) dep
      let still := ∀ h ∈ s.hist, h.loc ∈ rest → h.loc.global = true → h.till ≤ lo
      let now := l.map fun x => (mine x).getD (s.rb x)
      let r := s.readAs gk own acq dep code l
      (still → r.2.bytes = now)
        ∧ (still ∨ ∃ n, (lo ≤ n ∨ n = s.now) ∧ r.2.bytes = (l.map fun x => (mine x).getD (s.byteAt n x)) ∧ n ≤ (r.1.group gk).obs.from_ rest)
        ∧ r.1 = s.setGroup gk { g with obs := (r.1.group gk).obs } ∧ g.obs.floor ≤ (r.1.group gk).obs.floor
        ∧ (still → ∀ q ∈ s.rels, q.loc ∈ rest → q.start ≤ s.now → q.till = none → covers q.scp q.who (s.who g) = true →
            (q.plain = true ∨ ∃ a, acq = some a ∧ covers a (s.who g) q.who = true) → q.start ≤ (r.1.group gk).obs.floor)
        ∧ ∀ n x, (∀ h ∈ s.hist, h.loc = x → h.till ≤ n) → s.byteAt n x = s.rb x)
    ∧ (∀ (s u : State) (h : Hdr) (m : Mem) (d a wk rank : Nat) (l : List (Acc × List Loc)) (tr : Trap),
      let z := wbytes m.wd
      let late (i : Instr) (glob : Bool) : Prop := s.Issues i →
        let chk := s.tick.check s.focus glob false .read (s.tick.accs glob m.am a (m.off.signExtend 64) z (s.tick.em h))
        let dep := s.grp.addrDep glob m.am a
        let vals := (l.foldl (fun acc x => ((readCurrent m dep acc.1 x.1 x.2).1,
          acc.2 ++ [(x.1.lane, leNat (readCurrent m dep acc.1 x.1 x.2).2.bytes)])) (u, ([] : List (Nat × Nat)))).2
        (chk = (u, .ok l) → (∀ x ∈ l, ∀ c ∈ x.2, u.poisoned c = false) → Completes (exec i s) fun t =>
            s.OtherGroups t ∧ s.grp.SameRegs t.grp ∧ s.Settles t
              ∧ s.Goes t (s.pc + 8) h.pk ((loadResults m.am d z m.sx vals).map fun r =>
                  ⟨.ld, r, s.pc, BitVec.ofNat 64 (encode i), remoteOf l, 0⟩)
              ∧ (s.grp.sbuf = [] → s.ElsewhereButTlb t ∧ t.grp = { s.grp with obs := t.grp.obs, p0 := t.grp.p0, p1 := t.grp.p1 }))
          ∧ (chk = (u, .ok l) → (∃ x ∈ l, ∃ c ∈ x.2, u.poisoned c = true) → s.grp.ctl = false → s.grp.sweeps = false → Completes (exec i s) fun t =>
              t.grp.stopped = true ∧ (t.grp.path s.fpath).pc = s.pc + 8 ∧ s.OtherGroups t
                ∧ (t.grp.trap.map fun r => (r.cause, r.tpc)) = some (9, s.pc))
          ∧ (chk = (u, .trap tr) → exec i s = .next (s.sysTrapped i tr))
          ∧ (chk = (u, .stall wk rank) → Completes (exec i s) fun t => s.Stalls t wk rank)
      (late (.lds h m d a) false ∧ late (.ldg h m d a) true ∧ late (.ldc h m d a) true)
        ∧ ∀ (t : State) (dep : Nat) (x : Acc) (ls : List Loc), t.hist = [] → t.grp.sbuf = [] →
            (readCurrent m dep t x ls).2.bytes = ls.map t.rb)
    ∧ (∀ (s u : State) (h : Hdr) (m : Mem) (d a pa : Nat) (l : List (Acc × List Loc)) (e : RoLine),
      let z := wbytes m.wd
      let i : Instr := .ldr h m d a
      let dep := s.grp.addrDep true m.am a
      let n := pa / 128
      let held := (s.core s.grp.core).ro.find? (fun x => x.line == n)
      let fills : Prop := (readRo s (.gpa pa)).2 = (s.fillRo n).bytes.getD (pa % 128) 0
        ∧ ((readRo s (.gpa pa)).1.core s.grp.core).ro.find? (fun x => x.line == n) = some (s.fillRo n)
      (s.Issues i → s.tick.check s.focus true false .read (s.tick.accs true m.am a (m.off.signExtend 64) z (s.tick.em h)) = (u, .ok l) →
          (∀ x ∈ l, ∀ c ∈ x.2, u.poisoned c = false) → Completes (exec i s) fun t =>
            let vals := (l.foldl (fun acc x => ((readRoAll m dep acc.1 x.1 x.2).1,
              acc.2 ++ [(x.1.lane, leNat (readRoAll m dep acc.1 x.1 x.2).2.bytes)])) (u, ([] : List (Nat × Nat)))).2
            s.Settles t ∧ s.OtherGroups t ∧ s.grp.SameRegs t.grp
              ∧ s.Goes t (s.pc + 8) h.pk ((loadResults m.am d z m.sx vals).map fun r =>
                  ⟨.ld, r, s.pc, BitVec.ofNat 64 (encode i), remoteOf l, 0⟩))
        ∧ (held = some e → s.grp.obs.rofloor ≤ e.at_ → readRo s (.gpa pa) = (s, e.bytes.getD (pa % 128) 0) ∨ fills)
        ∧ (held = some e → s.grp.obs.rofloor ≤ e.at_ → e.bytes.getD (pa % 128) 0 = s.rb (.gpa pa) → readRo s (.gpa pa) = (s, s.rb (.gpa pa)))
        ∧ (held = some e → e.at_ < s.grp.obs.rofloor → fills) ∧ (held = none → fills)
        ∧ ((∀ x ∈ s.hist, ∀ k, k < 128 → x.loc = .gpa (n * 128 + k) → x.till ≤ max s.grp.obs.base s.grp.obs.rofloor) →
            s.fillRo n = ⟨n, s.now, (List.range 128).map fun k => s.rb (.gpa (n * 128 + k))⟩)
        ∧ ∀ (x : Acc) (ls : List Loc),
            let first := s.hostBiased s.focus x.addr
            let last := s.hostBiased s.focus (x.addr + x.n - 1)
            (first = true → last = true → readRoAll m dep s x ls = readCurrent m dep s x ls)
              ∧ (first = false → last = false →
                  (readRoAll m dep s x ls).2.bytes = (ls.foldl (fun r y => ((readRo r.1 y).1, r.2 ++ [(readRo r.1 y).2])) (s, ([] : List Byte))).2)
              ∧ (first ≠ last → (readRoAll m dep s x ls).2.bytes = (ls.zipIdx.foldl (fun r y =>
                  if r.1.hostBiased s.focus (x.addr + y.2) = true then
                    let q := readCurrent m dep r.1 ⟨x.lane, x.addr + y.2, 1⟩ [y.1]
                    (q.1, r.2 ++ q.2.bytes)
                  else ((readRo r.1 y.1).1, r.2 ++ [(readRo r.1 y.1).2])) (s, ([] : List Byte))).2))
    ∧ (∀ (s u : State) (h : Hdr) (m : Mem) (d a wk rank : Nat) (l : List (Acc × List Loc)) (tr : Trap),
      let z := wbytes m.wd
      let put (i : Instr) (glob : Bool) : Prop := s.Issues i →
        let chk := s.tick.check s.focus glob false .write (s.tick.accs glob m.am a (m.off.signExtend 64) z (s.tick.em h))
        let cells (x : Acc × List Loc) : List (Loc × Byte) := x.2.zip (leBytes z (u.data m.am d x.1.lane z))
        (chk = (u, .ok l) → (s.grp.lostRemote = none ∨ m.ord ≠ .rel ∨ m.scp ≠ .sys) → Completes (exec i s) fun t =>
            s.ElsewhereButTlb t ∧ s.Goes t (s.pc + 8) h.pk []
              ∧ ∃ new : List Access, t.grp = { s.grp with sbuf := s.grp.sbuf ++ new, p0 := t.grp.p0, p1 := t.grp.p1 }
                ∧ (∀ y, sbufByte new y = ((l.flatMap cells).reverse.find? fun c => c.1 = y).map (·.2))
                ∧ ∀ b ∈ new, b.rel = decide (m.ord = .rel) ∧ b.scps = (if m.ord = .rel then [m.scp] else []) ++ s.grp.obs.fenced
                  ∧ ∃ x ∈ l, b.lanes = (if m.am = .uniform then s.tick.em h else 1#64 <<< x.1.lane) ∧ (∀ c ∈ b.cells, c ∈ cells x)
                    ∧ (x.1.addr % x.1.n = 0 ∨ b.cells.length = 1 ∨ ∃ t w, ∀ c ∈ b.cells, ∃ o, c.1 = .sp t o ∧ o / 4 = w))
          ∧ (chk = (u, .trap tr) → exec i s = .next (s.sysTrapped i tr))
          ∧ (chk = (u, .stall wk rank) → Completes (exec i s) fun t => s.Stalls t wk rank)
      put (.sts h m d a) false ∧ put (.stg h m d a) true ∧ put (.stc h m d a) true)

/-- O30. (07 R228, 05 R134, R139, R142). A pending access is performed at its point of coherence: the bytes that it stores take its values, every
other byte keeps its own, and the values replaced stay among those that a read may return; a release stands there from then on, and waits for all
that stands before it. Performing all of a group's accesses leaves each byte the value that the group reads there. -/
def Obligations.AccessPerformed : Prop :=
  ∀ (s : State) (gk i : Nat) (a : Access), (tfind? s.groups gk).isSome = true →
    ((s.group gk).sbuf[i]? = some a → mayPerform (s.group gk).sbuf i = true → (∀ c ∈ a.cells, ∀ pa, c.1 = .gpa pa → pa < 2 ^ 51) →
        Completes (exec (.accessPerformed gk i) s) fun t =>
          (∀ x, t.rb x = (sbufByte [a] x).getD (s.rb x)) ∧ (t.group gk).sbuf = (s.group gk).sbuf.take i ++ (s.group gk).sbuf.drop (i + 1)
            ∧ (s.group gk).SameRegs (t.group gk) ∧ (∀ k, k ≠ gk → t.group k = s.group k) ∧ t.now = s.now + 1
            ∧ (∀ c ∈ a.cells, (a.cells.map (·.1)).Nodup → s.rb c.1 ≠ c.2 → (⟨c.1, s.rb c.1, s.now + 1⟩ : Past) ∈ t.hist)
            ∧ ∀ c ∈ a.cells, ∀ scp ∈ a.scps, (⟨c.1, s.who (s.group gk), scp, s.now + 1, none, false⟩ : Rel) ∈ t.rels)
      ∧ ((s.group gk).sbuf[i]? = some a → a.rel = true → i ≠ 0 → exec (.accessPerformed gk i) s = .next s)
      ∧ ((s.group gk).StoresHere →
          let t := s.performAll gk
          (∀ x, t.rb x = s.gb gk x) ∧ (t.group gk).sbuf = [] ∧ (s.group gk).SameRegs (t.group gk) ∧ ∀ k, k ≠ gk → t.group k = s.group k)

/-- O31. (07 R229, R230; 05 R135). Atomics and reductions: the group's pending accesses are performed first (log entry 5), then each lane's
read-modify-write in ascending lane order with nothing between (log entry 103); the forms that return values leave the old ones outstanding. A
lane's reduction that gets no answer is lost and remembered, the others are performed (16 R476). (07 R229, R230; 05 R135, R140). One
read-modify-write on `n` bytes of memory: the bytes there become the operation's result, every other byte keeps its value; `cas` writes only
where the old value equals the comparison value. An acquiring one that reads a release sees what stood before it. -/
def Obligations.Atomics : Prop :=
  (∀ (s u : State) (h : Hdr) (m : Amo) (op : AOp) (d a b : Nat) (l : List (Acc × List Loc)) (tr : Trap),
      let z := wbytes m.wd
      let run (i : Instr) (glob ret : Bool) (d : Nat) : Prop := s.Issues i →
        let chk := s.tick.check s.focus glob true .rmw (s.tick.accs glob m.am a 0 z (s.tick.em h))
        let v := u.performAll s.focus
        (chk = (u, .ok l) → (s.grp.lostRemote = none ∨ m.scp ≠ .sys) → (ret = true ∨ s.grp.deaf = none) →
          Completes (exec i s) fun t =>
            let r := l.foldl (fun (acc : State × List (Nat × Nat)) x =>
              ((acc.1.rmw m op x.2 (s.tick.data m.am b x.1.lane z) (s.tick.data m.am d x.1.lane z)).1,
               acc.2 ++ [(x.1.lane, leNat (x.2.map acc.1.rb))])) (v, [])
            (∀ x, t.rb x = r.1.rb x) ∧ s.OtherGroups t ∧ s.grp.SameRegs t.grp ∧ t.grp.sbuf = []
              ∧ s.Goes t (s.pc + 8) h.pk (if ret then (loadResults m.am d z false r.2).map fun q =>
                  ⟨.ld, q, s.pc, BitVec.ofNat 64 (encode i), remoteOf l, 0⟩ else []))
          ∧ (chk = (u, .trap tr) → exec i s = .next (s.sysTrapped i tr))
          ∧ (∀ y, ret = false → chk = (u, .ok l) → s.grp.lostRemote = none → m.scp ≠ .sys →
              l.find? (fun x => (u.noAnswer s.focus x.2).isSome) = some y → Completes (exec i s) fun t =>
                let r := (l.filter fun x => decide (x.1.lane ≠ y.1.lane)).foldl (fun (a : State) x =>
                  (a.rmw m op x.2 (s.tick.data m.am b x.1.lane z) (s.tick.data m.am d x.1.lane z)).1) v
                (∀ x, t.rb x = r.rb x) ∧ t.grp.lostRemote.isSome = true ∧ t.grp.deaf = none ∧ s.OtherGroups t ∧ t.pc = s.pc + 8)
      run (.atom h m op d a b) true true d ∧ run (.atoms h m op d a b) false true d ∧ run (.red h m op a b) true false 0)
    ∧ (∀ (s : State) (m : Amo) (op : AOp) (pa n b c : Nat), (n = 4 ∨ n = 8) → pa + n ≤ 2 ^ 51 →
      let ls := (List.range n).map fun i => Loc.gpa (pa + i)
      let old := leNat (ls.map s.rb)
      let t := (s.rmw m op ls b c).1
      let me := s.who s.grp
      leNat (s.rmw m op ls b c).2.bytes = old
        ∧ (leNat (ls.map t.rb) = match amoNew op n old b c with | some v => v % 2 ^ (8 * n) | none => old)
        ∧ (∀ x, x ∉ ls → t.rb x = s.rb x)
        ∧ amoNew .add n old b c = some ((old + b) % 2 ^ (8 * n)) ∧ amoNew .exch n old b c = some b
        ∧ amoNew .cas n old b c = (if old = c then some b else none) ∧ amoNew .minu n old b c = some (min old b)
        ∧ amoNew .maxu n old b c = some (max old b) ∧ amoNew .and n old b c = some (old &&& b) ∧ amoNew .or n old b c = some (old ||| b)
        ∧ amoNew .xor n old b c = some (old ^^^ b)
        ∧ amoNew .min n old b c = some (if sxInt (8 * n) old ≤ sxInt (8 * n) b then old else b)
        ∧ amoNew .max n old b c = some (if sxInt (8 * n) old ≤ sxInt (8 * n) b then b else old)
        ∧ ((m.ord = .acq ∨ m.ord = .ar) → (tfind? s.groups s.focus).isSome = true → ∀ q ∈ s.rels, q.loc ∈ ls → q.start ≤ s.now → q.till = none →
            covers q.scp q.who me = true → covers m.scp me q.who = true → q.start ≤ t.grp.obs.floor))

/-- O32. (07 R226 to R228, R234; 05 R139, R140, R144, R146, R156). A fence waits for the group's accesses that it orders, of both its paths (log
entry 67); then an acquire fence sees what stood before the releases that the group's reads have returned, later writes act as releases of a
release fence, and a full fence sees what full fences before it had seen; a lost remote write is reported by a `.sys` fence of any order (log
entry 68). Counts and prefetches have no effect once they issue. `rinv` empties the read-only lines of the cores that it covers. -/
def Obligations.FencesAndPrefetch : Prop :=
  ∀ (s : State) (pk : Bool) (h : Hdr) (wd : Width) (am : AMode) (l2 : Bool) (off : BitVec 16) (a n pa : Nat) (scp : Scope) (ord : Order) (cl : RCls),
    let i : Instr := .fence pk scp ord
    let me := s.who s.grp
    let o := s.grp.obs
    (s.Issues i → (s.grp.lostRemote = none ∨ scp ≠ .sys) → Completes (exec i s) fun t =>
        s.OtherGroups t ∧ s.grp.SameRegs t.grp ∧ s.Goes t (s.pc + 8) pk [] ∧ s.Settles t ∧ o.floor ≤ t.grp.obs.floor
          ∧ (ord = .acq ∨ ord = .ar → ∀ r ∈ o.heard, covers scp me r.who = true → r.start ≤ t.grp.obs.floor)
          ∧ (ord = .rel ∨ ord = .ar → scp ∈ t.grp.obs.fenced)
          ∧ (ord = .ar → (⟨me, scp, t.now⟩ : FullFence) ∈ t.fences
              ∧ ∀ f ∈ s.fences, covers f.scp f.who me = true → covers scp me f.who = true → f.at_ ≤ t.grp.obs.floor))
      ∧ (s.canIssue = true → s.tick.dynReason i = 0 → ord ≠ .acq → (∃ x ∈ s.grp.sbuf, x.unseen scp = true) → exec i s = .next s)
      ∧ (s.Issues i → scp = .sys → s.grp.lostRemote = some pa → s.grp.ctl = false → s.grp.sweeps = false → Completes (exec i s) fun t =>
          t.grp.stopped = true ∧ t.grp.lostRemote = none ∧ (t.grp.path s.fpath).pc = s.pc + 8
            ∧ (t.grp.trap.map fun r => (r.cause, r.tpc, r.addr)) = some (9, s.pc, BitVec.ofNat 64 pa))
      ∧ (s.Issues (.fenceAsync pk) → Completes (exec (.fenceAsync pk) s) fun t =>
          s.Elsewhere t ∧ s.Goes t (s.pc + 8) pk []
            ∧ t.grp = { s.grp with obs := { o with afence := s.now }, p0 := t.grp.p0, p1 := t.grp.p1 })
      ∧ (s.Issues (.wcnt pk cl n) → OnlyGoes s pk (s.pc + 8) (exec (.wcnt pk cl n) s))
      ∧ (s.canIssue = true → s.tick.dynReason (.wcnt pk cl n) = 0 → n < s.pth.count cl → exec (.wcnt pk cl n) s = .next s)
      ∧ (s.Issues (.pf h wd am l2 off a) → OnlyGoes s h.pk (s.pc + 8) (exec (.pf h wd am l2 off a) s))
      ∧ (s.Issues (.rinv pk scp) → Completes (exec (.rinv pk scp) s) fun t =>
          (∀ x, t.rb x = s.rb x) ∧ s.OtherGroups t ∧ s.Goes t (s.pc + 8) pk []
            ∧ t.grp = { s.grp with obs := { o with rinv := true }, p0 := t.grp.p0, p1 := t.grp.p1 }
            ∧ ∀ c, t.core c = if c ∈ s.rinvCores scp then { s.core c with ro := [] } else s.core c)
      ∧ s.grp.core ∈ s.rinvCores .tm ∧ (∀ c, c ∈ s.rinvCores .tm → c = s.grp.core)
      ∧ ∀ c, c ∈ s.rinvCores .cl ↔ c = s.grp.core ∨ c ∈ (s.cluster (s.team s.grp.team).cluster).cores

/-- O33. (07 R241, R242, R245). The arithmetic of a phaser of `n` places that nothing has been added to or dropped from: an arrival for the phase
lowers COUNT; the last one flips: PHASE is one more, COUNT is NSIG less the arrivals counted ahead, and those move up. An arrival at most seven
phases ahead is counted there. The bytes of a delivery lower COUNT one by one. (07 R235 to R244, 14 R422). The phaser words, where the handle's
place is found at `x` and the group's pending accesses are performed first (log entry 5); an arrival is a release at its scope, `phwait` and a
completed `pharw` acquire at theirs what arrived in the phase. What each does with a malformed handle, a place that is not accessible, a slot
that is not in use, a phaser that is full, a token that is malformed; the orders of these tests are log entries 75, 95 and 96. A waiter whose
phase has ended goes on. (07 R242, R244, 14 R422). An arrival through a slot of mode WAIT changes nothing and gives the present phase; another
counts at the phaser for the slot's member phase, which moves on, and gives that phase, and stands there as a release at its scope. A word that
waits for a phase goes on once it has ended, and acquires what arrived in it where each scope covers the other; where it is to report a lost
write, it stops with MCE at the next word (16 R476). -/
def Obligations.PhaserWords : Prop :=
  (∀ (p : Ph) (mp n : Nat), p.phase < 2 ^ 32 → mp < 2 ^ 32 → p.nsig < 2 ^ 16 → p.count < 2 ^ 48 → p.ah.length = 7 → p.nadd = 0 → p.ndrop = 0 →
      let flipped : Ph := { p with phase := (p.phase + 1) % 2 ^ 32, count := p.nsig - p.ah.getD 0 0, ah := p.ah.drop 1 ++ [0] }
      (p.ahead mp = 0 → 1 < p.count → p.arrive mp = { p with count := p.count - 1 })
        ∧ (p.ahead mp = 0 → p.count = 1 → p.ah.getD 0 0 < p.nsig → p.arrive mp = flipped)
        ∧ (∀ k, k < 7 → p.ahead mp = k + 1 → p.arrive mp = { p with ah := p.ah.set k ((p.ah.getD k 0 + 1) % 2 ^ 16) })
        ∧ (p.limit mp = true ↔ 8 ≤ p.ahead mp ∧ p.ahead mp < 2 ^ 31)
        ∧ (0 < n → n < p.count → p.sub n = { p with count := p.count - n })
        ∧ (0 < p.count → p.ah.getD 0 0 < p.nsig → n < p.nsig - p.ah.getD 0 0 →
            p.sub (p.count + n) = { flipped with count := p.nsig - p.ah.getD 0 0 - n }))
    ∧ (∀ (s u : State) (h : Hdr) (scp : Scope) (a b d k wk rank : Nat) (mode : PhMode) (acc : Acc) (x : Loc) (r : List Loc) (tr : Trap),
      s.tick.em h ≠ 0#64 →
      let v := u.performAll s.focus
      let p := v.phaser x
      let e := s.grp.slot k
      let place (hd : W64) (kind : AKind) := s.tick.check s.focus (!hd.getLsbD 63) true kind [⟨0, bits hd.toNat 0 57, 32⟩]
      let located (hd : W64) (kind : AKind) : Prop := handleReason hd = none ∧ place hd kind = (u, .ok [(acc, x :: r)])
      let clear := s.grp.lostRemote = none ∨ scp ≠ .sys
      let tok := s.tick.rs a
      let te := s.grp.slot (bits tok.toNat 32 3)
      let hd := s.tick.rs a
      let lost (i : Instr) (hd : W64) (kind : AKind) : Prop := s.Issues i →
        (∀ n, handleReason hd = some n → exec i s = .next (s.sysTrapped i { cause := 3, reason := n, addr := hd, wr := kind.wr }))
          ∧ (handleReason hd = none → place hd kind = (u, .trap tr) → exec i s = .next (s.sysTrapped i tr))
          ∧ (handleReason hd = none → place hd kind = (u, .stall wk rank) → Completes (exec i s) fun t => s.Stalls t wk rank)
      let ils (i : Instr) (n : Nat) (ad i0 i1 : W64) : Prop :=
        exec i s = .next (s.sysTrapped i { cause := 4, reason := n, addr := ad, info0 := i0, info1 := i1 })
      let waits (i : Instr) (u : State) (wk : Nat) (t word : W64) : Prop := Completes (exec i s) fun y =>
        y.pth.st = .waiting ∧ y.pc = s.pc ∧ u.OtherGroups y
          ∧ (y.pth.wait.map fun w => (w.wk, w.wv1, w.loc, w.scp, w.word)) = some (wk, t, some x, scp, word)
      let report (i : Instr) : W64 := if scp = .sys then BitVec.ofNat 64 (encode i) else 0
      let arrived := v.arriveSlot s.focus k x scp
      let told := (arrived.1.ws d arrived.2).wakeAt x
      let upd (y : Ph) : State := v.phaserAs s.focus false .ln x y
      let phinit (i : Instr) : Prop := s.Issues i → located hd .write →
        (65535 < (s.tick.rs b).toNat → ils i 12 hd hd (s.tick.rs b))
          ∧ ((s.tick.rs b).toNat ≤ 65535 → (∃ pa, x = .gpa pa) ∨ (∃ t o, x = .sp t o ∧ o ∈ (v.team t).phasers) →
              exec i s = s.goesOn i ((v.newPhaser s.focus x (Ph.new (s.tick.rs b).toNat)).wakeAt x))
          ∧ (∀ t o, (s.tick.rs b).toNat ≤ 65535 → x = .sp t o → o ∉ (v.team t).phasers →
              (128 ≤ v.phaserSlots (v.team t).core → ils i 12 hd hd (s.tick.rs b))
                ∧ (v.phaserSlots (v.team t).core < 128 → exec i s = s.goesOn i
                    (((v.setTeam t { v.team t with phasers := (v.team t).phasers ++ [o] }).newPhaser s.focus x (Ph.new (s.tick.rs b).toNat)).wakeAt x)))
      let phreg (i : Instr) : Prop := s.Issues i →
        (e.free = false → ils i 11 hd hd 0)
          ∧ (e.free = true → located hd .rmw →
              (mode = .wait → exec i s = s.goesOn i (v.setGrp (v.grp.setSlot k ⟨hd, .wait, false, true, 0⟩)))
                ∧ (mode ≠ .wait → 0 < p.nfree → exec i s = s.goesOn i ((upd { p with nfree := p.nfree - 1 }).setGrp
                    ((upd { p with nfree := p.nfree - 1 }).grp.setSlot k ⟨hd, mode, false, true, p.phase⟩)))
                ∧ (mode ≠ .wait → p.nfree = 0 → p.nsig + p.nadd = 65535 + p.ndrop → ils i 12 hd hd 0)
                ∧ (mode ≠ .wait → p.nfree = 0 → p.nsig + p.nadd ≠ 65535 + p.ndrop → exec i s = s.goesOn i
                    ((upd { p with nadd := p.nadd + 1 }).setGrp
                      ((upd { p with nadd := p.nadd + 1 }).grp.setSlot k ⟨hd, mode, false, true, (p.phase + 1) % 2 ^ 32⟩))))
      let phdrop (i : Instr) : Prop := s.Issues i →
        (e.free = true → ils i 11 0 0 0)
          ∧ (e.free = false → located e.h .rmw →
              (e.mode = .wait → exec i s = s.goesOn i (v.setGrp (v.grp.setSlot k { e with free := true })))
                ∧ (e.mode ≠ .wait → e.mp ≠ p.phase → ils i 11 e.h 0 0)
                ∧ (e.mode ≠ .wait → e.mp = p.phase → exec i s =
                    s.goesOn i (let w := upd ({ p with ndrop := (p.ndrop + 1) % 2 ^ 16 }.sub 1)
                      (w.setGrp (w.grp.setSlot k { e with free := true })).wakeAt x)))
      let pharr (i : Instr) : Prop := s.Issues i →
        (e.free = true → ils i 11 0 0 0)
          ∧ (e.free = false → located e.h .rmw → clear → (e.mode = .wait ∨ p.limit e.mp = false) → exec i s = s.goesOn i told)
          ∧ (e.free = false → located e.h .rmw → e.mode ≠ .wait → p.limit e.mp = true → waits i s 2 (phToken e.mp k) (report i))
      let pharw (i : Instr) : Prop := s.Issues i →
        (e.free = true → ils i 11 0 0 0)
          ∧ (e.free = false → located e.h .rmw → clear → e.mode ≠ .wait → p.limit e.mp = false →
              ((told.phaser x).ended arrived.2.toNat = true → exec i s = s.goesOn i (told.acquirePhase s.focus scp x arrived.2))
                ∧ ((told.phaser x).ended arrived.2.toNat = false → waits i told 1 arrived.2 (report i)))
          ∧ (e.free = false → located e.h .rmw → e.mode = .wait → (told.phaser x).ended arrived.2.toNat = false → waits i told 1 arrived.2 (report i))
          ∧ (e.free = false → located e.h .rmw → e.mode ≠ .wait → p.limit e.mp = true → waits i s 2 (phToken e.mp k) (report i))
      let phwait (i : Instr) : Prop := s.Issues i →
        (tok.getLsbD 63 = false ∨ bits tok.toNat 35 28 ≠ 0 → ils i 13 tok tok 0)
          ∧ (tok.getLsbD 63 = true → bits tok.toNat 35 28 = 0 → te.free = true → te.ever = false → ils i 11 tok tok 0)
          ∧ (tok.getLsbD 63 = true → bits tok.toNat 35 28 = 0 → (te.free = false ∨ te.ever = true) → located te.h .read →
              (p.ended tok.toNat = true → exec i s = s.goesOn i (v.acquirePhase s.focus scp x tok)) ∧ (p.ended tok.toNat = false → waits i s 1 tok 0))
      phinit (.phinit h a b) ∧ lost (.phinit h a b) hd .write ∧ phreg (.phreg h k a mode) ∧ (e.free = true → lost (.phreg h k a mode) hd .rmw)
        ∧ phdrop (.phdrop h k) ∧ (e.free = false → lost (.phdrop h k) e.h .rmw ∧ lost (.pharr h scp d k) e.h .rmw ∧ lost (.pharw h scp d k) e.h .rmw)
        ∧ pharr (.pharr h scp d k) ∧ pharw (.pharw h scp d k) ∧ phwait (.phwait h scp a)
        ∧ (tok.getLsbD 63 = true → bits tok.toNat 35 28 = 0 → (te.free = false ∨ te.ever = true) → lost (.phwait h scp a) te.h .read))
    ∧ (∀ (s : State) (gk k p : Nat) (w : Wait) (scp : Scope),
      (∀ x : Loc, (match x with | .gpa pa => pa + 32 ≤ 2 ^ 51 | .sp _ _ => True) →
        let e := (s.group gk).slot k
        let t := (s.arriveSlot gk k x scp).1
        (e.mode = .wait → s.arriveSlot gk k x scp = (s, phToken (s.phaser x).phase k))
          ∧ (e.mode ≠ .wait → (s.arriveSlot gk k x scp).2 = BitVec.ofNat 64 (e.mp % 2 ^ 32 + k * 2 ^ 32 + 2 ^ 63)
              ∧ t.phaser x = (s.phaser x).arrive e.mp ∧ (t.group gk).slot k = { e with mp := (e.mp + 1) % 2 ^ 32 }
              ∧ (∀ j, j ≠ gk → t.group j = s.group j) ∧ (s.group gk).SameRegs (t.group gk)
              ∧ (∀ y, (∀ i, i < 32 → y ≠ x.plus i) → t.rb y = s.rb y)
              ∧ ((s.phaser x).ahead e.mp ≤ 7 → ∃ y, (⟨x, e.mp, y⟩ : Arrival) ∈ t.arrivals ∧ y.at_ = t.now ∧ (s.who (s.group gk), scp) ∈ y.rels)))
        ∧ (∀ x : Loc, (∀ y ∈ s.waiters, s.phWakes x y.1 y.2 = false) → s.wakeAt x = s)
        ∧ ∀ x : Loc, p < 2 → s.waiters = [(gk, p)] → ((s.group gk).path p).wait = some w → w.wk = 1 → s.phWakes x gk p = true →
            let g := (s.wakeAt x).group gk
            (g.path p).st = .ready ∧ (g.path p).pc = ((s.group gk).path p).pc + 8
              ∧ (w.word = 0 ∨ (s.group gk).lostRemote = none → g.stopped = (s.group gk).stopped
                ∧ ∀ y ∈ s.arrivals, y.loc = x → y.phase = bits w.wv1.toNat 0 32 →
                  (∃ r ∈ y.sync.rels, covers r.2 r.1 (s.who (s.group gk)) = true ∧ covers w.scp (s.who (s.group gk)) r.1 = true) →
                  y.sync.at_ ≤ g.obs.floor)
              ∧ ∀ a, w.word ≠ 0 → (s.group gk).lostRemote = some a → (s.group gk).ctl = false →
                g.stopped = true ∧ (g.trap.map fun r => (r.cause, r.addr)) = some (9, BitVec.ofNat 64 a))

/-- O34. (07 R246, R247, 09 R287, 05 R153). The status of an engine token: `ttest` and `twait` write it, `twait.y` goes on at its target with it or
waits; where it reports completion, the group sees every write of the command, and acquires its completion at the scope of the word (the stamps
are log entry 5); a status of an ended command that is observed frees its slot; a refused token traps. -/
def Obligations.TokenWords : Prop :=
  ∀ (s : State) (h : Hdr) (scp : Scope) (d a k : Nat) (cur : Bool) (off : BitVec 14),
    s.tick.em h ≠ 0#64 →
    let n := s.tick.tokenStatus k cur
    let x := s.tick.rs a
    let told (i : Instr) (pc : W64) : Prop := s.Issues i → Completes (exec i s) fun t =>
      s.Settles t ∧ s.OtherGroups t
        ∧ t.grp = { s.grp with sreg := t.grp.sreg, sbuf := t.grp.sbuf, ends := t.grp.ends, obs := t.grp.obs, p0 := t.grp.p0, p1 := t.grp.p1 }
        ∧ t.grp.sraw s.fpath d = (if d = 127 then BitVec.ofNat 64 n &&& s.pth.owned else BitVec.ofNat 64 n)
        ∧ (∀ j, j ≠ d → t.grp.sraw s.fpath j = s.grp.sraw s.fpath j) ∧ t.pth = { s.pth with pc := pc, park := h.pk, mask := t.pth.mask }
        ∧ (n ≠ 0 → ∀ y ∈ s.tick.tokenSync x, (y.locs ≠ [] → (y.locs, y.at_) ∈ t.grp.obs.seen)
            ∧ ((∃ r ∈ y.rels, covers r.2 r.1 (s.who s.grp) = true ∧ covers scp (s.who s.grp) r.1 = true) → y.at_ ≤ t.grp.obs.floor))
        ∧ ∀ j, t.eng j = if j = k ∧ cur = true ∧ 2 ≤ n then { s.eng j with held := false } else s.eng j
    let refused (i : Instr) : Prop := s.Issues i → exec i s = .next (s.sysTrapped i { cause := 4, reason := 14, addr := x, info0 := x })
    (s.tick.token x = some (k, cur) →
        told (.ttest h scp d a) (s.pc + 8) ∧ told (.twait h scp d a) (s.pc + 8) ∧ (s.Issues (.twait h scp d a) → n ≠ 0)
          ∧ (n ≠ 0 → told (.twaitY h scp d a off) (s.pc + 8 * off.signExtend 64))
          ∧ (s.Issues (.twaitY h scp d a off) → n = 0 → Completes (exec (.twaitY h scp d a off) s) fun t =>
              s.Elsewhere t ∧ t.grp = { s.grp with obs := s.grp.obsAs t.grp, p0 := t.grp.p0, p1 := t.grp.p1 }
                ∧ t.pth = { s.pth with park := h.pk, st := .waiting, wait := some ⟨3, x, s.pc + 8 * off.signExtend 64, d, 0, none, scp, 0⟩ }))
      ∧ (s.tick.token x = none → refused (.ttest h scp d a) ∧ refused (.twait h scp d a) ∧ refused (.twaitY h scp d a off))

/-- O35. (07 R248 to R250, 14 R423, R424, R428; 05 R157, R158). Read sections are counted on their core in its colour; a section that ends is counted
ended once the group's accesses and its streams' reads are performed, and stays counted for the key-cache commands that it protects; `gsync`
requests a grace period and waits for its target; `dfree` appends its address, in the ring too (its place is log entry 57), and requests one;
that `rsb` sees every write performed so far is log entry 5; with a full ring it waits, or in a section traps. (14 R423 to R430, R405, R422, 07
R250). The grace tracker: a sweep before its interval changes nothing; one that finds a drained period ends it, with GSQ one more; the entries up
to it are released, except those that are held back; a requested period flips the colour. A released entry of a counted pool clears the count of
its block, one of a queued pool appends its completion record; a `gsync` whose target is reached goes on, with GSQ in its register over what the
other path has written there (the model's choice: log entry 108). The new TAIL, and the record for loads of any order, are releases at `.dev`.
GSQ of the record is the number before the increment (the model's choice: log entry 57). The colour that arrives at a core is its partition's. -/
def Obligations.SectionsAndGrace : Prop :=
  (∀ (s : State) (pk : Bool) (h : Hdr) (d a b : Nat),
      let g := s.grp
      let col := (s.core g.core).colour
      let open_ (p : Part) (col : Bool) : Nat := tget 0 p.oc (g.core * 2 + b2n col)
      let kept (p : Part) (c : Nat) (col : Bool) : Nat := tget 0 p.kc (c * 2 + b2n col)
      let i : Instr := .dfree h a b
      let x := s.tick.rs a
      let y := s.tick.rs b
      let ils (i : Instr) (n : Nat) (v w : W64) : Prop :=
        exec i s = .next (s.sysTrapped i { cause := 4, reason := n, addr := v, info0 := v, info1 := w })
      let v := s.tick.performAll s.focus
      let p := v.part g.part
      let at_ := p.dfqa + 32 * p.dfPlace
      (s.Issues (.rsb pk) → g.rsd = 0 → Completes (exec (.rsb pk) s) fun t =>
          s.Settles t ∧ s.OtherGroups t ∧ s.Goes t (s.pc + 8) pk []
            ∧ t.grp = { g with rsd := 1, col := col, wdt := 0, sec := s.nextSec, sbuf := t.grp.sbuf, ends := t.grp.ends, obs := t.grp.obs,
                               p0 := t.grp.p0, p1 := t.grp.p1 }
            ∧ s.now ≤ t.grp.obs.floor ∧ t.nextSec = s.nextSec + 1
            ∧ (g.ends = [] → open_ (t.part g.part) col = open_ (s.part g.part) col + 1))
        ∧ (s.Issues (.rsb pk) → 0 < g.rsd → g.rsd < 15 → Completes (exec (.rsb pk) s) fun t =>
            s.Elsewhere t ∧ s.Goes t (s.pc + 8) pk [] ∧ t.grp = { g with rsd := g.rsd + 1, p0 := t.grp.p0, p1 := t.grp.p1 })
        ∧ (s.Issues (.rsb pk) → g.rsd = 15 → ils (.rsb pk) 7 0 0)
        ∧ (s.Issues (.rse pk) → 1 < g.rsd → Completes (exec (.rse pk) s) fun t =>
            s.Elsewhere t ∧ s.Goes t (s.pc + 8) pk [] ∧ t.grp = { g with rsd := g.rsd - 1, p0 := t.grp.p0, p1 := t.grp.p1 })
        ∧ (s.Issues (.rse pk) → g.rsd = 1 → g.ends = [] → Completes (exec (.rse pk) s) fun t =>
            (∀ x, t.rb x = s.rb x) ∧ s.OtherGroups t ∧ s.Goes t (s.pc + 8) pk []
              ∧ t.grp = { g with rsd := 0, col := false, wdt := 0, ends := t.grp.ends, p0 := t.grp.p0, p1 := t.grp.p1 }
              ∧ (g.sbuf ≠ [] ∨ g.liveStreams ≠ [] → t.grp.ends = [⟨g.sbuf.length, g.liveStreams, g.col, g.sec⟩] ∧ t.parts = s.parts)
              ∧ (g.sbuf = [] → g.liveStreams = [] → t.grp.ends = [] ∧ open_ (t.part g.part) g.col = open_ (s.part g.part) g.col - 1
                  ∧ ∀ c, s.secCore g.sec = some c → kept (t.part g.part) c g.col = kept (s.part g.part) c g.col + 1))
        ∧ (s.Issues (.rse pk) → g.rsd = 0 → ils (.rse pk) 8 0 0)
        ∧ (s.Issues (.gsync pk d) → g.rsd = 0 → Completes (exec (.gsync pk d) s) fun t =>
            s.OtherGroups t ∧ s.grp.SameRegs t.grp ∧ t.grp.sbuf = [] ∧ (∀ x, t.rb x = v.rb x) ∧ (t.part g.part).pend = true
              ∧ t.pth = { s.pth with park := pk, st := .waiting, wait := some ⟨4, BitVec.ofNat 64 p.target, 0, d, 0, none, .ln, 0⟩ })
        ∧ (s.Issues (.gsync pk d) → 0 < g.rsd → ils (.gsync pk d) 9 0 0)
        ∧ (p.target = if p.drain = true then p.gsq + 2 else p.gsq + 1)
        ∧ (s.Issues i → s.tick.em h = 0#64 → OnlyGoes s h.pk (s.pc + 8) (exec i s))
        ∧ (s.Issues i → s.tick.em h ≠ 0#64 → s.tick.dfreeReason x y = 0 → (s.part g.part).dfqFull = false → Completes (exec i s) fun t =>
            s.OtherGroups t ∧ s.grp.SameRegs t.grp ∧ t.pc = s.pc + 8 ∧ (t.part g.part).pend = true
              ∧ (t.part g.part).dfq = p.dfq ++ [⟨x.toNat, bits y.toNat 16 8, bits y.toNat 0 16, p.target, p.dfPlace⟩]
              ∧ (at_ + 32 ≤ 2 ^ 51 → t.rnum at_ 8 = x.toNat ∧ t.rnum (at_ + 8) 8 = bits y.toNat 16 8 + bits y.toNat 0 16 * 2 ^ 16
                  ∧ t.rnum (at_ + 16) 16 = p.target % 2 ^ 128 ∧ ∀ z, (∀ k, k < 32 → z ≠ .gpa (at_ + k)) → t.rb z = v.rb z))
        ∧ (s.Issues i → s.tick.em h ≠ 0#64 → s.tick.dfreeReason x y ≠ 0 →
            exec i s = .next (s.sysTrapped i { cause := 3, reason := s.tick.dfreeReason x y, addr := x }))
        ∧ (2 ^ 57 ≤ x.toNat → s.tick.dfreeReason x y = 1)
        ∧ (s.Issues i → s.tick.em h ≠ 0#64 → s.tick.dfreeReason x y = 0 → (s.part g.part).dfqFull = true → 0 < g.rsd → ils i 10 x y)
        ∧ (s.canIssue = true → s.tick.dynReason i = 0 → s.tick.em h ≠ 0#64 → s.tick.dfreeReason x y = 0 → (s.part g.part).dfqFull = true → g.rsd = 0 →
            exec i s = .next s))
    ∧ (∀ (s : State) (part core : Nat), (tfind? s.parts part).isSome = true →
      let p := s.part part
      let r := (s.setPart part { p with gtick := 0 }).readPcb part
      let x := r.part part
      let past : Bool := x.drain && (r.partCores x).all (fun c => (r.core c).colour == x.cc) && r.openCount part x.old == 0
      let target := if past then x.gsq + 1 else x.gsq
      let flip : Bool := (past || !x.drain) && x.pend
      (p.gtick < p.gri → exec (.graceSweep part) s = .next s)
        ∧ (p.gri ≤ p.gtick → Completes (exec (.graceSweep part) s) fun t =>
            let y := t.part part
            y.gsq = target ∧ y.cc = (if flip then !x.cc else x.cc) ∧ y.old = (if flip then x.cc else x.old)
              ∧ y.drain = (flip || (x.drain && !past)) ∧ y.pend = (x.pend && !flip) ∧ y.gtick = 0
              ∧ y.dfq.Sublist x.dfq ∧ (∀ e ∈ x.dfq, target < e.target → e ∈ y.dfq))
        ∧ (p.gri ≤ p.gtick → x.dfq = [] → (past = false ∨ r.waitersOf 4 = []) → Completes (exec (.graceSweep part) s) fun t =>
            t.groups = s.groups ∧ ∀ y, t.rb y = s.rb y)
        ∧ (∀ e u, p.gri ≤ p.gtick → x.dfq = [e] → e.target ≤ target → r.release part e = some u → (past = false ∨ u.waitersOf 4 = []) →
            Completes (exec (.graceSweep part) s) fun t => (t.part part).dfq = [] ∧ ∀ y, t.rb y = u.rb y)
        ∧ (∀ e, p.gri ≤ p.gtick → x.dfq = [e] → r.release part e = none → (past = false ∨ r.waitersOf 4 = []) →
            Completes (exec (.graceSweep part) s) fun t => (t.part part).dfq = [e] ∧ ∀ y, t.rb y = s.rb y)
        ∧ (∀ (e : DfEnt) (z : Pool) (u : State) (ls : List Loc), r.poolEntry part e.pool = some z → (r.asRoot x z.asid).isSome = true → z.kind = 1 →
            r.trackLocs part z.asid (z.rcb + 4 * ((e.addr - z.base) / max z.bsz 1)) 4 = some (u, ls) →
            r.release part e = some (u.putLocs ls (recSt (leNat (ls.map u.rb)) 0)))
        ∧ (∀ (e : DfEnt) (z : Pool) (u v : State) (hd ls : List Loc), r.poolEntry part e.pool = some z → (r.asRoot x z.asid).isSome = true → z.kind = 2 →
            r.trackLocs part z.asid z.base 16 = some (u, hd) →
            let tail := leNat ((hd.take 8).map u.rb)
            let head := leNat ((hd.drop 8).map u.rb)
            (z.nblk ≤ (tail + 2 ^ 64 - head) % 2 ^ 64 → r.release part e = none)
              ∧ ((tail + 2 ^ 64 - head) % 2 ^ 64 < z.nblk → u.trackLocs part z.asid (z.base + 64 + 16 * (tail % max z.nblk 1)) 16 = some (v, ls) →
                  r.release part e =
                    some ((v.releaseLocs part .dev true ls (e.addr + e.sc * 2 ^ 64 + e.pool * 2 ^ 72 + x.gsq % 2 ^ 32 * 2 ^ 96)).releaseLocs part .dev
                      false (hd.take 8) ((tail + 1) % 2 ^ 64))))
        ∧ (∀ (scp : Scope) (plain : Bool) (ls : List Loc) (n : Nat), ls.Nodup → (∀ pa, Loc.gpa pa ∈ ls → pa < 2 ^ 51) →
            let t := s.releaseLocs part scp plain ls n
            (∀ y, y ∉ ls → t.rb y = s.rb y) ∧ ls.map t.rb = leBytes ls.length n ∧ t.groups = s.groups
              ∧ ∀ l ∈ ls, ∃ e ∈ t.rels, e.loc = l ∧ e.who = Who.fixed part ∧ e.scp = scp ∧ e.till = none ∧ e.plain = plain)
        ∧ (∀ (e : DfEnt), r.poolEntry part e.pool = none → r.release part e = none)
        ∧ (∀ (gk k : Nat) (w : Wait), let g := s.group gk
            k < 2 → (g.path k).wait = some w → w.wk = 4 → w.d < 127 → g.sbuf = [] →
            let t := s.gsyncComplete gk k
            ((t.group gk).path k).st = .ready ∧ ((t.group gk).path k).pc = (g.path k).pc + 8
              ∧ (t.group gk).sraw k w.d = BitVec.ofNat 64 (s.part g.part).gsq ∧ (∀ j, j ≠ gk → t.group j = s.group j) ∧ ∀ y, t.rb y = s.rb y)
        ∧ (∀ (d : Core), tfind? s.cores core = some d → (s.die (dieOf core)).part = some part → Completes (exec (.colourArrival core) s) fun t =>
            t.core core = { d with colour := p.cc } ∧ (∀ c, c ≠ core → t.core c = s.core c) ∧ t.groups = s.groups ∧ ∀ y, t.rb y = s.rb y))

/-- O36. (07 R251 to R254). Tile queues: a push stands in the ring or finds the queue closed or full, a pop takes the oldest entry, finds the queue
closed or waits; closing serves the waiting pops. A push and a close are releases at their scopes, the group's accesses performed first, and a
pop acquires its entry's push or the close at its own (log entry 5). A queue of another partition traps. (07 R253, R254, 14 R422). A waiting pop
of a resident group that is served has its entry and its status in the registers of its word, and its path goes on at the next word; it acquires
the push or the close at the scope of its word. Its registers take these values whatever the other path has written there meanwhile (log entry
108). -/
def Obligations.TileQueueWords : Prop :=
  (∀ (s : State) (h : Hdr) (scp : Scope) (d a b c cap ring : Nat),
      s.tick.em h ≠ 0#64 →
      let q := (s.tick.rs a).toNat
      let x := s.tick.tq q
      let v := s.tick.performAll s.focus
      let push : Instr := .tqpush h scp d a b c
      let pop : Instr := .tqpop h scp d a c
      let clear := s.grp.lostRemote = none ∨ scp ≠ .sys
      let give (t : State) (y : List Sync) (e0 e1 st : W64) : State :=
        (t.acquireFrom s.focus scp y).addPends .ld [.s d e0, .s (d + 1) e1, .s c st] (encode pop)
      let put := (v.wnum (ring + 16 * (x.tail % cap)) 8 (s.tick.rs b).toNat).wnum (ring + 16 * (x.tail % cap) + 8) 8 (s.tick.rs c).toNat
      let other (i : Instr) : Prop := s.Issues i → s.tick.ownQueue (s.tick.rs a) = none →
        exec i s = .next (s.sysTrapped i { cause := 3, reason := 5, addr := s.tick.rs a })
      (s.tick.ownQueue (s.tick.rs a) = some (cap, ring) →
          (s.Issues push → clear → x.closed = true → WritesScalar s h.pk d 2 (exec push s))
            ∧ (s.Issues push → clear → x.closed = false → x.waits = [] → cap ≤ x.tail - x.head → WritesScalar s h.pk d 0 (exec push s))
            ∧ (s.Issues push → clear → x.closed = false → x.waits = [] → x.tail - x.head < cap →
                exec push s = s.goesOn push
                  ((put.setTq q { x with tail := x.tail + 1, pushes := x.pushes ++ [put.syncOf s.focus scp] }).ws d 1))
            ∧ (∀ w ws, s.Issues push → clear → x.closed = false → x.waits = w :: ws →
                exec push s = s.goesOn push (((v.setTq q { x with waits := ws }).popComplete w (s.tick.rs b) (s.tick.rs c) 1 [v.syncOf s.focus scp]).ws d 1))
            ∧ (s.Issues pop → x.head < x.tail → exec pop s = s.goesOn pop (give (s.tick.setTq q { x with head := x.head + 1, pushes := x.pushes.drop 1 }) (x.pushes.take 1)
                (BitVec.ofNat 64 (s.rnum (ring + 16 * (x.head % cap)) 8)) (BitVec.ofNat 64 (s.rnum (ring + 16 * (x.head % cap) + 8) 8)) 1))
            ∧ (s.Issues pop → x.tail ≤ x.head → x.closed = true → exec pop s = s.goesOn pop (give s.tick x.closing.toList 0 0 0))
            ∧ (s.Issues pop → x.tail ≤ x.head → x.closed = false → Completes (exec pop s) fun t =>
                t.pth = { s.pth with park := h.pk, st := .waiting, wait := some ⟨5, s.tick.rs a, 0, d, c, none, scp, 0⟩ } ∧ s.OtherGroups t
                  ∧ s.grp.SameRegs t.grp ∧ (∀ y, t.rb y = s.rb y)
                  ∧ (t.tq q).waits = x.waits ++ [⟨s.grp.lid, s.grp.team, s.grp.gid, s.fpath⟩])
            ∧ (s.Issues (.tqclose h scp a) → clear → exec (.tqclose h scp a) s = s.goesOn (.tqclose h scp a)
                (x.waits.foldl (fun t w => t.popComplete w 0 0 0 [v.syncOf s.focus scp])
                  (v.setTq q { x with closed := true, waits := [], closing := if x.closed = true then x.closing else some (v.syncOf s.focus scp) })))
            ∧ (s.Issues (.tqcloseOpen h scp a) → clear →
                exec (.tqcloseOpen h scp a) s = s.goesOn (.tqcloseOpen h scp a) (v.setTq q { x with closed := false, closing := none })))
        ∧ other push ∧ other pop ∧ other (.tqclose h scp a) ∧ other (.tqcloseOpen h scp a))
    ∧ (∀ (s : State) (w : TqWait) (gk : Nat) (x : Wait) (e0 e1 st : W64) (ys : List Sync),
      s.findGroup w.lid w.team w.gid = some gk → w.path < 2 → ((s.group gk).path w.path).wait = some x → x.d + 1 < 127 → x.c < 127 → x.c ≠ x.d →
      x.c ≠ x.d + 1 →
      let t := s.popComplete w e0 e1 st ys
      let q := (t.group gk).path w.path
      q.st = .ready ∧ q.wait = none ∧ q.pc = ((s.group gk).path w.path).pc + 8
        ∧ (t.group gk).sraw w.path x.d = e0 ∧ (t.group gk).sraw w.path (x.d + 1) = e1 ∧ (t.group gk).sraw w.path x.c = st
        ∧ (∀ n, n ≠ x.d → n ≠ x.d + 1 → n ≠ x.c → (t.group gk).sraw w.path n = (s.group gk).sraw w.path n)
        ∧ (∀ y ∈ ys, (∃ r ∈ y.rels, covers r.2 r.1 (s.who (s.group gk)) = true ∧ covers x.scp (s.who (s.group gk)) r.1 = true) →
            y.at_ ≤ (t.group gk).obs.floor)
        ∧ ∀ j, j ≠ gk → t.group j = s.group j)

/-- O37. (09 R284 to R288, 10 R322). The command words: where the block passes its checks and a slot is free, the slot (the one that log entry 21
picks) holds the command with a token of the next sequence number, the command stands last in its team's queue, and the token is written; before,
a block with a release ORD performs the group's pending accesses, another those to scratchpad that meet the block (log entry 5). A block that
fails its checks traps, so does a group whose sixteen slots have all ended unobserved; a group whose slots are all busy waits. -/
def Obligations.CommandWords : Prop :=
  ∀ (s : State) (h : Hdr) (d a n : Nat),
    s.tick.em h ≠ 0#64 →
    let g := s.grp
    let x := s.tick.rs a
    let blk := s.tick.cmdBlock x.toNat
    let v := if bit (leNat blk) 12 then s.tick.performAll s.focus else s.tick.settleOwn s.focus (s.tick.blockLocs x.toNat)
    let clear := g.lostRemote = none ∨ bit (leNat blk) 12 = false ∨ bits (leNat blk) 8 3 ≠ 6
    let issued (i : Instr) (eng kind : Nat) : Prop :=
      (s.Issues i → clear → s.tick.cmdReason x = 0 → s.tick.slotRule eng = .take n →
        let k := slotKey g.core eng n
        let seq := if (v.eng k).used then ((v.eng k).seq + 1) % 2 ^ 32 else (v.eng k).seq
        Completes (exec i s) fun t =>
          t.eng k = { seq := seq, used := true, held := true, status := 0, team := g.team, gid := g.gid, lid := g.lid,
                      cmd := some (Cmd.new v.grp kind blk (mkToken g.core eng n seq) v.now),
                      wrote := [], past := (v.eng k).past }
            ∧ (∀ j, j ≠ k → t.eng j = v.eng j)
            ∧ ((t.team g.team).queue eng).cmds = ((v.team g.team).queue eng).cmds ++ [k]
            ∧ t.grp.sraw s.fpath d = (if d = 127 then mkToken g.core eng n seq &&& s.pth.owned else mkToken g.core eng n seq)
            ∧ (∀ j, j ≠ d → t.grp.sraw s.fpath j = s.grp.sraw s.fpath j) ∧ t.grp.vreg = g.vreg ∧ t.grp.preg = g.preg ∧ t.grp.tile = g.tile
            ∧ t.grp.fps = g.fps ∧ s.OtherGroups t ∧ (∀ x, t.rb x = v.rb x) ∧ t.pc = s.pc + 8)
      ∧ (s.Issues i → s.tick.cmdReason x ≠ 0 →
          exec i s = .next (s.sysTrapped i { cause := 3, reason := s.tick.cmdReason x, addr := s.tick.cmdBadAddr x }))
      ∧ (s.Issues i → s.tick.cmdReason x = 0 → s.tick.slotRule eng = .exhausted →
          exec i s = .next (s.sysTrapped i { cause := 4, reason := 15, addr := x, info0 := x }))
      ∧ (s.canIssue = true → s.tick.dynReason i = 0 → s.tick.cmdReason x = 0 → s.tick.slotRule eng = .hold → exec i s = .next s)
    issued (.cpy h d a) 0 1 ∧ issued (.cpym h d a) 0 2 ∧ issued (.gath h d a) 1 3 ∧ issued (.scat h d a) 1 4 ∧ issued (.xsect h d a) 1 5
      ∧ issued (.kvld h d a) 1 16 ∧ issued (.kvapp h d a) 1 17 ∧ issued (.kvwr h d a) 1 18 ∧ issued (.kvtrim h d a) 1 19
      ∧ issued (.kvsplice h d a) 1 20 ∧ issued (.kvshift h d a) 1 21

/-- O38. (09 R307 to R311). Streams: `sstr` configures one from its descriptor, `spop` takes the next round into its lanes, for elements of 8 bytes
into two registers; an element that could not be read traps where it is popped; a round whose reads wait for a member of the cluster is waited
for; `sdrop` removes the configuration. That `sstr` performs every pending access of the group is log entry 5. (09 R307, R310, 15 R444, R449).
The engine fetches a stream's rounds ahead; where an element's page is not there the stream waits for the fault service, and where one waits for
a member of the cluster, that is kept for the `spop` (01 R30). -/
def Obligations.Streams : Prop :=
  (∀ (s : State) (h : Hdr) (k a d p : Nat),
      s.tick.em h ≠ 0#64 →
      let g := s.grp
      let x := g.stream k
      let r := x.rounds.headD ⟨[], []⟩
      let wide := x.fld 8 2 = 3
      let val (l : Nat) : W32 × W32 := match tfind? r.vals l with | some v => x.value v | none => (0, 0)
      let ls := lanesOf (s.tick.em h)
      let vecs (i : Instr) : List Pend := vecPends s .ld d (ls.map fun l => (l, (val l).1)) (encode i)
        ++ if wide then vecPends s .ld (d + 1) (ls.map fun l => (l, (val l).2)) (encode i) else []
      let inside : Pend := ⟨.ld, .p p (s.tick.em h) (maskOf (ls.filter fun l => decide (x.rnd * g.w + l < x.fld 192 32))), s.pc,
        BitVec.ofNat 64 (encode (.spopPred h d k p)), [], 0⟩
      let eff (y : Stream) (new : List Pend) (t : State) : Prop :=
        s.OtherGroups t ∧ (∀ x, t.rb x = s.rb x) ∧ s.Goes t (s.pc + 8) h.pk new ∧ (g.ends = [] → t.parts = s.parts)
          ∧ t.grp = { g with streams := tset Stream.init g.streams k y, ends := t.grp.ends, p0 := t.grp.p0, p1 := t.grp.p1 }
      let popped (i : Instr) (more : List Pend) : Prop := s.Issues i →
        (x.cfg = true → (wide → d + 1 < g.nv ∧ d % 2 = 0) → s.tick.streamStall x = none → (∀ f ∈ r.faults, f.lane ∉ ls) →
            Completes (exec i s) (eff { x with rnd := x.rnd + 1, rounds := x.rounds.drop 1 } (vecs i ++ more)))
          ∧ (x.cfg = false → exec i s = .next (s.sysTrapped i { cause := 4, reason := 16 }))
          ∧ (x.cfg = true → wide → g.nv ≤ d + 1 → exec i s = .next (s.sysTrapped i { cause := 1, reason := 11 }))
          ∧ (x.cfg = true → wide → d + 1 < g.nv → d % 2 = 1 → exec i s = .next (s.sysTrapped i { cause := 4, reason := 16 }))
          ∧ (∀ wk n, x.cfg = true → (wide → d + 1 < g.nv ∧ d % 2 = 0) → s.tick.streamStall x = some (wk, n) →
              Completes (exec i s) fun t => s.Stalls t wk n)
          ∧ (∀ f, x.cfg = true → (wide → d + 1 < g.nv ∧ d % 2 = 0) → s.tick.streamStall x = none → r.faults.find? (fun f => ls.contains f.lane) = some f →
              exec i s = .next (s.sysTrapped i { cause := 3, reason := 6, addr := f.addr, lane := f.lane }))
      let y := s.tick.rs a
      let sstr (n : Nat) : Prop :=
        exec (.sstr h k a) s = .next (s.sysTrapped (.sstr h k a) { cause := if n = 16 then 4 else 3, reason := n, addr := y })
      let fits := y.toNat < 2 ^ 22 ∧ y.toNat + 64 ≤ (s.team g.team).spb
      (s.Issues (.sstr h k a) →
          (fits → y.toNat % 64 = 0 → streamOk (s.tick.cmdBlock y.toNat) = true → Completes (exec (.sstr h k a) s) fun t =>
            s.OtherGroups t ∧ s.grp.SameRegs t.grp ∧ s.Goes t (s.pc + 8) h.pk [] ∧ t.grp.sbuf = []
              ∧ (∀ x, t.rb x = (s.tick.performAll s.focus).rb x)
              ∧ t.grp.streams = tset Stream.init g.streams k { Stream.init with cfg := true, desc := s.tick.cmdBlock y.toNat })
            ∧ (¬ fits → sstr 2) ∧ (fits → y.toNat % 64 ≠ 0 → sstr 3)
            ∧ (fits → y.toNat % 64 = 0 → streamOk (s.tick.cmdBlock y.toNat) = false → sstr 16))
        ∧ (s.Issues (.sdrop h k) → Completes (exec (.sdrop h k) s) (eff Stream.init []))
        ∧ popped (.spop h d k) [] ∧ popped (.spopPred h d k p) [inside])
    ∧ (∀ (s u : State) (gk k n : Nat),
      (tfind? s.groups gk).isSome = true →
      let g := s.group gk
      let x := g.stream k
      let read := s.streamLanes gk x (n * g.w) ⟨[], []⟩ ((List.range g.w).filter fun l => decide (n * g.w + l < x.fld 192 32))
      let kept (t : State) : Prop := g.SameRegs (t.group gk) ∧ (∀ j, j ≠ gk → t.group j = s.group j) ∧ ∀ y, t.rb y = s.rb y
      (x.cfg = true → x.susp = none → x.rounds.length < 32 → x.rnd + x.rounds.length < x.nRounds g.w →
          x.nextRound g.w = some (x.rnd + x.rounds.length))
        ∧ (∀ rd, x.nextRound g.w = some n → read = (u, .ok rd) → Completes (exec (.streamFetch gk k) s) fun t =>
            kept t ∧ ((t.group gk).stream k) = { x with rounds := x.rounds ++ [rd], bad := [], stall := none })
        ∧ (∀ va why lvl, x.nextRound g.w = some n → read = (u, .error (.page va why lvl)) → Completes (exec (.streamFetch gk k) s) fun t =>
            kept t ∧ ∃ f ∈ (t.part g.part).faults, ((t.group gk).stream k) = { x with susp := some f.fid } ∧ f.covers g.asid va = true
              ∧ .stream g.lid g.team g.gid k ∈ f.att)
        ∧ (∀ rank, x.nextRound g.w = some n → read = (u, .error (.stall rank)) → Completes (exec (.streamFetch gk k) s) fun t =>
            kept t ∧ ((t.group gk).stream k) = { x with stall := some rank })
        ∧ (x.nextRound g.w = none → exec (.streamFetch gk k) s = .next s))

/-- O39. (02 R63). What a half gives for each half opcode, from the sources read at issue: a scalar, a value and its flags in each lane of its
effective mask, or a predicate in those lanes; a memory half gives nothing itself. (02 R63 to R67). A paired word: both halves read their sources
before either writes, and both write their results; with `lds.w` the loaded lanes stay outstanding, with `sts.w` the stored lanes join the
group's pending accesses. Where the memory half traps or waits neither writes. An enabled flag raises ARI after both have written and what the
group has stored is performed (01 R39); beside a sweep whose end may trap the word waits (log entry 83). -/
def Obligations.PairedWords : Prop :=
  (∀ (s : State) (h : Half), h.hi < 16 →
      let d := s.rs h.hd
      let b := s.rs h.hs
      let x := s.rv h.hd
      let y := s.rv h.hs
      let em := s.em ⟨h.hg, false, false⟩
      let k12 : BitVec 12 := BitVec.ofNat 12 (h.hs * 16 + h.hi)
      let lanes (f : Nat → W32 × FFlags) : HalfRes := .v h.hd ((lanesOf em).map fun l => (l, f l))
      let int (f : Nat → W32) : HalfRes := lanes fun l => (f l, 0#6)
      let bf (f : FV → FV → FV × FFlags) : HalfRes := lanes fun l =>
        let r (j : Nat) : Nat × FFlags := bf16.roundR .rne false (f (bf16.dec (elem 16 (x l) j)) (bf16.dec (elem 16 (y l) j)))
        (ofElems 16 fun j => (r j).1, orFlags ((List.range 2).map fun j => (r j).2))
      s.half h = match h.op with
        | .nop | .lds | .sts => .none
        | .sadd => .s h.hd (d + b)
        | .ssub => .s h.hd (d - b)
        | .sand => .s h.hd (d &&& b)
        | .sor => .s h.hd (d ||| b)
        | .sxor => .s h.hd (d ^^^ b)
        | .sshl => .s h.hd (b <<< h.hi)
        | .sshr => .s h.hd (b >>> h.hi)
        | .smov => .s h.hd b
        | .sli => .s h.hd (k12.signExtend 64)
        | .saddi => .s h.hd (b + BitVec.ofNat 64 h.hi)
        | .vadd => int fun l => x l + y l
        | .vsub => int fun l => x l - y l
        | .vand => int fun l => x l &&& y l
        | .vor => int fun l => x l ||| y l
        | .vxor => int fun l => x l ^^^ y l
        | .vmin => int fun l => if (y l).slt (x l) then y l else x l
        | .vmax => int fun l => if (x l).slt (y l) then y l else x l
        | .vmov => int y
        | .vshl => int fun l => y l <<< h.hi
        | .vshr => int fun l => y l >>> h.hi
        | .vsra => int fun l => (y l).sshiftRight h.hi
        | .vli => int fun _ => k12.signExtend 32
        | .vaddi => int fun l => y l + BitVec.ofNat 32 h.hi
        | .fadd => lanes fun l => rnd32 .rne false ((dec32 (x l)).add .rne (dec32 (y l)))
        | .fsub => lanes fun l => rnd32 .rne false ((dec32 (x l)).add .rne (dec32 (y l)).neg)
        | .fmul => lanes fun l => rnd32 .rne false ((dec32 (x l)).mul (dec32 (y l)))
        | .fmin => int fun l => (laneMinMax false (x l) (y l) 0).1
        | .fmax => int fun l => (laneMinMax true (x l) (y l) 0).1
        | .hadd2 => bf fun p q => p.add .rne q
        | .hmul2 => bf fun p q => p.mul q
        | .pand => .p h.hd em (s.rpm h.hd &&& s.rpm h.hs)
        | .por => .p h.hd em (s.rpm h.hd ||| s.rpm h.hs)
        | .pxor => .p h.hd em (s.rpm h.hd ^^^ s.rpm h.hs)
        | .pnot => .p h.hd em (~~~(s.rpm h.hs))
        | .pmov => .p h.hd em (s.rpm h.hs))
    ∧ (∀ (s u : State) (pk : Bool) (h0 h1 m : Half) (l : List (Acc × List Loc)) (tr : Trap) (wk rank : Nat),
      let i : Instr := .pairedWord pk h0 h1
      let r0 := s.tick.half h0
      let r1 := s.tick.half h1
      let flags := r0.flags ++ r1.flags
      let fl := orFlags (flags.map (·.2))
      let sc (n : Nat) : HalfRes → Option W64 | .s d v => if d = n then some v else none | _ => none
      let ve (n l : Nat) : HalfRes → Option W32
        | .v d ls => if d = n then (ls.find? fun e => e.1 == l).map fun e => e.2.1 else none
        | _ => none
      let pr (n l : Nat) : HalfRes → Option Bool | .p d ls vs => if d = n ∧ mbit ls l = true then some (mbit vs l) else none | _ => none
      let both {α : Type} (f : HalfRes → Option α) : Option α := (f r1).or (f r0)
      let wrote (t : State) : Prop :=
        (∀ n, t.grp.sraw s.fpath n = ((both (sc n)).map fun v => if n = 127 then v &&& s.pth.owned else v).getD (s.grp.sraw s.fpath n))
          ∧ (∀ n l, l < 64 → t.grp.lane n l = (both (ve n l)).getD (s.grp.lane n l))
          ∧ (∀ n l, l < 64 → mbit (t.grp.pred n) l = (both (pr n l)).getD (mbit (s.grp.pred n) l))
          ∧ t.grp.fps = s.grp.fps ||| fl.setWidth 64 ∧ s.OtherGroups t ∧ t.grp.path (1 - s.fpath) = s.grp.path (1 - s.fpath)
          ∧ t.grp = { s.grp with sreg := t.grp.sreg, vreg := t.grp.vreg, preg := t.grp.preg, fps := t.grp.fps, sbuf := t.grp.sbuf,
                                 ends := t.grp.ends, obs := t.grp.obs, p0 := t.grp.p0, p1 := t.grp.p1 }
      let on (t : State) (new : List Pend) : Prop :=
        t.pth = { s.pth with pc := s.pc + 8, park := pk, mask := t.pth.mask, pend := t.pth.pend }
          ∧ t.pth.pend.map Pend.plain = (s.pth.pend ++ new).map Pend.plain
      let vals := (l.foldl (fun acc x => ((readCurrent halfMem (s.grp.depOf (.v, m.hs)) acc.1 x.1 x.2).1,
        acc.2 ++ [(x.1.lane, leNat (readCurrent halfMem (s.grp.depOf (.v, m.hs)) acc.1 x.1 x.2).2.bytes)])) (u, ([] : List (Nat × Nat)))).2
      let cells (x : Acc × List Loc) : List (Loc × Byte) := x.2.zip (leBytes 4 (s.tick.rv m.hs x.1.lane).toNat)
      let at_ (r : Nat) : List Acc := (lanesOf (s.tick.em ⟨m.hg, false, false⟩)).map fun l =>
        ⟨l, ((s.tick.rv r l).setWidth 64 + BitVec.ofNat 64 (4 * m.hi)).toNat, 4⟩
      let lost (chk : State × Checked) : Prop :=
        (chk = (u, .trap tr) → exec i s = .next (s.sysTrapped i tr)) ∧ (chk = (u, .stall wk rank) → Completes (exec i s) fun t => s.Stalls t wk rank)
      let ari : Prop := s.grp.enabled fl ≠ 0#6 ∧ s.grp.hpc ≠ 0 ∧ s.grp.uhc = 0 ∧ ∀ q ∈ s.pth.pend, q.tpc ≠ s.pc
      let raised (t : State) : Prop :=
        t.pc = s.grp.hpc ∧ s.OtherGroups t ∧ t.grp.sbuf = [] ∧ tget 0#64 t.grp.sreg 120 = s.pc ∧ tget 0#64 t.grp.sreg 121 = 3
          ∧ tget 0#64 t.grp.sreg 122 = BitVec.ofNat 64 fl.toNat
          ∧ (∀ l, l < 64 → mbit (tget 0#64 t.grp.sreg 123) l = flags.any fun e => e.1 == l && decide (s.grp.enabled e.2 ≠ 0#6))
          ∧ (∀ n, n < 120 → tget 0#64 t.grp.sreg n = (both (sc n)).getD (tget 0#64 s.grp.sreg n))
          ∧ (∀ n l, l < 64 → t.grp.lane n l = (both (ve n l)).getD (s.grp.lane n l))
          ∧ t.grp.fps = s.grp.fps ||| fl.setWidth 64
      s.Issues i →
        ([h0, h1].find? halfIsMem = none →
            (s.grp.enabled fl = 0#6 → Completes (exec i s) fun t => wrote t ∧ on t [] ∧ s.Elsewhere t ∧ t.grp.sbuf = s.grp.sbuf)
              ∧ (ari → s.grp.later = false → Completes (exec i s) fun t => raised t ∧ (s.performAll s.focus).Elsewhere t)
              ∧ (ari → s.grp.later = true → exec i s = .next s))
          ∧ ([h0, h1].find? halfIsMem = some m → m.op = .lds →
              let chk := s.tick.check s.focus false false .read (at_ m.hs)
              lost chk ∧ (s.grp.enabled fl = 0#6 → chk = (u, .ok l) → Completes (exec i s) fun t => wrote t ∧ s.Settles t
                ∧ on t ((loadResults .lane m.hd 4 false vals).map fun r => ⟨.ld, r, s.pc, BitVec.ofNat 64 (encode i), [], 0⟩)))
          ∧ ([h0, h1].find? halfIsMem = some m → m.op = .sts →
              let chk := s.tick.check s.focus false false .write (at_ m.hd)
              lost chk ∧ (s.grp.enabled fl = 0#6 → chk = (u, .ok l) → Completes (exec i s) fun t => wrote t ∧ on t [] ∧ s.ElsewhereButTlb t
                ∧ ∃ new : List Access, t.grp.sbuf = s.grp.sbuf ++ new
                  ∧ (∀ y, sbufByte new y = ((l.flatMap cells).reverse.find? fun c => c.1 = y).map (·.2))
                  ∧ ∀ b ∈ new, b.rel = false ∧ b.scps = s.grp.obs.fenced
                    ∧ ∃ x ∈ l, b.lanes = 1#64 <<< x.1.lane ∧ (∀ c ∈ b.cells, c ∈ cells x)
                      ∧ (x.1.addr % 4 = 0 ∨ b.cells.length = 1 ∨ ∃ t w, ∀ c ∈ b.cells, ∃ o, c.1 = .sp t o ∧ o / 4 = w))
                ∧ (ari → s.grp.later = false → chk = (u, .ok l) → Completes (exec i s) fun t => raised t
                  ∧ ∀ y, t.rb y = (((l.flatMap cells).reverse.find? fun c => c.1 = y).map (·.2)).getD ((s.performAll s.focus).rb y))))

/-- O40. (08 R255, R256, R263 to R265, R268, R269). The words on the format mode and on tile registers; behind a `qmm` that waits, a tile word's step
waits in the tile unit (log entry 97). -/
def Obligations.TileRegisterWords : Prop :=
  ∀ (s : State) (h : Hdr) (i32 clr : Bool) (d a : Nat),
    s.tick.em h ≠ 0#64 →
    let g := s.grp
    let em := s.tick.em h
    let p (i : Instr) (r : PRes) : List Pend := [⟨.tile, r, s.pc, BitVec.ofNat 64 (encode i), [], 0⟩]
    let goes (i : Instr) (new : List Pend) (q : State → Prop) : Prop := s.Issues i → Completes (exec i s) fun t =>
      s.Elsewhere t ∧ s.Goes t (s.pc + 8) h.pk new ∧ q t
    let tiles (i : Instr) (eff : Group → Group → Prop) (res : Group → List PRes) : Prop := s.Issues i → Completes (exec i s) fun t =>
      s.Elsewhere t ∧ s.TileSteps t i eff res ∧ t.grp.sbuf = g.sbuf ∧ t.grp.ends = g.ends ∧ t.grp.obs = g.obs
    let others (o n : Group) : Prop :=
      (∀ k, k ≠ d → n.status k = o.status k) ∧ ∀ k r c, k ≠ d → r < 64 → c < 16 → n.elem k r c = o.elem k r c
    (fmOk (s.tick.rs a) = true → goes (.sfmt h a) [] fun t => t.grp = { g with fm := s.tick.rs a, p0 := t.grp.p0, p1 := t.grp.p1 })
      ∧ (fmOk (s.tick.rs a) = true → goes (.sfmtSwap h d a) (p (.sfmtSwap h d a) (.s d g.fm)) fun t =>
          t.grp = { g with fm := s.tick.rs a, p0 := t.grp.p0, p1 := t.grp.p1 })
      ∧ (fmOk (s.tick.rs a) = false → s.Issues (.sfmt h a) →
          exec (.sfmt h a) s = .next (s.sysTrapped (.sfmt h a) { cause := 1, reason := 12 }))
      ∧ tiles (.tscl h d a) (fun o n => others o n
          ∧ (n.status d = if o.inv d = true then o.status d else o.status d ||| stickyBits (orFlags ((lanesOf em).flatMap fun r =>
              (List.range 16).map fun c => (flMul (o.elem d r c, 0#6) (s.tick.rv a r, 0#6)).2)) false)
          ∧ ∀ r c, r < 64 → c < 16 → n.elem d r c =
              if o.inv d = false ∧ mbit em r = true then (flMul (o.elem d r c, 0#6) (s.tick.rv a r, 0#6)).1 else o.elem d r c) (fun _ => [.t d])
      ∧ tiles (.tmovToTile h d a) (fun o n => others o n ∧ n.status d = o.status d
          ∧ ∀ r c, r < 64 → c < 16 → n.elem d r c = if o.inv d = false ∧ mbit em r = true then s.tick.rv (a + c) r else o.elem d r c)
          (fun _ => [.t d])
      ∧ tiles (.tmov h i32 d a) (fun o n => n = { o with p0 := n.p0, p1 := n.p1 })
          (fun o => (List.range 16).map fun n => .v (d + n) ((lanesOf em).map fun l => (l, o.readElem i32 a l n)))
      ∧ tiles (.tzero h d) (fun o n => others o n ∧ n.status d = 0#32 ∧ ∀ r c, r < 64 → c < 16 → n.elem d r c = 0#32) (fun _ => [.t d])
      ∧ tiles (.tstat h clr d a) (fun o n => n.tile = o.tile ∧ (∀ k, k ≠ a ∨ clr = false → n.status k = o.status k)
          ∧ ∀ j, j < 32 → clr = true → (n.status a).getLsbD j = ((o.status a).getLsbD j && !(decide (1 ≤ j) && decide (j ≤ 4))))
          (fun o => [.s d (BitVec.ofNat 64 (o.status a).toNat)])

/-- O41. (08 R266, R270). `tzero` sets all 16 elements of all 64 rows to zero and clears the status word, whatever the effective mask, provided it is
not empty; `tstat` gives the status word, zero-extended, and with `clr` clears SAT, NV, OF and HSM in the same step; INV and ILR stay. This is
the step where no `qmm` of the group waits; behind one it waits in the tile unit (TileRegisterWords). -/
def Obligations.TileZeroAndStatus : Prop :=
  ∀ (s : State) (h : Hdr) (clr : Bool) (d a : Nat), s.grp.tileBusy = false →
    let g := s.grp
    let p (i : Instr) (r : PRes) : List Pend := [⟨.tile, r, s.pc, BitVec.ofNat 64 (encode i), [], 0⟩]
    (s.Issues (.tzero h d) → s.tick.em h ≠ 0#64 → Completes (exec (.tzero h d) s) fun t =>
        s.Elsewhere t ∧ s.Goes t (s.pc + 8) h.pk (p (.tzero h d) (.t d))
          ∧ t.grp = { g with tile := t.grp.tile, tstat := t.grp.tstat, p0 := t.grp.p0, p1 := t.grp.p1 }
          ∧ (∀ k, t.grp.status k = if k = d then 0#32 else g.status k)
          ∧ ∀ k r n, r < 64 → n < 16 → t.grp.elem k r n = if k = d then 0#32 else g.elem k r n)
      ∧ (s.Issues (.tzero h d) → s.tick.em h = 0#64 → OnlyGoes s h.pk (s.pc + 8) (exec (.tzero h d) s))
      ∧ (s.Issues (.tstat h clr d a) → s.tick.em h ≠ 0#64 → Completes (exec (.tstat h clr d a) s) fun t =>
          s.Elsewhere t ∧ s.Goes t (s.pc + 8) h.pk (p (.tstat h clr d a) (.s d (BitVec.ofNat 64 (g.status a).toNat)))
            ∧ t.grp = { g with tstat := t.grp.tstat, p0 := t.grp.p0, p1 := t.grp.p1 }
            ∧ (∀ k, k ≠ a ∨ clr = false → t.grp.status k = g.status k)
            ∧ ∀ j, j < 32 → clr = true → (t.grp.status a).getLsbD j = ((g.status a).getLsbD j && !(decide (1 ≤ j) && decide (j ≤ 4))))

/-- O42. (08 R261, R263, R267, R271 to R276, 10 R320, 16 R476; 01 R39). The words that move tiles, blocks and the frequency table between memory and
the group. Every access is checked, those of aligned rows one after the other; a word that reads gets the group's own bytes, each aligned 4-byte
word as one; what is written waits among the group's pending accesses, 4 bytes each. Behind a `qmm` that waits, `tld` has read and `tst` has been
checked, and their steps wait in the tile unit (log entry 97). A block that does not fit raises OVF, an ill-formed one with ILT = 1 ILF, where
`dec` has stored its NaN; beside a sweep whose end may trap they wait (log entry 83). -/
def Obligations.TileMemoryWords : Prop :=
  ∀ (s u v w : State) (h : Hdr) (i32 full glob bf : Bool) (d a pa wk rank : Nat) (l dl : List (Acc × List Loc)) (bs : List (W64 × List Line))
    (tr : Trap),
    s.tick.em h ≠ 0#64 →
    let x := s.tick.rs a
    let em := s.tick.em h
    let rows := moveRows full em
    let g := s.grp
    let locs (l : List (Acc × List Loc)) : List Loc := l.flatMap fun y => y.2
    let kept (t : State) : Group := { g with sbuf := t.grp.sbuf, ends := t.grp.ends, obs := t.grp.obs, p0 := t.grp.p0, p1 := t.grp.p1 }
    let goes (i : Instr) (new : List Pend) (q : State → Prop) : Prop := s.Issues i → Completes (exec i s) fun t =>
      s.OtherGroups t ∧ s.Goes t (s.pc + 8) h.pk new ∧ q t
    let valid (as : List Acc) : Prop := ∀ y ∈ as, s.tick.invalid glob y = none
    let fails (i : Instr) (k : AKind) (as : List Acc) : Prop := s.Issues i →
      (x.toNat % 128 = 0 → s.tick.check s.focus glob false k as = (u, .trap tr) → exec i s = .next (s.sysTrapped i tr))
        ∧ (x.toNat % 128 = 0 → s.tick.check s.focus glob false k as = (u, .stall wk rank) → Completes (exec i s) fun t => s.Stalls t wk rank)
        ∧ (x.toNat % 128 ≠ 0 → valid as →
            exec i s = .next (s.sysTrapped i { cause := 3, reason := 3, addr := x, wr := k.wr }))
    let appended (cells : Group → List (Loc × Byte)) (o n : Group) : Prop := n = { o with sbuf := n.sbuf }
      ∧ ∃ new : List Access, n.sbuf = o.sbuf ++ new ∧ (∀ y, sbufByte new y = ((cells o).reverse.find? fun c => c.1 = y).map (·.2))
        ∧ ∀ b ∈ new, b.rel = false ∧ b.scps = o.obs.fenced ∧ b.lanes = em ∧ b.cells.length ≤ 4
    let stored (cells : List (Loc × Byte)) (t : State) : Prop := ∃ (old new : List Access), t.grp.sbuf = old ++ new
      ∧ ((old = g.sbuf ∧ ∀ y, t.rb y = s.rb y) ∨ (old = [] ∧ ∀ y, t.rb y = (s.performAll s.focus).rb y))
      ∧ (∀ y, sbufByte new y = (cells.reverse.find? fun c => c.1 = y).map (·.2))
      ∧ ∀ b ∈ new, b.rel = false ∧ b.scps = g.obs.fenced ∧ b.lanes = em ∧ b.cells.length ≤ 4
    let stores (cells : List (Loc × Byte)) (t : State) : Prop := t.grp = kept t ∧ stored cells t
    let image (o : Group) : List (Loc × Byte) := (rows.zip l).flatMap fun r =>
      r.2.2.zip ((List.range 16).flatMap fun n => leBytes 4 (o.readElem i32 d r.1 n).toNat)
    let row (k n : Nat) : W32 := BitVec.ofNat 32 (leNat (((((u.readRanges u.focus (l.map fun y => y.2)).2.getD k []).drop (4 * n)).take 4)))
    let handler (c : Nat) (i0 i1 : W64) (t : State) : Prop := s.OtherGroups t ∧ t.pc = g.hpc ∧ tget 0#64 t.grp.sreg 120 = s.pc
      ∧ tget 0#64 t.grp.sreg 121 = BitVec.ofNat 64 c ∧ tget 0#64 t.grp.sreg 122 = i0 ∧ tget 0#64 t.grp.sreg 123 = i1
    (fails (.tld h full glob d a) .read (rowAccs x rows) ∧ fails (.tst h i32 full glob d a) .write (rowAccs x rows))
      ∧ (x.toNat % 128 = 0 → s.tick.check s.focus glob false .read (rowAccs x rows) = (u, .ok l) →
        (g.deaf = none → s.Issues (.tld h full glob d a) → Completes (exec (.tld h full glob d a) s) fun t =>
          s.Settles t ∧ s.TileSteps t (.tld h full glob d a) (fun o n =>
            (∀ k, n.status k = if k = d ∧ full = true then 0#32 else o.status k)
              ∧ (∀ k r c, k ≠ d → r < 64 → c < 16 → n.elem k r c = o.elem k r c)
              ∧ (∀ j r c : Nat, rows[j]? = some r → c < 16 → (full = true ∨ o.inv d = false) → n.elem d r c = row j c)
              ∧ ∀ r c, r < 64 → c < 16 → (r ∉ rows ∨ (full = false ∧ o.inv d = true)) → n.elem d r c = o.elem d r c) (fun _ => [.t d]))
          ∧ (u.noAnswer s.focus (locs l) = some pa → s.Issues (.tld h full glob d a) → exec (.tld h full glob d a) s =
              .next (s.sysTrapped (.tld h full glob d a) { cause := 9, reason := 0, addr := BitVec.ofNat 64 pa, adv := true })))
      ∧ (x.toNat % 128 = 0 → s.tick.check s.focus glob false .write (rowAccs x rows) = (u, .ok l) →
          (g.tileBusy = false → goes (.tst h i32 full glob d a) [] fun t => (∀ y, t.rb y = s.rb y)
              ∧ appended image g { t.grp with p0 := g.p0, p1 := g.p1 })
            ∧ (g.tileBusy = true → goes (.tst h i32 full glob d a) [] fun t => (∀ y, t.rb y = s.rb y)
                ∧ ∃ x : TStep, t.grp = { g with tileq := g.tileq ++ [x], p0 := t.grp.p0, p1 := t.grp.p1 }
                  ∧ ∀ o, appended image o (o.tileWrite x.op) ∧ o.tileResults x.op = []))
      ∧ (x.toNat % 128 = 0 → s.tick.check s.focus false false .read [⟨0, x.toNat, 512⟩] = (u, .ok l) →
          goes (.rset h a) [] fun t => s.Settles t ∧ t.grp = { kept t with fq := t.grp.fq }
            ∧ ∀ j, j < 128 → fqAt t.grp.fq j = BitVec.ofNat 32 (leNat (((u.readWide u.focus (locs l)).2.drop (4 * j)).take 4)))
      ∧ (let k0 := if fmEhs g.fm = 2 then 32 else 16
         let dst := s.tick.rs d &&& ~~~127#64
         let src := lineAccs x.toNat ((if bf then 2 else 4) * 16 * k0)
         let out := (List.range (k0 / 16 * blockLines (fmEbf g.fm) (fmEcap g.fm))).map fun i => (⟨0, (dst + BitVec.ofNat 64 (128 * i)).toNat, 128⟩ : Acc)
         let read := u.readWide u.focus (locs l)
         let blocks := (List.range (k0 / 16)).map (encElems (encTransform (fmEhs g.fm) (encSource bf k0 read.2)))
         x.toNat % 64 = 0 → s.tick.check s.focus false false .read src = (u, .ok l) →
         read.1.check u.focus glob false .write out = (v, .ok dl) →
         ((∀ b ∈ blocks, overs g.fm b = []) → goes (.enc h bf glob d a) [] (stores ((locs dl).zip ((blocks.flatMap (encodeBlock g.fm)).flatten))))
           ∧ (∀ b, (List.range (k0 / 16)).find? (fun b => !(overs g.fm (blocks.getD b [])).isEmpty) = some b →
               s.Issues (.enc h bf glob d a) → g.hpc ≠ 0 → g.uhc = 0 →
               (g.later = true → exec (.enc h bf glob d a) s = .next s) ∧ (g.later = false → Completes (exec (.enc h bf glob d a) s) fun t =>
                 s.Settles t ∧ handler 1 (ovfInfo g.fm x b (blocks.getD b [])).1 (ovfInfo g.fm x b (blocks.getD b [])).2 t)))
      ∧ (let dst := s.tick.rs d
         let z := if bf then 2 else 4
         let as := lineAccs dst.toNat (256 * z)
         let blk := (bs.getD 0 (0, [])).2
         let cells (f : Nat → Nat) : List (Loc × Byte) := (locs dl).zip ((List.range 256).flatMap fun i => leBytes z (f i))
         let nan := cells fun _ => if bf then 0x7fc0 else 0x7fc00000
         (∀ k, fetchRun glob 1 (x &&& ~~~127#64) s.tick [] k = k u bs) → dst.toNat % 64 = 0 →
         u.check u.focus false false .write as = (w, .ok dl) →
         (judgeBlock .free blk = none → goes (.dec h bf glob d a) [] (stores (cells fun i => decElem bf blk (i % 16) (i / 16))))
           ∧ (∀ ln why, judgeBlock .free blk = some (ln, why) → fmIlt g.fm = false → goes (.dec h bf glob d a) [] (stores nan))
           ∧ (∀ ln why, judgeBlock .free blk = some (ln, why) → fmIlt g.fm = true → s.Issues (.dec h bf glob d a) → g.hpc ≠ 0 → g.uhc = 0 →
               (g.later = true → exec (.dec h bf glob d a) s = .next s)
               ∧ (g.later = false → Completes (exec (.dec h bf glob d a) s) fun t =>
                 t.grp.sbuf = [] ∧ (∀ y, t.rb y = ((nan.reverse.find? fun c => c.1 = y).map (·.2)).getD ((s.performAll s.focus).rb y))
                 ∧ handler 2 ((bs.getD 0 (0, [])).1 + BitVec.ofNat 64 (128 * ln)) (BitVec.ofNat 64 (why + 2 ^ 12)) t)))
      ∧ ∀ ls : List (List Loc), g.sbuf = [] → s.hist = [] → s.rels = [] → s.readRanges s.focus ls = (s, ls.map fun r => r.map s.rb)

/-- O43. (08 R257 to R265, R277 to R279; 03 R96 to R100). Split and dense products: where every block of the run is well formed and of a format the
word takes, each lane's row of the destination tile takes its products, column by column, and the tile's status gathers the flags; an invalid
tile keeps its contents; an ill-formed block makes the tile invalid with its reason. Behind a `qmm` that waits the step waits in the tile unit
(R263, log entry 97); a word that is to raise ILF waits for it, and beside a sweep whose end may trap (log entry 83). -/
def Obligations.Products : Prop :=
  ∀ (s u : State) (h : Hdr) (tb ta : Ty) (st glob : Bool) (c d a b : Nat) (bs : List (W64 × List Line)) (l : List (Acc × List Loc)),
    s.tick.em h ≠ 0#64 →
    let g := s.grp
    let em := s.tick.em h
    let goes (i : Instr) (eff : Group → Group → Prop) : Prop := s.Issues i → Completes (exec i s) fun t =>
      s.Settles t ∧ s.TileSteps t i (fun o n => (∀ k, k ≠ d → n.status k = o.status k)
        ∧ (∀ k r c, k ≠ d → r < 64 → c < 16 → n.elem k r c = o.elem k r c) ∧ eff o n) (fun _ => [.t d])
    let filled (f : Nat → Nat → W32 → Fl) (hsm : Bool) (o n : Group) : Prop :=
      (∀ r c, r < 64 → c < 16 → n.elem d r c = if o.inv d = false ∧ mbit em r = true then (f r c (o.elem d r c)).1 else o.elem d r c)
        ∧ n.status d = if o.inv d = true then o.status d else o.status d |||
            stickyBits (orFlags ((lanesOf em).flatMap fun r => (List.range 16).map fun c => (f r c (o.elem d r c)).2)) hsm
    let split (i : Instr) (accepts : Nat → Bool) (body : Bool) : Prop :=
      (∀ k, fetchRun glob c (s.tick.rs b &&& ~~~127#64) s.tick [] k = k u bs) →
      (firstBad accepts bs = none → goes i (filled (fun r n x => (List.range bs.length).foldl (fun acc j =>
          mergeBlock body (bs.getD j (0, [])).2 (aVal ta (s.tick.aRegs ta c a r) j) n acc) (x, 0#6))
          (bs.any fun y => decide ((lineHdr (y.2.getD 0 [])).hs ≠ fmAht g.fm))))
        ∧ (∀ j ln why, firstBad accepts bs = some (j, ln, why) → fmIlt g.fm = false → goes i fun o n =>
            n.status d = (o.status d &&& ~~~0xf00#32) ||| 1#32 ||| BitVec.ofNat 32 (why * 256) ∧ ∀ r c, n.elem d r c = o.elem d r c)
        ∧ (∀ j ln why, firstBad accepts bs = some (j, ln, why) → fmIlt g.fm = true → s.Issues i → g.hpc ≠ 0 → g.uhc = 0 →
            ((g.tileBusy = true ∨ g.later = true) → exec i s = .next s)
            ∧ (g.tileBusy = false → g.later = false → Completes (exec i s) fun t => t.pc = g.hpc ∧ s.OtherGroups t ∧ t.grp.sbuf = []
              ∧ t.grp.status d = (g.status d &&& ~~~0xf00#32) ||| 1#32 ||| BitVec.ofNat 32 (why * 256)
              ∧ (∀ k, k ≠ d → t.grp.status k = g.status k) ∧ (∀ k r c, t.grp.elem k r c = g.elem k r c)
              ∧ tget 0#64 t.grp.sreg 120 = s.pc ∧ tget 0#64 t.grp.sreg 121 = 2
              ∧ tget 0#64 t.grp.sreg 122 = (bs.getD j (0, [])).1 + BitVec.ofNat 64 (128 * ln)
              ∧ tget 0#64 t.grp.sreg 123 = BitVec.ofNat 64 (why + d * 2 ^ 8 + j * 2 ^ 16)))
    split (.smm h ta glob c d a b) (fun bf => decide (1 ≤ bf) && decide (bf ≤ 3)) true
      ∧ split (.smms h ta glob c d a b) (fun bf => decide (4 ≤ bf) && decide (bf ≤ 6)) true
      ∧ split (.pmm h ta glob c d a b) (fun bf => bf == 0) false
      ∧ (let z := bSize tb
         let as := (List.range (2 * z * c)).map fun i => (⟨0, ((s.tick.rs b &&& ~~~127#64) + BitVec.ofNat 64 (128 * i)).toNat, 128⟩ : Acc)
         let bytes := (u.readRanges u.focus (l.map fun y => y.2)).2.flatten
         s.tick.check s.focus glob false .read as = (u, .ok l) → g.deaf = none →
         goes (.dmm h tb ta st glob c d a b) (filled (fun r n x => denseElem tb ta st c (s.tick.aRegs ta c a r) (fun j k =>
           bVal tb (leNat ((bytes.drop (256 * z * j + z * (16 * n + k))).take z))) x) false))

/-- O44. (08 R280, R281). `qmm`: the member arrives at its rendezvous with its quarter and its operands; where a member of its quad is still missing
it waits; the fourth arrival with the same tag and form updates every member's tile with the block that the four quarters form, and all go on;
one with another tag or form stops all four with the illegal-state trap, each to be reissued in its place, once no member is in a sweep (R373,
log entry 83). The tile words that a member issued behind its `qmm` are performed then, in order (R263, log entry 97). A member of an incomplete
quad traps at once. -/
def Obligations.QuadProduct : Prop :=
  ∀ (s : State) (h : Hdr) (tb ta : Ty) (st : Bool) (tag d a b : Nat) (qs : List QArr),
    let i : Instr := .qmm h tb ta st tag d a b
    let g := s.grp
    let team := s.team g.team
    let x : QArr := { g := g.gid, gk := s.focus, path := s.fpath, tag := tag, tb := tb, ta := ta, st := st, d := d, em := s.tick.em h, pk := h.pk,
                      quarter := s.tick.quarter b, aregs := (lanesOf (s.tick.em h)).map fun l => (l, s.tick.aRegs ta 1 a l),
                      word := BitVec.ofNat 64 (encode i), void := false }
    let mine (y : QArr) : Bool := y.void && y.gk == s.focus && y.path == s.fpath
    let all := if team.quads.any mine then team.quads.map fun y => if mine y then x else y else team.quads ++ [x]
    let full := g.gid / 4 * 4 + 3 < team.tg
    let same (y : QArr) : Bool := y.tag == tag && y.tb == tb && y.st == st
    let rest (t : State) : Prop := (∀ z, t.rb z = s.rb z) ∧ ∀ k, (∀ y ∈ qs, y.gk ≠ k) → t.group k = s.group k
    (s.Issues i → full → rendezvous all (g.gid / 4) = some qs → x ∈ qs → (∀ y ∈ qs, same y = true) → (qs.map (·.gk)).Nodup → Completes (exec i s) fun t =>
        rest t ∧ (t.team g.team).quads = (all.filter fun y => !qs.contains y) ∧ ∀ y ∈ qs, ∃ w : Group, t.group y.gk = w.drainTiles ∧
          let f (r n : Nat) (v : W32) : Fl :=
            denseElem y.tb y.ta y.st 1 (((y.aregs.find? fun e => e.1 = r).map (·.2)).getD []) (fun _ k => quadB y.tb qs k n) v
          let o := s.group y.gk
          let p := o.path y.path
          let q := w.path y.path
          w = { o with tile := w.tile, tstat := w.tstat, qrc := (o.qrc + 1) % 2 ^ 32, p0 := w.p0, p1 := w.p1 }
            ∧ (∀ r n, r < 64 → n < 16 → w.elem y.d r n =
                if o.inv y.d = false ∧ mbit y.em r = true then (f r n (o.elem y.d r n)).1 else o.elem y.d r n)
            ∧ (∀ k r n, k ≠ y.d → r < 64 → n < 16 → w.elem k r n = o.elem k r n)
            ∧ (∀ k, w.status k = if k = y.d ∧ o.inv y.d = false then o.status k ||| stickyBits (orFlags ((lanesOf y.em).flatMap fun r =>
                (List.range 16).map fun n => (f r n (o.elem y.d r n)).2)) false else o.status k)
            ∧ w.path (1 - y.path) = o.path (1 - y.path)
            ∧ q.st = .ready ∧ q.pc = p.pc + 8 ∧ q.pend = p.pend ++ [⟨.tile, .t y.d, p.pc, y.word, [], 0⟩])
      ∧ (s.Issues i → full → rendezvous all (g.gid / 4) = none → Completes (exec i s) fun t =>
          t.pth.st = .waiting ∧ t.pc = s.pc ∧ (t.team g.team).quads = all ∧ s.OtherGroups t ∧ g.SameRegs t.grp ∧ ∀ y, t.rb y = s.rb y)
      ∧ (s.Issues i → full → rendezvous all (g.gid / 4) = some qs → x ∈ qs → (∃ y ∈ qs, same y = false) → (qs.map (·.gk)).Nodup →
          (∀ y ∈ qs, (s.group y.gk).sweeps = false ∧ (s.group y.gk).ctl = false) → Completes (exec i s) fun t =>
            (∀ k, (∀ y ∈ qs, y.gk ≠ k) → t.group k = s.group k)
              ∧ (t.team g.team).quads = (all.map fun y => if qs.contains y then { y with void := true } else y)
              ∧ ∀ y ∈ qs, (t.group y.gk).stopped = true ∧ (t.group y.gk).tileq = [] ∧ (t.group y.gk).qrc = (s.group y.gk).qrc
                ∧ ((t.group y.gk).path y.path).st = .ready ∧ ((t.group y.gk).path y.path).pc = ((s.group y.gk).path y.path).pc
                ∧ ((t.group y.gk).trap.map fun r => (r.cause, r.reason, r.tpc)) = some (4, 6, ((s.group y.gk).path y.path).pc))
      ∧ (s.Issues i → full → rendezvous all (g.gid / 4) = some qs → (∃ y ∈ qs, same y = false) → (∃ y ∈ qs, (s.group y.gk).sweeps = true) →
          exec i s = .next s)
      ∧ (s.Issues i → ¬ full → exec i s = .next (s.sysTrapped i { cause := 4, reason := 5 }))
      ∧ (∀ (l : List QArr) (n : Nat), (∀ q, q < 4 → (l.find? fun y => y.g = 4 * n + q).any (fun y => !y.void) = true) →
          rendezvous l n = some ((List.range 4).filterMap fun q => l.find? fun y => y.g = 4 * n + q))
      ∧ (∀ (l : List QArr) (n q : Nat), q < 4 → (l.find? fun y => y.g = 4 * n + q).all (fun y => y.void) = true → rendezvous l n = none)
      ∧ (∀ o : Group, o.tileq = [] → o.drainTiles = o)
      ∧ (∀ (o : Group) (x : TStep) (r : List TStep), o.tileq = x :: r → o.drainTiles = ({ o.tileDo x with tileq := r }).drainTiles)
      ∧ (∀ (o : Group) (x : TStep),
          let fill := fillResults x.n (o.tileResults x.op)
          o.tileDo x = { o with tile := (o.tileWrite x.op).tile, tstat := (o.tileWrite x.op).tstat, sbuf := (o.tileWrite x.op).sbuf,
                                p0 := { o.p0 with pend := fill o.p0.pend }, p1 := { o.p1 with pend := fill o.p1.pend }, orph := fill o.orph })
      ∧ ∀ (n : Nat) (rs : List PRes) (c : Pend) (l : List Pend), (∀ q ∈ l, ∀ f r, q.res ≠ .q n f r) →
          fillResults n rs (l ++ rs.map fun r => { c with res := .q n r.reg.1 r.reg.2 }) = l ++ rs.map fun r => { c with res := r }

/-- O45. (10 R321, R338 to R341; 03 R102 to R109). `rot` rotates pairs by the table's angles, `smax` forms weights, running maximum, sum and factor
of each row, `cred` merges the members' records, `btinv` removes block-table entries of the covered cores. -/
def Obligations.AttentionWords : Prop :=
  ∀ (s u : State) (h : Hdr) (scp : Scope) (m d a b n : Nat) (l : List (Acc × List Loc)),
    s.tick.em h ≠ 0#64 →
    let g := s.grp
    let em := s.tick.em h
    let ls := lanesOf em
    let vr (r : Nat) (f : Nat → W32) : PRes := .v r (ls.map fun l => (l, f l))
    let pv (i : Instr) (r : Nat) (f : Nat → W32) : Pend := ⟨.tile, vr r f, s.pc, BitVec.ofNat 64 (encode i), [], 0⟩
    let rows (i : Instr) (res : Group → List PRes) (f : Group → Nat → Nat → W32) (fl : Group → FFlags) : Prop := Completes (exec i s) fun t =>
      s.Settles t ∧ s.TileSteps t i (fun o n =>
        (∀ k, n.status k = if k = d ∧ o.inv d = false then o.status d ||| stickyBits (nvOf (fl o)) false else o.status k)
          ∧ ∀ k r c, r < 64 → c < 16 → n.elem k r c = if k = d ∧ o.inv d = false ∧ mbit em r = true then f o r c else o.elem k r c) res
    let turn (i l : Nat) : Fl × Fl := rotatePair (rotary ((s.tick.rv b l).toNat * (fqAt g.fq i).toNat % 2 ^ 32))
      (s.tick.rv (a + 2 * i) l, 0#6) (s.tick.rv (a + 2 * i + 1) l, 0#6)
    let soft (o : Group) (l : Nat) : SmaxRow :=
      smaxRow (fun c => o.readElem false d l c) (s.tick.rv a l) (s.tick.rv (a + 1) l) (bits (s.tick.rv (a + 3) l).toNat 0 16)
    let x := s.tick.rs b
    let recs := (u.readRanges u.focus (l.map fun e => e.2)).2
    let merged (r : Nat) : List Fl × Fl × W32 := credRow recs r
    let as := ((List.range 12).filter fun r => m.testBit r).map fun r => (⟨0, x.toNat + 2 ^ 22 + r * 2 ^ 23, 4608⟩ : Acc)
    let y := s.tick.rs a
    (s.Issues (.rot h d a b n) → LeavesPending s h.pk ((List.range n).flatMap fun i =>
        [pv (.rot h d a b n) (d + 2 * i) fun l => (turn i l).1.1, pv (.rot h d a b n) (d + 2 * i + 1) fun l => (turn i l).2.1]) 0#6
        (exec (.rot h d a b n) s))
      ∧ (let i : Instr := .smaxSoftmax h d a
         s.Issues i → rows i (fun o => [vr a fun l => (soft o l).m, vr (a + 1) fun l => (soft o l).l, vr (a + 2) fun l => (soft o l).alpha, .t d])
           (fun o r c => (soft o r).p.getD c 0#32) (fun o => orFlags (ls.map fun l => (soft o l).flags)))
      ∧ (let i : Instr := .cred h m d a b
         s.Issues i → x.toNat < 2 ^ 22 → x.toNat % 128 = 0 →
           s.tick.check s.focus false false .read as = (u, .ok l) →
           rows i (fun _ => [vr a fun r => (merged r).2.1.1, vr (a + 1) fun r => (merged r).2.2, .t d])
             (fun _ r c => ((merged r).1.map (·.1)).getD c 0#32)
             (fun _ => orFlags (ls.flatMap fun r => (merged r).2.1.2 :: (merged r).1.map (·.2))))
      ∧ (s.Issues (.btinv h scp a) → y.toNat < 2 ^ 57 → y.toNat % 64 = 0 → Completes (exec (.btinv h scp a) s) fun t =>
          s.Goes t (s.pc + 8) h.pk [] ∧ g.SameRegs t.grp ∧ s.OtherGroups t ∧ (∀ z, t.rb z = s.rb z)
            ∧ ∀ c, (t.core c).btc = if c ∈ s.tick.btCores scp then
                (s.core c).btc.filter fun e => decide (y ≠ 0#64) && !(e.asid == g.asid && e.desc == y.toNat) else (s.core c).btc)

/-- O46. (13 R391, R392, R397). `csrr` reads a control register: among them the stopped and the held slots, and for each halted queue of a team on
the core the lowest slot of the team; PARTN is 0 on a die without a partition (the model's choice: log entry 54); `csrw` requests the stop of the
named running groups. -/
def Obligations.ControlRegisters : Prop :=
  ∀ (s : State) (h : Hdr) (k d a : Nat),
    s.tick.em h ≠ 0#64 →
    let x := s.tick.rs a
    let core := s.core s.grp.core
    let slot (i : Nat) : Nat := s.grp.core * 65 + i
    let held (i : Nat) : Bool := (tfind? s.groups (slot i)).isSome
    let stopped (i : Nat) : Bool := held i && (s.group (slot i)).stopped
    let team (i : Nat) : Nat := (s.group (slot i)).team
    let halts (i eng : Nat) : Bool := held i && decide (s.lowSlot (team i) = some i) && ((s.team (team i)).queue eng).halted
    (s.Issues (.csrr h d k) → WritesScalar s h.pk d (BitVec.ofNat 64 (s.creg k)) (exec (.csrr h d k) s))
      ∧ s.creg 0 = dieOf s.grp.core + s.grp.core % Config.nSites * 2 ^ 8 ∧ s.creg 3 = core.preq ∧ s.creg 6 = (s.die (dieOf s.grp.core)).cyc
      ∧ s.creg 7 = (s.die (dieOf s.grp.core)).rgen ∧ s.creg 8 = (s.die (dieOf s.grp.core)).part.getD 0
      ∧ (∀ i, i < 64 → (s.creg 1).testBit i = stopped i ∧ (s.creg 2).testBit i = held i
          ∧ (s.creg 4).testBit i = halts i 0 ∧ (s.creg 5).testBit i = halts i 1)
      ∧ (∀ i, tsorted s.groups = true → (∀ e ∈ s.groups, e.2.team = team i → coreOf e.1 = s.grp.core) → s.lowSlot (team i) = some i →
          ∀ e ∈ s.groups, e.2.team = team i → e.2.ctl = false → i ≤ slotOf e.1)
      ∧ (s.Issues (.csrw h k a) → Completes (exec (.csrw h k a) s) fun t =>
          t = { s with groups := t.groups, fresh := t.fresh, cores := t.cores } ∧ (∀ j, s.focus ≠ j → t.group j = s.group j)
            ∧ s.Goes t (s.pc + 8) h.pk [] ∧ t.grp = { s.grp with p0 := t.grp.p0, p1 := t.grp.p1 }
            ∧ (∀ c, c ≠ s.grp.core → t.core c = s.core c) ∧ t.core s.grp.core = { core with preq := (t.core s.grp.core).preq }
            ∧ ∀ i, i < 64 → (t.core s.grp.core).preq.testBit i = (core.preq.testBit i || (x.getLsbD i && held i && !stopped i)))

/-- O47. (13 R383, R384, R385, R393). The debug window: `dbgr` gives the 8 bytes at a window offset of a slot, `dbgw` writes them as R385 has it,
field by field. The slot is 0 to 63 and the offset a multiple of 8 below the slot's F (without a group any multiple of 8, log entry 110), or the
word raises ILI with reason 12; a slot that is not stopped reads as all ones and takes no write. A path that waits at a `qmm` is shown as ready
to reissue it. That a write of its PC withdraws it from its rendezvous, with the tile words behind it performed (log entry 97), and that a
changed PC gives up a sweep (log entry 83) are the model's inferences. -/
def Obligations.DebugWindow : Prop :=
  ∀ (s : State) (h : Hdr) (d a b : Nat),
    s.tick.em h ≠ 0#64 →
    let x := s.tick.rs a
    let o := (s.tick.rs b).toNat
    let key := s.grp.core * Config.nSlots + x.toNat
    let g := s.group key
    let resident : Prop := (tfind? s.groups key).isSome = true
    let bad := 64 ≤ x.toNat ∨ o % 8 ≠ 0 ∨ (resident ∧ 4096 + 4 * g.w * g.nv + 4096 * g.nt ≤ o)
    let stopped := resident ∧ g.stopped = true
    let there (q : Path) : Path := if (q.wait.map (·.wk)) = some 6 then { q with st := .ready, wait := none } else q
    let shown : Group := { g with p0 := there g.p0, p1 := there g.p1 }
    let isPc := o / 8 = 16 ∨ o / 8 = 64
    let put (t : State) : Prop := t = { s with groups := t.groups, fresh := t.fresh } ∧ s.Goes t (s.pc + 8) h.pk []
      ∧ t.grp = { s.grp with p0 := t.grp.p0, p1 := t.grp.p1 }
    (s.Issues (.dbgr h d a b) → ¬ bad → stopped →
        WritesScalar s h.pk d (BitVec.ofNat 64 (shown.frameWord (s.cycOf s.focus) 0 (o / 8))) (exec (.dbgr h d a b) s))
      ∧ (s.Issues (.dbgr h d a b) → ¬ bad → ¬ stopped → WritesScalar s h.pk d 0xffffffffffffffff#64 (exec (.dbgr h d a b) s))
      ∧ (s.Issues (.dbgr h d a b) → bad → exec (.dbgr h d a b) s = .next (s.sysTrapped (.dbgr h d a b) { cause := 1, reason := 12 }))
      ∧ (s.Issues (.dbgw h d a b) → ¬ bad → stopped → key ≠ s.focus → ¬ isPc → Completes (exec (.dbgw h d a b) s) fun t =>
          put t ∧ ∀ j, j ≠ s.focus → t.group j = if j = key then g.dbgWrite (o / 8) (s.tick.rs d) else s.group j)
      ∧ (s.Issues (.dbgw h d a b) → ¬ bad → stopped → key ≠ s.focus → isPc → Completes (exec (.dbgw h d a b) s) fun t =>
          s.Goes t (s.pc + 8) h.pk [] ∧ (∀ y, t.rb y = s.rb y)
            ∧ (∀ j, j ≠ s.focus → t.group j = if j = key then shown.drainTiles.dbgWrite (o / 8) (s.tick.rs d) else s.group j)
            ∧ ∀ y ∈ (t.team g.team).quads, y.gk ≠ key)
      ∧ (s.Issues (.dbgw h d a b) → ¬ bad → ¬ stopped → Completes (exec (.dbgw h d a b) s) fun t => put t ∧ ∀ j, j ≠ s.focus → t.group j = s.group j)
      ∧ (s.Issues (.dbgw h d a b) → bad → exec (.dbgw h d a b) s = .next (s.sysTrapped (.dbgw h d a b) { cause := 1, reason := 12 }))
      ∧ (∀ (g : Group) (n : Nat) (v : W64), n < 127 → g.dbgWrite (112 + n) v = { g with sreg := tset 0#64 g.sreg n v })
      ∧ (∀ (g : Group) (n : Nat) (v : W64), n < 12 → g.dbgWrite (240 + n) v = { g with preg := tset 0#64 g.preg n (v &&& fullMask g.w) })
      ∧ ∀ (g : Group) (v : W64),
          let pc (q : Path) : Path := if (q.st = .ready ∨ q.st = .parked) ∧ v &&& ~~~7#64 ≠ q.pc
            then { q with pc := v &&& ~~~7#64, sweep := none, swi := 0 } else q
          let half (j : Nat) : W32 := BitVec.ofNat 32 (v.toNat / 2 ^ (32 * (j % 2)))
          g.dbgWrite 16 v = { g with p0 := pc g.p0 } ∧ g.dbgWrite 64 v = { g with p1 := pc g.p1 }
            ∧ g.dbgWrite 17 v = { g with p0 := { g.p0 with mask := v &&& g.p0.owned } }
            ∧ g.dbgWrite 65 v = { g with p1 := { g.p1 with mask := v &&& g.p1.owned } }
            ∧ g.dbgWrite 252 v = (if fmOk v = true then { g with fm := v } else g)
            ∧ g.dbgWrite 253 v = (if scOk v = true then { g with sc := v } else g)
            ∧ g.dbgWrite 254 v = { g with fps := v &&& 0x3f3f#64 }
            ∧ (∀ n, n < 8 → let t := g.dbgWrite (256 + n) v
                t = { g with tstat := t.tstat }
                  ∧ ∀ j, t.status j = if j / 2 = n ∧ j < g.nt then half j &&& 0xf1f#32 else g.status j)
            ∧ (∀ n, n < 64 → let t := g.dbgWrite (316 + n) v
                t = { g with fq := t.fq } ∧ ∀ j, fqAt t.fq j = if j / 2 = n then half j else fqAt g.fq j)
            ∧ (∀ n, (g.w = 8 ∨ g.w = 16 ∨ g.w = 32 ∨ g.w = 64) → 2 * n < g.w * g.nv → let t := g.dbgWrite (512 + n) v
                t = { g with vreg := t.vreg } ∧ ∀ r l, l < 64 → t.lane r l = if l < g.w ∧ (r * g.w + l) / 2 = n then half l else g.lane r l)
            ∧ (∀ n, g.w * g.nv % 2 = 0 → n < 512 * g.nt → let t := g.dbgWrite (512 + g.w * g.nv / 2 + n) v
                t = { g with tile := t.tile } ∧ ∀ k r c, r < 64 → c < 16 →
                  t.elem k r c = if (k * 1024 + r * 16 + c) / 2 = n then half c else g.elem k r c)
            ∧ (∀ k, (k < 16 ∨ (18 ≤ k ∧ k < 64) ∨ (66 ≤ k ∧ k < 112) ∨ k = 239 ∨ k = 255 ∨ (264 ≤ k ∧ k < 316) ∨ (380 ≤ k ∧ k < 512)) →
                g.dbgWrite k v = g)
            ∧ ∀ k, g.w * g.nv % 2 = 0 → 512 + g.w * g.nv / 2 + 512 * g.nt ≤ k → g.dbgWrite k v = g

/-- O48. (13 R395, R373). `sysc k` in a user group stops the group with cause SYSC and INFO0 = k, its PC at TPC + 8; the tile words that wait in its
tile unit and its accesses are performed and its outstanding results written as at every stop (log entry 97), and nothing else changes; while the
other path is in a sweep it waits (log entry 83); with an empty effective mask it does nothing. -/
def Obligations.SystemCall : Prop :=
  ∀ (s : State) (h : Hdr) (k : BitVec 16), s.Issues (.sysc h k) → s.grp.ctl = false →
    let w := (s.setPth { s.pth with pc := s.pc + 8 }).quiesce s.focus
    (s.tick.em h ≠ 0#64 → s.grp.sweeps = false → Completes (exec (.sysc h k) s) fun t =>
        t.grp = { w.grp.landAll with
                  stopped := true, hold := .ctl, preempt := false, deaf := none,
                  trap := some { cause := 8, reason := 0, ps := s.fpath, fetch := false, wr := false, ucause := 0, lane := 0, tpc := s.pc,
                                 word := BitVec.ofNat 64 (encode (.sysc h k)), addr := 0, info0 := k.setWidth 64, info1 := 0,
                                 cyc := BitVec.ofNat 64 (s.cycOf s.focus) } }
          ∧ t = { w with groups := t.groups, cores := t.cores, fresh := t.fresh } ∧ (s.grp.sbuf = [] → s.grp.tileq = [] → w = s.setPth { s.pth with pc := s.pc + 8 })
          ∧ s.OtherGroups t ∧ (⟨s.cycOf s.focus, slotOf s.focus, 1, 0⟩ : CoreEv) ∈ (t.core (coreOf s.focus)).events)
      ∧ (s.tick.em h ≠ 0#64 → s.grp.sweeps = true → exec (.sysc h k) s = .next s)
      ∧ (s.tick.em h = 0#64 → OnlyGoes s h.pk (s.pc + 8) (exec (.sysc h k) s))

/-- O49. (13 R394 to R397, 14 R409). `rti` lets a stopped group go on, ends it, or aborts its launch and ends it; `halt` hands out the oldest event
that is ready. A slot that is not stopped is left as it is (log entry 55). (13 R372 to R374, R386, R388, R390, 14 R409, R416, R427, 16 R478). A
group whose stop is requested, or that stands on a faulted core or a die that is to be reset and can be saved, or whose section is too old, stops
with its record, its accesses performed, its outstanding results written and the request spent; one whose launch is aborted ends. Where both
requests stand, REASON is 1 (the model's choice: log entry 84); the tile words that wait behind a `qmm` are performed (log entry 97). TPC, WORD
and PS of these records, and INFO1 of the watchdog's, are values that the spec leaves open (the model's choice: log entry 58). -/
def Obligations.StoppingAndResuming : Prop :=
  (∀ (s : State) (h : Hdr) (d a n : Nat) (e : CoreEv),
      s.tick.em h ≠ 0#64 →
      let x := s.tick.rs a
      let key := s.slotKey x
      let g := s.group key
      let core := s.core s.grp.core
      let taken := s.tick.setCore s.grp.core { core with events := dropIdx core.events n }
      let gone (t : State) : Prop := tfind? t.groups key = none ∧ (t.core (coreOf key)).preq.testBit (slotOf key) = false
      let only (i : Instr) : Prop := s.Issues i → s.stoppedAt x = false → OnlyGoes s h.pk (s.pc + 8) (exec i s)
      (s.Issues (.rtiResume h a) → s.stoppedAt x = true → key ≠ s.focus → Completes (exec (.rtiResume h a) s) fun t =>
          t = { s with groups := t.groups, fresh := t.fresh } ∧ t.group key = { g with stopped := false, hold := .none, flt := [], fltBad := false }
            ∧ (∀ j, j ≠ key → j ≠ s.focus → t.group j = s.group j) ∧ s.Goes t (s.pc + 8) h.pk []
            ∧ t.grp = { s.grp with p0 := t.grp.p0, p1 := t.grp.p1 } ∧ ∀ y, t.rb y = s.rb y)
        ∧ (s.Issues (.rtiEnd h a) → s.stoppedAt x = true → key ≠ s.focus →
            exec (.rtiEnd h a) s = s.goesOn (.rtiEnd h a) (s.tick.killGroup key) ∧ gone (s.tick.killGroup key))
        ∧ (s.Issues (.rtiAbort h a) → s.stoppedAt x = true → key ≠ s.focus → exec (.rtiAbort h a) s = s.goesOn (.rtiAbort h a) ((s.tick.abortLaunch g.lid 1).killGroup key)
            ∧ gone ((s.tick.abortLaunch g.lid 1).killGroup key))
        ∧ only (.rtiResume h a) ∧ only (.rtiEnd h a) ∧ only (.rtiAbort h a)
        ∧ (s.Issues (.halt h d) → core.events.findIdx? s.tick.evReady = some n → core.events[n]? = some e → e.kind = 1 →
            exec (.halt h d) s = s.goesOn (.halt h d) (taken.ws d (BitVec.ofNat 64 (e.slot + 2 ^ 8))))
        ∧ (s.Issues (.halt h d) → core.events.findIdx? s.tick.evReady = some n → core.events[n]? = some e → e.kind ≠ 1 →
            exec (.halt h d) s = s.goesOn (.halt h d)
              ({ taken with teams := tmod taken.teams (e.queue / 2) fun t => t.handOut (e.queue % 2) }.ws d
                (BitVec.ofNat 64 ((taken.lowSlot (e.queue / 2)).getD 127 + 2 * 2 ^ 8))))
        ∧ (s.canIssue = true → s.tick.dynReason (.halt h d) = 0 → core.events.findIdx? s.tick.evReady = none → exec (.halt h d) s = .next s))
    ∧ (∀ (s : State) (gk : Nat),
      let g := s.group gk
      let p := s.part g.part
      let c := coreOf gk
      let preq := (s.core c).preq.testBit (slotOf gk)
      let resident := (tfind? s.groups gk).isSome = true ∧ g.ctl = false ∧ g.stopped = false
      let stops (i : Instr) (h : Hold) (cause reason : Nat) (info : W64) : Prop := Completes (exec i s) fun t =>
        (t.group gk).stopped = true ∧ (t.group gk).hold = h ∧ (t.group gk).preempt = false ∧ (t.group gk).sbuf = [] ∧ (t.group gk).tileq = []
          ∧ ((t.group gk).trap.map fun r => (r.cause, r.reason, r.info0)) = some (cause, reason, info)
          ∧ (∀ i, i < 3 → (t.group gk).pendOf i = (((s.quiesce gk).group gk).pendOf i).filter Pend.queued)
          ∧ ((t.core c).preq.testBit (slotOf gk)) = false
          ∧ (h = .ctl → ∃ e ∈ (t.core c).events, e.slot = slotOf gk ∧ e.kind = 1) ∧ (h ≠ .ctl → (t.core c).events = (s.core c).events)
          ∧ (∀ k, k ≠ gk → t.group k = s.group k) ∧ ∀ y, t.rb y = (s.quiesce gk).rb y
      (resident → s.aborting g.lid = false → (g.preempt = true ∨ s.emptying gk = true) → stops (.preemptStop gk) .saved 6 1 0)
        ∧ (resident → s.aborting g.lid = false → g.preempt = false → s.emptying gk = false → preq = true → stops (.preemptStop gk) .ctl 6 2 0)
        ∧ ((tfind? s.groups gk).isSome = true → g.ctl = false → s.aborting g.lid = true →
            exec (.preemptStop gk) s = .next (s.killGroup gk) ∧ tfind? (s.killGroup gk).groups gk = none)
        ∧ (resident → 0 < g.rsd → p.swd ≠ 0 → p.swd < g.wdt → g.p0.sweep = none → g.p1.sweep = none →
            stops (.watchdogExpiry gk) .ctl 5 0 (BitVec.ofNat 64 g.wdt))
        ∧ (s.emptying gk = true ↔
            ((s.core c).faulted = true ∨ (s.die (dieOf c)).resetting = true) ∧ g.ctl = false ∧ g.stopped = false ∧ s.poolRoom g.part [g.team] = true))

/-- O50. (13 R380, R387, R389, R398, R400). `ctxsv` saves a stopped group at an aligned place of its partition: its frame holds the group's words,
its slot is free, and its open section is counted as a saved one; with the team, the last group's save writes the team's scratchpad behind it and
releases it. A place that is none traps; a slot that is not stopped is left as it is (log entry 55). (13 R380 to R383, R398 to R400, 14 R411).
`ctxld` restores the group that a frame holds to the lowest free slot of its quadrant: it stands there stopped, with the registers, the paths and
the control words of the frame, and the slot's number is written; with the team, the scratchpad comes back from the team frame. Which free slot
is the model's (log entry 53). A frame of a launch and team that stand belongs to a group of theirs, one saved or one made anew; where none does
(log entry 56), or it may not stand there, the word writes 64; what is no frame traps. What a frame holds of a register is what a group read back
from it has there. -/
def Obligations.SaveAndRestore : Prop :=
  (∀ (s : State) (h : Hdr) (a b : Nat),
      s.tick.em h ≠ 0#64 →
      let f := (s.tick.rs b).toNat
      let key := s.slotKey (s.tick.rs a)
      let g := s.group key
      let z := s.team g.team
      let own : Instr := .ctxsv h false a b
      let both : Instr := .ctxsv h true a b
      let tf := f + (g.frameLen + 4095) / 4096 * 4096
      let stopped := s.stoppedAt (s.tick.rs a) = true ∧ key ≠ s.focus
      let w := s.tick.performAll s.focus
      let x := w.withdrawQuad key
      let held := ((x.setGroup key (x.group key).landAll).performAll key).group key
      let word (k : Nat) : Nat := held.frameWord (s.die (dieOf g.core)).cyc 0 k % 2 ^ 64
      let saved (t : State) (tfa : Nat) : Prop :=
        tfind? t.groups key = none ∧ (∀ j, j ≠ key → j ≠ s.focus → (t.group j).SameRegs (s.group j)) ∧ t.pc = s.pc + 8
          ∧ (∃ v, t.saved = s.saved ++ [v] ∧ v.addr = f ∧ v.len = g.frameLen ∧ v.parked = true ∧ v.team = g.team)
          ∧ (∀ k, k < g.frameLen / 8 → t.frameRd f k = if k = 2 then tfa else word k)
          ∧ (g.ends = [] → 0 < g.rsd → g.col = false → (t.part g.part).swc0 = (s.part g.part).swc0 + 1)
      let bad (i : Instr) (n : Nat) : Prop :=
        exec i s = .next (s.sysTrapped i { cause := 3, reason := n, addr := s.tick.rs b, wr := true })
      (s.Issues own → stopped → s.tick.frameBad f g.frameLen = 0 → f + g.frameLen ≤ 2 ^ 51 → Completes (exec own s) fun t => saved t 0)
        ∧ (s.Issues both → stopped → s.tick.lastResident key = true → s.tick.frameBad f (tf - f + z.frameLen) = 0 → tf + z.frameLen ≤ 2 ^ 51 →
            (∀ e ∈ s.groups, e.2.sbuf = [] ∧ e.2.tileq = []) → (∀ v ∈ s.saved, v.team ≠ g.team) → Completes (exec both s) fun t =>
              saved t tf ∧ (t.team g.team).saved = true ∧ (t.team g.team).tfa = tf ∧ (t.team g.team).spm = []
                ∧ ∀ k, k < z.spb → t.rb (.gpa (tf + 1024 + k)) = s.rb (.sp g.team k))
        ∧ (s.Issues both → stopped → s.tick.lastResident key = false → s.tick.frameBad f (tf - f + z.frameLen) = 0 →
            exec both s = .next (s.sysTrapped both { cause := 1, reason := 12 }))
        ∧ (s.Issues own → s.stoppedAt (s.tick.rs a) = false → s.tick.frameBad f 4096 = 0 → OnlyGoes s h.pk (s.pc + 8) (exec own s))
        ∧ (s.Issues both → s.stoppedAt (s.tick.rs a) = false → s.tick.frameBad f 4096 = 0 → OnlyGoes s h.pk (s.pc + 8) (exec both s))
        ∧ (s.Issues own → stopped → s.tick.frameBad f g.frameLen ≠ 0 → bad own (s.tick.frameBad f g.frameLen))
        ∧ (s.Issues both → stopped → s.tick.frameBad f (tf - f + z.frameLen) ≠ 0 → bad both (s.tick.frameBad f (tf - f + z.frameLen)))
        ∧ (∀ n, f % 4096 ≠ 0 → s.frameBad f n = 3) ∧ ∀ n, f % 4096 = 0 → (s.die (dieOf s.grp.core)).part = none → s.frameBad f n = 8)
    ∧ (∀ (s : State) (h : Hdr) (team : Bool) (d a gk : Nat) (v : Saved),
      s.tick.em h ≠ 0#64 →
      let i : Instr := .ctxld h team d a
      let w := s.tick.performAll s.focus
      let f := (w.rs a).toNat
      let rd := w.frameRd f
      let core := s.grp.core
      let o := v.grp.ofFrame rd
      let tfa := rd 2
      let frame := w.physOk (dieOf core) f 4096 .read = none ∧ bits (rd 0) 0 16 = 1
      let here := some (bits (rd 0) 40 8) = (w.die (dieOf core)).part
      let back (t : State) : Prop :=
        let r := t.group gk
        r.SameRegs o ∧ r.slots = o.slots ∧ r.streams = o.streams ∧ r.core = core ∧ r.stopped = true ∧ r.hold = .ctl
          ∧ r.p0 = { o.p0 with lastCyc := r.p0.lastCyc } ∧ r.p1 = { o.p1 with lastCyc := r.p1.lastCyc } ∧ r.rsd = o.rsd ∧ r.uhc = o.uhc
      (s.Issues i → frame → here → w.frameOwner f team core = some v → w.loadable v f core team = true →
          w.freeSlot core (bits (rd 0) 27 4 % 4) = some gk → d < 127 → o.p0.wait = none → o.p1.wait = none →
          (team = true → ∀ x ∈ w.saved, x.addr + 24 ≤ 2 ^ 51 ∧ (x.addr = f ∨ x.addr + 24 ≤ f ∨ f + o.frameLen ≤ x.addr)) → Completes (exec i s) fun t =>
            back t ∧ t.grp.sraw s.fpath d = BitVec.ofNat 64 (slotOf gk) ∧ t.pc = s.pc + 8 ∧ (∀ x ∈ t.saved, x.addr ≠ v.addr)
              ∧ (team = true → (t.team v.team).saved = false ∧ (t.team v.team).core = core ∧ (t.team v.team).spb = w.rnum (tfa + 4) 4
                  ∧ ∀ k, k < w.rnum (tfa + 4) 4 → t.rb (.sp v.team k) = w.rb (.gpa (tfa + 1024 + k))))
        ∧ (s.Issues i → frame →
            (w.frameOwner f team core = none
              ∨ ∃ v, w.frameOwner f team core = some v
                  ∧ (¬ here ∨ w.loadable v f core team = false ∨ w.freeSlot core (bits (rd 0) 27 4 % 4) = none)) →
            exec i s = s.goesOn i (w.ws d 64))
        ∧ ((w.frameTeam f team core).isSome = true → (tfind? w.launches (rd 1)).isSome = true → w.frameOwner f team core ≠ none)
        ∧ (s.Issues i → w.physOk (dieOf core) f 4096 .read = none → bits (rd 0) 0 16 ≠ 1 →
            exec i s = .next (s.sysTrapped i { cause := 1, reason := 12 }))
        ∧ (∀ n, s.Issues i → w.physOk (dieOf core) f 4096 .read = some n →
            exec i s = .next (s.sysTrapped i { cause := 3, reason := n, addr := w.rs a }))
        ∧ (∀ n, n < 127 → tget 0#64 o.sreg n = BitVec.ofNat 64 (rd (112 + n)))
        ∧ (∀ n l, n < o.nv → l < o.w → o.lane n l = BitVec.ofNat 32 (rd (512 + (n * o.w + l) / 2) / 2 ^ (32 * ((n * o.w + l) % 2))))
        ∧ (o.p0.pc = BitVec.ofNat 64 (rd 16) ∧ o.p0.mask = BitVec.ofNat 64 (rd 17) &&& BitVec.ofNat 64 (rd 18) ∧ o.p1.pc = BitVec.ofNat 64 (rd 64))
        ∧ ∀ (g : Group) (cyc x n l : Nat), (g.w = 8 ∨ g.w = 16 ∨ g.w = 32 ∨ g.w = 64) →
            (n < 127 → BitVec.ofNat 64 (g.frameWord cyc x (112 + n)) = tget 0#64 g.sreg n)
              ∧ (n < g.nv → l < g.w →
                  BitVec.ofNat 32 (g.frameWord cyc x (512 + (n * g.w + l) / 2) / 2 ^ (32 * ((n * g.w + l) % 2))) = g.lane n l)
              ∧ BitVec.ofNat 64 (g.frameWord cyc x 16) = g.p0.pc ∧ BitVec.ofNat 64 (g.frameWord cyc x 64) = g.p1.pc)

/-- O51. (13 R400 to R403, 15 R450, R453, 16 R474). `tlbinv` removes the named translations of the covered dies; `bflip` sets the bias of a page's
entry, and towards the device asks the host for the page and waits for its answer; once the flip is complete no core keeps a read-only line of
the page; `pgcopy` copies an aligned page between physical addresses, up to the first line whose data memory reports as uncorrectable. -/
def Obligations.PageWords : Prop :=
  ∀ (s : State) (h : Hdr) (dev all : Bool) (kind size d a b pte base n at_ part : Nat) (r : Recall),
    s.tick.em h ≠ 0#64 →
    let w := s.tick.performAll s.focus
    let p := w.ctlPart
    let asid := (w.rs a).toNat
    let va := (w.rs b).toNat
    let flip := w.putCells ((List.range 8).zipWith (fun i b => (Loc.gpa (at_ + i), b)) (leBytes 8 (if dev then pte + 2 ^ 5 else pte - 2 ^ 5)))
    let set := flip.removeTlb p 2 asid va (flip.invDies p true)
    let i : Instr := .bflip h dev size a b
    let found := s.recalls.find? (fun r => r.gk == s.focus)
    let leaf := found = none ∧ (s.die (dieOf s.grp.core)).part = some part ∧ va < 2 ^ 57 ∧ w.walk (w.part part) asid va = .leaf pte base n at_
    let pa := bits pte 8 44 * 256
    let clean (part pa n : Nat) (t : State) : Prop :=
      ∀ e ∈ t.cores, (t.part part).dies.testBit (dieOf e.1) = true → ∀ l ∈ e.2.ro, ¬ (pa ≤ l.line * 128 ∧ l.line * 128 < pa + n)
    let pb := pageBytes size
    let die := dieOf s.grp.core
    let bflipBad : Prop := exec i s = .next (s.sysTrapped i { cause := 3, reason := 7, addr := s.tick.rs b })
    (s.Issues (.tlbinv h kind all a b) → exec (.tlbinv h kind all a b) s = s.goesOn (.tlbinv h kind all a b)
        (w.removeTlb s.tick.ctlPart kind (s.tick.rs a).toNat (s.tick.rs b).toNat (s.tick.invDies s.tick.ctlPart all)))
      ∧ (∀ (u : State) (ds : List Nat) (x : Nat), x ∈ ds → ((u.removeTlb p kind asid va ds).die x).tlb =
          (u.die x).tlb.filter fun e => !e.named p kind asid va)
      ∧ (s.Issues i → leaf → bit pte 5 = dev → exec i s = s.goesOn i w)
      ∧ (s.Issues i → leaf → bit pte 5 ≠ dev → bit pte 6 = false → exec i s = s.goesOn i set)
      ∧ (s.Issues i → leaf → bit pte 5 ≠ dev → bit pte 6 = true → dev = false → Completes (exec i s) fun t =>
          t.pc = s.pc + 8 ∧ (∀ y, t.rb y = set.rb y) ∧ clean p pa n t)
      ∧ (s.Issues i → leaf → bit pte 5 ≠ dev → bit pte 6 = true → dev = true → Completes (exec i s) fun t =>
          t.pc = s.pc ∧ (∀ y, t.rb y = set.rb y) ∧ t.recalls = set.recalls ++ [⟨set.nextRecall, s.focus, p, false, pa, n⟩]
            ∧ t.nextRecall = set.nextRecall + 1)
      ∧ (s.Issues i → found = some r → Completes (exec i s) fun t =>
          t.pc = s.pc + 8 ∧ t.recalls = s.recalls.filter (fun r => decide (r.gk ≠ s.focus)) ∧ (∀ y, t.rb y = s.rb y) ∧ s.OtherGroups t
            ∧ clean r.part r.base r.bytes t)
      ∧ (at_ + 8 ≤ 2 ^ 51 → flip.rnum at_ 8 = (if dev then pte + 2 ^ 5 else pte - 2 ^ 5) % 2 ^ 64)
      ∧ (∀ x y, s.Issues i → found = none → (s.die die).part = some part → va < 2 ^ 57 → w.walk (w.part part) asid va = .bad x y → bflipBad)
      ∧ (s.Issues i → found = none → (s.die die).part = none → bflipBad)
      ∧ (let src := (w.rs a).toNat
         let dst := (w.rs b).toNat
         let j : Instr := .pgcopy h size d a b
         let hit (l : Nat) : Prop := l ∈ w.poison ∧ src ≤ l * 128 ∧ l * 128 < src + pb
         s.Issues j →
           (src % pb = 0 → dst % pb = 0 → w.physOk die src pb .read = none → w.physOk die dst pb .write = none →
              ((∀ l, ¬ hit l) → exec j s = s.goesOn j ((w.copyPa src dst pb).ws d 0))
                ∧ ∀ l, hit l → (∀ m, hit m → l ≤ m) → exec j s =
                    s.goesOn j ((w.copyPa src dst (l * 128 - src)).ws d (BitVec.ofNat 64 (2 ^ 63 + (l * 128 - src)))))
             ∧ (∀ n, src % pb = 0 → dst % pb = 0 → w.physOk die src pb .read = some n →
                 exec j s = .next (s.sysTrapped j { cause := 3, reason := n, addr := w.rs a }))
             ∧ (∀ n, src % pb = 0 → dst % pb = 0 → w.physOk die src pb .read = none → w.physOk die dst pb .write = some n →
                 exec j s = .next (s.sysTrapped j { cause := 3, reason := n, addr := w.rs b, wr := true }))
             ∧ (src % pb ≠ 0 → exec j s = .next (s.sysTrapped j { cause := 3, reason := 3, addr := w.rs a }))
             ∧ (src % pb = 0 → dst % pb ≠ 0 → exec j s = .next (s.sysTrapped j { cause := 3, reason := 3, addr := w.rs b, wr := true })))
      ∧ ∀ (u : State) (src dst n x : Nat), src + n ≤ 2 ^ 51 → dst + n ≤ 2 ^ 51 → x < 2 ^ 51 →
          (u.copyPa src dst n).rb (.gpa x) = if dst ≤ x ∧ x < dst + n then u.rb (.gpa (x - dst + src)) else u.rb (.gpa x)

/-- O52. (06 R202 to R207). A sweep word whose setting in `sc` its operation allows, and whose words are all within their scratchpads and aligned,
performs the group's pending accesses and begins: its operands, mask and setting are held by its path, which stays at the word until the last
iteration; after its `n` iterations the path goes on at the next word, with its registers as they were. An empty mask ends it at once; a
forbidden setting, a word outside or a misaligned address traps; a member that has not started is waited for. The order of these tests is log
entry 78. (06 R205, R207, R208). One iteration of a sweep: every lane's sources are read before any lane is written, each lane's word takes the
operation's value, no other byte changes; the last one lets the path go on with the flags of all, or raises ARI with the lanes that raised an
enabled one, or stops the group where that cannot be delivered; it waits for an earlier sweep of the other path, and wakes what waited to report
a lost write (R373, log entry 83). A user trap of the other path does not hold it; a member that cannot be reached any more is waited for at the
word. Integer sweeps compute as their register forms do, element by element. -/
def Obligations.Sweeps : Prop :=
  (∀ (s : State) (h : Hdr) (sx : Bool) (d a b n : Nat),
      let iterate (t : State) : State := match exec (.sweepIteration s.focus s.fpath) t with | .next u => u | _ => t
      let begins (i : Instr) : Prop :=
        let sc := s.grp.sc
        let x : Sweep := { i := i, em := s.tick.em h, sc := sc, pr := s.tick.rpm (bits sc.toNat 56 4), ad := (s.tick.rs d).toNat,
                           aa := (s.tick.rs a).toNat, ab := (s.tick.rs b).toNat, n := n, at_ := s.fresh + 1, flags := [] }
        let w := s.tick.performAll s.focus
        let fits := (sweepOp sc x.pr i).isSome = true ∧ x.em ≠ 0#64 ∧ s.tick.sweepBad x = none ∧ ∀ y ∈ x.bases, y.1 % 4 = 0
        s.Issues i →
          (fits → s.tick.sweepStall x = none → Completes (exec i s) fun t =>
              t.pth = { s.pth with sweep := some x, park := i.pk } ∧ s.OtherGroups t ∧ s.grp.SameRegs t.grp ∧ t.grp.sbuf = w.grp.sbuf
                ∧ (∀ y, t.rb y = w.rb y)
                ∧ (0 < n → s.pth.swi = 0 → bits s.grp.fps.toNat 8 6 = 0 → (s.grp.path (1 - s.fpath)).sweep = none →
                    s.pth.wait = none → (s.grp.path (1 - s.fpath)).wait = none → tsorted s.teams = true →
                    let u := (List.range n).foldl (fun v _ => iterate v) t
                    u.pth = { s.pth with pc := s.pc + 8, park := i.pk } ∧ s.OtherGroups u ∧ u.grp.sreg = s.grp.sreg ∧ u.grp.vreg = s.grp.vreg
                      ∧ u.grp.preg = s.grp.preg ∧ u.grp.tile = s.grp.tile))
            ∧ (∀ wk rank, fits → s.tick.sweepStall x = some (wk, rank) → Completes (exec i s) fun t => s.Stalls t wk rank)
            ∧ ((sweepOp sc x.pr i).isSome = true → x.em = 0#64 → OnlyGoes s i.pk (s.pc + 8) (exec i s))
            ∧ ((sweepOp sc x.pr i).isSome = false → exec i s = .next (s.sysTrapped i { cause := 1, reason := 12 }))
            ∧ (∀ l base o wr, (sweepOp sc x.pr i).isSome = true → x.em ≠ 0#64 → s.tick.sweepBad x = some (l, base, o, wr) → exec i s =
                .next (s.sysTrapped i { cause := 3, reason := 2, addr := sweepReport base o, wr := wr, lane := l }))
            ∧ (∀ y, (sweepOp sc x.pr i).isSome = true → x.em ≠ 0#64 → s.tick.sweepBad x = none → x.bases.find? (fun y => y.1 % 4 ≠ 0) = some y →
                exec i s = .next (s.sysTrapped i { cause := 3, reason := 3, addr := BitVec.ofNat 64 y.1, wr := y.2 }))
      begins (.vaddSweep h d a b n) ∧ begins (.vsubSweep h d a b n) ∧ begins (.vaddsSweep h sx d a b n) ∧ begins (.vsubsSweep h sx d a b n)
        ∧ begins (.vmulSweep h d a b n) ∧ begins (.vmulhSweep h d a b n) ∧ begins (.vmulhuSweep h d a b n) ∧ begins (.vmadSweep h d a b n)
        ∧ begins (.vandSweep h d a b n) ∧ begins (.vorSweep h d a b n) ∧ begins (.vxorSweep h d a b n) ∧ begins (.vandnSweep h d a b n)
        ∧ begins (.vshlSweep h d a b n) ∧ begins (.vshrSweep h d a b n) ∧ begins (.vsraSweep h d a b n) ∧ begins (.vminSweep h d a b n)
        ∧ begins (.vmaxSweep h d a b n) ∧ begins (.vminuSweep h d a b n) ∧ begins (.vmaxuSweep h d a b n) ∧ begins (.vabsSweep h d a b n)
        ∧ begins (.vselSweep h d a b n) ∧ begins (.vbfxSweep h d a b n) ∧ begins (.vbfiSweep h d a b n) ∧ begins (.vfshSweep h d a b n)
        ∧ begins (.vclzSweep h d a b n) ∧ begins (.vpopcSweep h d a b n) ∧ begins (.vbrevSweep h d a b n) ∧ begins (.vmovSweep h d a b n)
        ∧ begins (.faddSweep h d a b n) ∧ begins (.fsubSweep h d a b n) ∧ begins (.fmulSweep h d a b n) ∧ begins (.ffmaSweep h d a b n)
        ∧ begins (.fminSweep h d a b n) ∧ begins (.fmaxSweep h d a b n) ∧ begins (.hadd2Sweep h d a b n) ∧ begins (.hmul2Sweep h d a b n)
        ∧ begins (.hfma2Sweep h d a b n) ∧ begins (.q8addSweep h d a b n) ∧ begins (.q8mulSweep h d a b n))
    ∧ (∀ (s u : State) (gk p : Nat) (x : Sweep) (op : Nat → LaneOp) (rs : List (Nat × Loc × W32 × FFlags)),
      let s0 := (s.performAll gk).at_ gk p
      let q := s0.pth
      let i := q.swi
      let o := s0.grp
      let cells := rs.flatMap fun r => (List.range 4).zipWith (fun k b => (r.2.1.plus k, b)) (leBytes 4 r.2.2.1.toNat)
      let new := rs.map fun r => (r.1, r.2.2.2)
      let flags := if x.flags = [] then new else (x.flags.zip new).map fun e => (e.1.1, e.1.2 ||| e.2.2)
      let fl := orFlags (flags.map (·.2))
      let e : Instr := .sweepIteration gk p
      let first := ∀ y, (o.path (1 - p)).sweep = some y → x.at_ ≤ y.at_
      let last (P : State → Prop) : Prop := Completes (exec e s) fun t => ∃ v : State, t = v.wakeOwed gk ∧ P v
      let wrote (t : State) : Prop := (∀ z, t.rb z = ((cells.reverse.find? fun c => c.1 = z).map (·.2)).getD (s0.rb z))
        ∧ ∀ k, k ≠ gk → t.group k = s0.group k
      let lane (l : Nat) : Option (Nat × Loc × W32 × FFlags) :=
        let v (y : Loc) : W32 := BitVec.ofNat 32 (s0.lnum y 4)
        match s0.sweepLoc gk x.aa (x.offs i l).2.1, s0.sweepLoc gk x.ab (x.offs i l).2.2, s0.sweepLoc gk x.ad (x.offs i l).1 with
        | some la, yb, some ld => if x.unary || yb.isSome then some (l, ld, op l (v la) (if x.unary then 0#32 else v (yb.getD la)) (v ld)) else none
        | _, _, _ => none
      (q.sweep = some x → s0.sweeping = true → s0.sweepReads gk x i = (u, some rs) →
          (i + 1 < x.n → Completes (exec e s) fun t => wrote t ∧ t.pth = { q with sweep := some { x with flags := flags }, swi := i + 1 }
              ∧ o.SameRegs t.grp)
            ∧ (x.n ≤ i + 1 → first → o.enabled fl = 0#6 → last fun t =>
                wrote t ∧ t.pth = { q with sweep := none, swi := 0, pc := s0.pc + 8, park := x.i.pk } ∧ t.grp.fps = o.fps ||| fl.setWidth 64
                  ∧ t.grp.sreg = o.sreg ∧ t.grp.vreg = o.vreg ∧ t.grp.preg = o.preg ∧ t.grp.tile = o.tile)
            ∧ (x.n ≤ i + 1 → first → o.enabled fl ≠ 0#6 → (o.hpc = 0 ∨ o.uhc ≠ 0) → o.ctl = false → last fun t =>
                t.grp.stopped = true ∧ (t.grp.path p).pc = s0.pc + 8
                  ∧ (t.grp.trap.map fun r => (r.cause, r.reason, r.ucause, r.tpc)) = some (7, if o.hpc = 0 then 1 else 2, 3, s0.pc))
            ∧ (x.n ≤ i + 1 → first → o.enabled fl ≠ 0#6 → o.hpc ≠ 0 → o.uhc = 0 → last fun t =>
                wrote t ∧ t.pc = o.hpc ∧ tget 0#64 t.grp.sreg 120 = s0.pc ∧ tget 0#64 t.grp.sreg 121 = 3
                  ∧ tget 0#64 t.grp.sreg 122 = BitVec.ofNat 64 fl.toNat
                  ∧ ∀ l, l < 64 → mbit (tget 0#64 t.grp.sreg 123) l = flags.any fun e => e.1 == l && decide (o.enabled e.2 ≠ 0#6))
            ∧ (x.n ≤ i + 1 → ¬ first → exec e s = .next s))
        ∧ (q.sweep = some x → s0.sweeping = true → (i + 1 < x.n ∨ first) → s0.sweepReads gk x i = (u, none) →
            (s0.sweepStall x = none → exec e s = .next s)
              ∧ ∀ wk rank, s0.sweepStall x = some (wk, rank) → Completes (exec e s) fun t => s0.Stalls t wk rank)
        ∧ (q.sweep = none ∨ s0.sweeping = false → exec e s = .next s)
        ∧ (∀ v : State, (∀ k, k < 2 → ∀ y, ((v.group gk).path k).wait = some y → y.wk ≠ 1 ∧ y.wk ≠ 2) → v.wakeOwed gk = v)
        ∧ (q.sweep = some x → s0.hist = [] → sweepOp x.sc x.pr x.i = some op → (s0.sweepReads gk x i).2 = (lanesOf x.em).mapM lane)
        ∧ (∀ (h : Hdr) (d a b n l : Nat) (pr : Mask) (u v z : W32) (sc : W64), scSat sc = false →
            let e := scWidth sc
            let val (i : Instr) : Option W32 := (sweepOp sc pr i).map fun f => (f l u v z).1
            val (.vaddSweep h d a b n) = some (ofElems e fun j => (elem e u j + elem e v j) % 2 ^ e)
              ∧ val (.vmulSweep h d a b n) = some (ofElems e fun j => elem e u j * elem e v j % 2 ^ e)
              ∧ val (.vminuSweep h d a b n) = some (ofElems e fun j => min (elem e u j) (elem e v j))
              ∧ (e = 32 → val (.vmadSweep h d a b n) = some (u * v + z) ∧ val (.vxorSweep h d a b n) = some (u ^^^ v)
                  ∧ val (.vmovSweep h d a b n) = some u ∧ val (.vselSweep h d a b n) = some (if mbit pr l then u else v))
              ∧ (e ≠ 32 → val (.vmadSweep h d a b n) = none ∧ val (.vxorSweep h d a b n) = none)))

/-- O53. (01 R25, R32, 02 R72 to R74, 08 R263). An outstanding result is written: the register that it names takes its value, a scalar whole, a
vector or predicate in its lanes, `em` within the lanes that its path owns and not at all once that path has ended; it leaves the list of its
path; a group that waited for nothing else ends; a tile word's result waits for those of earlier tile words, and for its own word where that
waits in the tile unit (the model's choice: log entry 97). (14 R418, R419, 16 R479). One clk of a quadrant: where its control group can issue, it
alone is chosen; otherwise the chosen groups are groups of the quadrant that can issue; the clk changes no register, no byte and no program
counter; of the quadrants' clk, the one that the die's counter counts is the model's choice (log entry 4). -/
def Obligations.BetweenWords : Prop :=
  (∀ (s : State) (gk p i : Nat) (q : Pend),
      let g := s.group gk
      let l := g.pendOf p
      let landed (c : RCls) (o : Host.Outcome State Fault Refusal) : Prop := (tfind? s.groups gk).isSome = true → l[i]? = some q → q.cls = c → q.queued = false →
        (c = .tile → ∀ x ∈ l.take i, x.cls ≠ .tile) →
          o = .next ((s.setGroup gk ((g.setPend p (dropIdx l i)).land p q)).tryEndGroup gk)
      landed .ld (exec (.ldResultWrite gk p i) s) ∧ landed .x (exec (.xResultWrite gk p i) s) ∧ landed .tile (exec (.tileWordPerform gk p i) s)
        ∧ (l[i]? = some q → q.queued = true → exec (.tileWordPerform gk p i) s = .next s)
        ∧ (∀ (c : RCls) (d : Nat) (ls : List (Nat × W32)) (pc w : W64) (re : List (Nat × Nat)) (dep n k : Nat),
            (∀ x ∈ ls, x.1 < 64) → (ls.map fun x => x.1).Nodup → k < 64 →
            (g.land p ⟨c, .v d ls, pc, w, re, dep⟩).lane n k =
              if n = d then (match ls.find? (fun x => x.1 == k) with | some x => x.2 | none => g.lane d k) else g.lane n k)
        ∧ (∀ (c : RCls) (d : Nat) (v pc w : W64) (re : List (Nat × Nat)) (dep n : Nat), d < 127 → n < 127 →
            tget 0#64 (g.land p ⟨c, .s d v, pc, w, re, dep⟩).sreg n = if n = d then v else tget 0#64 g.sreg n)
        ∧ (∀ (c : RCls) (v pc w : W64) (re : List (Nat × Nat)) (dep k : Nat), p < 2 → k < 2 →
            ((g.land p ⟨c, .s 127 v, pc, w, re, dep⟩).path k).mask = if k = p then v &&& (g.path p).owned else (g.path k).mask)
        ∧ (∀ (c : RCls) (v pc w : W64) (re : List (Nat × Nat)) (dep : Nat), g.land 2 ⟨c, .s 127 v, pc, w, re, dep⟩ = g)
        ∧ (∀ (c : RCls) (d : Nat) (ls vs : Mask) (pc w : W64) (re : List (Nat × Nat)) (dep n k : Nat), k < 64 →
            mbit ((g.land p ⟨c, .p d ls vs, pc, w, re, dep⟩).pred n) k =
              if n = d ∧ mbit ls k = true then mbit vs k else mbit (g.pred n) k)
        ∧ ∀ (j : Nat), j ≠ gk → ∀ t : Group, (s.setGroup gk t).group j = s.group j)
    ∧ (∀ (s : State) (core q : Nat), Completes (exec (.issueSelect core q) s) fun t =>
      let s1 := if s.countsClk core q then s.dieClk (dieOf core) else s
      let ctl := core * Config.nSlots + 64
      (q = 0 → s1.eligible ctl = true → t.chosen = s.chosen ++ [ctl])
        ∧ (∀ k ∈ t.chosen.drop s.chosen.length, (k = ctl ∧ q = 0 ∨ (s1.quadrant core q).any (fun e => e.1 == k) = true) ∧ s1.eligible k = true)
        ∧ (∀ k, (t.group k) = { s.group k with idle := (t.group k).idle, wdt := (t.group k).wdt, age := (t.group k).age })
        ∧ (∀ k, (t.group k).wdt = if (s1.quadrant core q).any (fun e => e.1 == k) = true ∧ 0 < (s.group k).rsd then (s.group k).wdt + 1 else (s.group k).wdt)
        ∧ (∀ x, t.rb x = s.rb x)
        ∧ (s.countsClk core q = true → (t.die (dieOf core)).cyc = ((s.die (dieOf core)).cyc + 1) % 2 ^ 64)
        ∧ (s.countsClk core q = false → t.dies = s.dies))

/-- O54. (09 R288 to R296, R290, 10 R323). Acceptance: the head of a team's queue is accepted when it passes its tests and starts, waits while they
hold it, is suspended at a missing page, or ends with the reason of the first test that it fails; in a halted queue it ends with RSN 8 unless it
restarts the queue. A command whose header, body and destinations are good and that has no phaser starts, unless a member of the cluster that it
names cannot be reached yet. Which ranges those are, and what its reads must see, are the model's choice (log entries 5, 105). (09 R291 to R296,
07 R245, 10 R324). Delivery and the end: an active command delivers its units; a command that has stopped or delivered everything ends: after an
error its record stands in scratchpad, its phasers receive what was counted and not delivered, its status is told, its slot is free or held, and
after an error its queue halts. A modifying command takes a free descriptor lock, waits for a held one, and ends with RSN 15 when it has waited
too long, FADDR then the descriptor's address (the model's choice: log entry 45). How much one unit delivers is the model's choice (log entry
66). (09 R291, R300, 05 R133). The data of a copy: where the next bytes of its row can be read and written and no phaser counts them, a unit (its
size: log entry 66) puts exactly those bytes of the source at the destination, up to the end of an aligned 4-byte word or of the row; every other
byte keeps its value, and the command is as much further on and keeps what it has read ahead. Where rows share words, one unit copies all of
them. -/
def Obligations.EngineEvents : Prop :=
  (∀ (s s2 : State) (team eng k : Nat) (ks : List Nat) (c c2 : Cmd),
      let q := (s.team team).queue eng
      let wak := c.fld 14 1 = 1
      let s1 := if wak then s.setTeam team ((s.team team).setQueue eng { q with halted := false, handed := false }) else s
      let pop (s : State) : State := s.setTeam team ((s.team team).setQueue eng { (s.team team).queue eng with cmds := ks })
      let head := q.cmds = k :: ks ∧ (s.eng k).cmd = some c ∧ c.susp = none ∧ (s.team team).saved = false
      (head → (q.halted = false ∨ wak) → acceptTests s1 c = .ok s2 c2 → exec (.engineAccept team eng) s = .next ((pop s2).setCmd k c2))
        ∧ (head → (q.halted = false ∨ wak) → acceptTests s1 c = .stop s2 c2 → exec (.engineAccept team eng) s = .next ((pop s1).endCmd k c2))
        ∧ (head → (q.halted = false ∨ wak) → acceptTests s1 c = .hold → exec (.engineAccept team eng) s = .next s1)
        ∧ (∀ va why lvl kind, head → (q.halted = false ∨ wak) → acceptTests s1 c = .page s2 c2 va why lvl kind →
            exec (.engineAccept team eng) s = .next (s2.suspend k c2 va why lvl kind))
        ∧ (head → q.halted = true → ¬ wak → exec (.engineAccept team eng) s = .next ((pop s).endCmd k (c.fail 8 0 0)))
        ∧ (head → q.halted = false → ¬ wak → s.headerBad c = false → c.bodyBad.1 = 0 → c.word < 16 → c.word ≠ 2 → c.fld 15 1 = 0 →
            checkRanges c (fun s => .ok s c) (c.dests 0) s = .ok s2 c → s2.namesAbsent c = false →
            exec (.engineAccept team eng) s = .next ((pop s2).setCmd k { c with counted := [], st := .active, sfloor := max c.sfloor s2.now }))
        ∧ (head → q.halted = false → ¬ wak → s.headerBad c = false → c.bodyBad.1 = 0 → c.word < 16 → c.word ≠ 2 →
            checkRanges c (fun s => .ok s c) (c.dests 0) s = .ok s2 c → s2.namesAbsent c = true → exec (.engineAccept team eng) s = .next s)
        ∧ (∀ u : State, u.headerBad c = true → acceptTests u c = .stop u (c.fail 1 0 0))
        ∧ (∀ u : State, u.headerBad c = false → c.bodyBad.1 ≠ 0 → acceptTests u c = .stop u (c.fail c.bodyBad.1 c.bodyBad.2 0)))
    ∧ (∀ (s s1 s3 : State) (k n choice pa m : Nat) (out : Bool) (c c3 : Cmd) (x : Counted) (l : Loc) (segs : List (Loc × Nat)),
      let here := (s.eng k).cmd = some c ∧ c.susp = none
      let marked := if c.rsn ≠ 0 ∧ c.fld 20 1 = 1 ∧ c.fld 16 4 < c.nt then s.markTile c (c.fld 16 4) else s
      let told := if c.rsn ≠ 0 then marked.cmdCells c ((List.range 32).zipWith (fun i b => (Loc.sp c.team (c.fld 32 27 + i), b)) c.record)
        else marked
      let t := s.endCmd k c
      let dva := c.fld 128 64
      let old := s1.rnum pa 64
      let c1 : Cmd := { c with st := .active, desc := old, descPa := pa, len := bits old 64 32, npos := bits old 96 32 }
      (here → c.st = .active → c.word ≤ 2 → 0 < n → exec (.engineDelivery k n choice) s = .next (s.settle k c (deliverUnit s c n choice)).1)
        ∧ (here → c.st = .active → 2 < c.word → exec (.engineDelivery k 1 choice) s = .next (s.settle k c (deliverUnit s c 1 choice)).1)
        ∧ (∀ u, here → deliverUnit s c n choice = .ok u c3 → (s.settle k c (deliverUnit s c n choice)).1 = u.setCmd k c3)
        ∧ (∀ u, here → c3.word ≤ 16 → deliverUnit s c n choice = .stop u c3 →
            (s.settle k c (deliverUnit s c n choice)).1 = u.setCmd k { c3 with st := .done })
        ∧ (here → c.st = .done → exec (.engineCommandEnd k) s = .next t)
        ∧ (eArrive true (2 ^ 48) c.counted [] told c .ok = .ok s3 c3 →
            (t.eng k).status = (if c.rsn = 0 then 1 else if c.delivered > 0 then 2 else 3) ∧ (t.eng k).cmd = none
              ∧ (c.rsn = 0 → (t.eng k).held = false)
              ∧ (c.rsn ≠ 0 → s3.waitersOf 3 = [] → (s3.eng k).team = c.team → (t.team c.team).past = false → (t.eng k).held = true)
              ∧ (c.rsn ≠ 0 → (tfind? t.teams c.team).isSome = true → ((t.team c.team).queue c.eng).halted = true))
        ∧ (c.rsn ≠ 0 → c.counted = [] → s.waitersOf 3 = [] → (tfind? t.teams c.team).isSome = true → ∀ i b, c.record[i]? = some b →
            t.rb (.sp c.team (c.fld 32 27 + i)) = b)
        ∧ (0 < x.left → s.eSegs c x.glob x.addr 32 .rmw = (s1, (l, m) :: segs, none) →
            let s2 := s1.setPhaser l ((s1.phaser l).sub (min n x.left))
            0 < n → eArrive out n [x] [] s c .ok =
              .ok ((if out then s2 else s2.addArrival l (s1.phaser l).phase (s2.cmdSync c (x.left ≤ n))).wakeAt l)
                { c with counted := [{ x with left := x.left - min n x.left }] })
        ∧ (here → c.st = .lockWait → s.eSegs c true dva 64 .rmw = (s1, [(.gpa pa, m)], none) → bit old 63 = false → s1.descOk c old = true →
            exec (.kvLockAcquire k) s = .next
              ((s1.putCells ((List.range 8).zipWith (fun i b => (Loc.gpa (pa + i), b)) (leBytes 8 (bits old 0 63 + 2 ^ 63)))).setCmd k c1))
        ∧ (here → c.st = .lockWait → s.eSegs c true dva 64 .rmw = (s1, [(.gpa pa, m)], none) → bit old 63 = true →
            exec (.kvLockAcquire k) s = .next s)
        ∧ (here → c.st = .lockWait → (s.part c.part).lkt ≠ 0 → (s.part c.part).lkt * 1024 < c.waited →
            exec (.kvLockTimeout k) s = .next (s.setCmd k { c.fail 15 dva 0 with st := .done, susp := none })))
    ∧ (∀ (s s1 s2 : State) (c : Cmd) (n : Nat) (sl dl : List (Loc × Nat)), c.word = 1 → c.fld 13 1 = 0 → c.counted = [] →
      let len := c.fld 256 32
      let r := c.pos / len
      let b := c.pos % len
      let at_ (base r b lo : Nat) : Nat := modInt 64 ((base : Int) + r * sxInt 32 (c.fld lo 32) + (b : Nat))
      let src := at_ (c.fld 128 64) r b 320
      let dst := at_ (c.fld 192 64) r b 352
      let m := min (n + (4 - (dst + n) % 4) % 4) (len - b)
      let want := min ((src + m + 3) / 4 * 4 - src) (len - b)
      let ahead := c.ahead.length
      let data := c.ahead ++ s1.cmdBytes c (segLocs sl)
      let rows := List.range (c.fld 288 16)
      let all := (segLocs sl).length
      let read := s2.cmdBytes c (segLocs sl)
      (c.ragged = false → 0 < m → ahead ≤ want → s.eSegs c (c.fld 304 1 == 1) (src + ahead) (want - ahead) .read = (s1, sl, none) →
      s1.eSegs c (c.fld 305 1 == 1) dst m .write = (s2, dl, none) →
      (segLocs sl).length = want - ahead → (segLocs dl).length = m → (segLocs dl).Nodup → (∀ pa, Loc.gpa pa ∈ segLocs dl → pa < 2 ^ 51) →
      (∃ u, cpyUnit s c n = .ok u { c with pos := c.pos + m, delivered := c.delivered + m, ahead := data.drop m,
                                           st := if len * c.fld 288 16 ≤ c.pos + m then .done else c.st }
          ∧ (∀ (j : Nat) (y : Loc), (segLocs dl)[j]? = some y → data[j]? = some (u.rb y))
          ∧ (∀ y, y ∉ segLocs dl → u.rb y = s.rb y) ∧ ∀ k, u.group k = s.group k)
        ∧ (s1.hist = [] → data = c.ahead ++ (segLocs sl).map s1.rb)
        ∧ (m = len - b ∨ (dst + m) % 4 = 0))
        ∧ (c.ragged = true → s.rowSegs c (c.fld 304 1 == 1) len .read (rows.map fun r => at_ (c.fld 128 64) r 0 320) = (s1, sl, none) →
            s1.rowSegs c (c.fld 305 1 == 1) len .write (rows.map fun r => at_ (c.fld 192 64) r 0 352) = (s2, dl, none) →
            0 < all → (segLocs dl).length = all → (∀ pa, Loc.gpa pa ∈ segLocs dl → pa < 2 ^ 51) →
            ∃ u, cpyUnit s c n = .ok u { c with pos := all, delivered := c.delivered + all, st := .done }
              ∧ (∀ y, u.rb y = (((segLocs dl).zip read).reverse.find? fun e => e.1 = y).elim (s.rb y) (·.2)) ∧ ∀ k, u.group k = s.group k))

/-- O55. (14 R406 to R409, R435, 15 R435, 16 R470). The launch at the head of a queue is admitted when it may be; one marked by CANCEL completes
without admission; one without an address space halts the queue, which is judged after its dependences and the count (the model's choice: log
entry 86); an aborted launch starts no team, its groups are to stop, no frame of it stays, and no command of a team whose frame it had stays
queued (the model's choice: log entry 104). What its grid sees is what was performed before its admission (log entry 5). (14 R410 to R417, 13
R386 to R388, R397, R400, 15 R444). The scheduler: an admitted team starts on a core where it is next, every group of it in a slot of its
quadrant, with the registers of a start; teams make room for one that has none, every group of them asked to stop; a stopped group is saved to a
frame of the pool, with the last of a team its scratchpad; a saved team comes back with its scratchpad, a saved group with what its frame holds,
stopped for the control group where its page is unresolvable; a member of a larger cluster that cannot come back aborts its launch. What is
reserved for another cluster stays reserved; no group of a team that is leaving comes back. Of several slots or places in the pool that would do,
the lowest is taken (the model's choice: log entry 53). -/
def Obligations.Scheduling : Prop :=
  (∀ (s : State) (q rseq off pid lid st : Nat) (r : LRec) (l : Launch),
      let x := s.lq q
      let p := s.part pid
      let asid := s.queueAsid p q
      let head := x.head = some (rseq, r, off) ∧ x.part = some pid ∧ x.halt = false
      let met := ∀ d ∈ r.deps, s.depMet p asid d = true
      let done (n status : Nat) : List Byte := leBytes 8 rseq ++ leBytes 8 n ++ leBytes 4 status ++ leBytes 4 x.woff ++ leBytes 4 x.coff
      (head → x.cancels.contains rseq = false → met → s.nadm q < 16 → (s.asRoot p asid).isSome = true → Completes (exec (.launchAdmit q) s) fun t =>
          tfind? t.launches s.nextLaunch = some { lr := r, lq := q, rseq := rseq, asid := asid, next := 0, teams := 0, die := none,
                                                  unpl := !s.fits p r.cw r.ch, abort := none, began := s.now }
            ∧ t.nextLaunch = s.nextLaunch + 1 ∧ (t.lq q).head = none ∧ (t.lq q).next = rseq + 1 ∧ (t.lq q).depw = false
            ∧ t.groups = s.groups ∧ ∀ y, t.rb y = s.rb y)
        ∧ (head → x.cancels.contains rseq = false → ¬ met → exec (.launchAdmit q) s = .next (s.setLq q { x with depw := true }))
        ∧ (head → x.cancels.contains rseq = false → met → 16 ≤ s.nadm q → exec (.launchAdmit q) s = .next (s.setLq q { x with depw := false }))
        ∧ (head → x.cancels.contains rseq = false → met → s.nadm q < 16 → s.asRoot p asid = none →
            exec (.launchAdmit q) s = .next (s.qhalt q rseq off 7 0))
        ∧ (head → x.cancels.contains rseq = true → x.markers = [] → Completes (exec (.launchAdmit q) s) fun t =>
            t.tp = (((s.setLq q x).emit (.lq q) 1 q pid (done r.tag 3)).tp) ∧ (t.lq q).next = rseq + 1 ∧ (t.lq q).head = none
              ∧ (t.lq q).done = x.done ++ [rseq] ∧ t.launches = s.launches ∧ t.groups = s.groups ∧ ∀ y, t.rb y = s.rb y)
        ∧ (tfind? s.launches lid = some l →
            let t := s.abortLaunch lid st
            (∀ v ∈ t.saved, v.grp.lid ≠ lid) ∧ (∀ m, tfind? t.launches lid = some m → m.abort = some (l.abort.getD st))
              ∧ (∀ k, (t.group k) = { s.group k with preempt := (t.group k).preempt })
              ∧ (∀ k, (tfind? s.groups k).isSome = true → (s.group k).lid = lid → (t.group k).preempt = true)
              ∧ ∀ e ∈ s.teams, e.2.lid = lid → e.2.saved = true → ∀ x ∈ t.engs, ∀ c, x.2.cmd = some c → c.team = e.1 → c.st ≠ .queued))
    ∧ (∀ (s : State) (lid cl rank core team idx octet gk a b : Nat) (l : Launch) (c : Cand) (octets slots : List Nat) (v : Saved) (p p2 : Part),
      let vs := s.teamSaved team
      let g := s.group gk
      let z := s.team team
      let placed := s.startTeam c l core octets
      let asked (ok : Group → Bool) (may : Cand → Bool) : Prop := ∃ c ∈ s.cands, c.lid = lid ∧ c.idx = cl ∧ may c = true ∧ s.hasRoom c = false
        ∧ (∀ t ∈ s.teamsAt slots, s.mayLeave c ok t = true) ∧ s.poolRoom (s.candPart c) (s.teamsAt slots) = true
      let leaves (i : Instr) : Prop := Completes (exec i s) fun t =>
        ∀ k, t.group k = { s.group k with preempt :=
          (s.group k).preempt || ((s.teamsAt slots).contains (s.group k).team && !(s.group k).ctl && !(s.group k).stopped) }
      let w := s.setPart g.part p
      let x := w.withdrawQuad gk
      let held := ((x.setGroup gk (x.group gk).landAll).performAll gk).group gk
      let k0 := c.started.getD s.nextCluster
      let cl0 := s.cluster k0
      let mayGo := (tfind? s.groups gk).isSome = true ∧ g.stopped = true ∧ (g.hold = .saved ∨ (g.hold = .page ∧ s.faultsSent g = true))
        ∧ s.maySave gk = true
      let saved (t : State) (tfa : Nat) : Prop :=
        tfind? t.groups gk = none ∧ (∃ v, t.saved = s.saved ++ [v] ∧ v.addr = a ∧ v.len = g.frameLen ∧ v.parked = false ∧ v.team = g.team)
          ∧ (∀ k, k < g.frameLen / 8 → t.frameRd a k = if k = 2 then tfa else held.frameWord (s.die (dieOf g.core)).cyc 0 k % 2 ^ 64)
          ∧ ∀ j, j ≠ gk → (t.group j).SameRegs (s.group j)
      let o := s.savedGroup v
      let back (t : State) : Prop :=
        let r := t.group gk
        o.SameRegs r ∧ r.slots = o.slots ∧ r.streams = o.streams ∧ r.core = core ∧ r.octet = octet ∧ r.rsd = o.rsd ∧ r.uhc = o.uhc
          ∧ r.p0 = { o.p0 with lastCyc := r.p0.lastCyc } ∧ r.p1 = { o.p1 with lastCyc := r.p1.lastCyc } ∧ r.preempt = false
          ∧ (∀ j, j ≠ gk → t.group j = s.group j) ∧ (∀ x ∈ t.saved, x.addr ≠ v.addr) ∧ ∀ y, t.rb y = s.rb y
      let whole := o.p0.wait = none ∧ o.p1.wait = none
      let cand := s.cands.find? (fun c => c.lid == lid && c.idx == cl && c.rank == rank && c.saved.isNone) = some c
      (tfind? s.launches lid = some l → cand → s.isNext c core = true → octets.length = l.lr.tg → (∀ o ∈ octets, octetOk l.lr.w o = true) →
          exec (.teamPlace lid cl rank core octets) s = .next placed)
        ∧ (let t := placed.team s.nextTeam;
            t.core = core ∧ t.lid = c.lid ∧ t.rank = c.rank ∧ t.part = l.lr.part ∧ t.sps = l.lr.sps ∧ t.spb = l.lr.spb ∧ t.tg = l.lr.tg
              ∧ t.saved = false ∧ t.past = false ∧ t.spm = [])
        ∧ (s.quadRoom core l.lr.asks = true → ∀ n, n < l.lr.tg → ∃ k, coreOf k = core ∧ slotOf k < 64 ∧ slotOf k / 16 = n % 4
            ∧ tfind? s.groups k = none ∧ placed.group k = { Group.start l.lr c.lid l.asid s.nextTeam core n c.rank c.idx (octets.getD n 0) with
                                                             obs := Obs.start l.began })
        ∧ (∀ k, (tfind? s.groups k).isSome = true → (s.group k).p0.wait = none → (s.group k).p1.wait = none → placed.group k = s.group k)
        ∧ (∀ y, (∀ t o, y ≠ .sp t o) → placed.rb y = s.rb y)
        ∧ (tfind? s.launches lid = some l → cand → s.isNext c core = true → ∀ x r, (s.core x).resv = some r → r.1 ≠ k0 → (placed.core x).resv = some r)
        ∧ (c.started.isSome = true → cl0.started.length + 1 = cl0.cores.length → ∀ x ∈ cl0.cores, ∀ n, (s.core x).resv = some (k0, n) →
            (tfind? s.cores x).isSome = true → (placed.core x).resv = none)
        ∧ (asked Group.inWait s.mayClear → leaves (.noRoomTimeout lid cl slots))
        ∧ (asked (fun g => g.pri == 0) s.mayPreempt → leaves (.classPreemptTimeout lid cl slots))
        ∧ (mayGo → s.lastResident gk = false → (s.part g.part).takeFrame g.frameLen = some (p, a) → a + g.frameLen ≤ 2 ^ 51 →
            Completes (exec (.saveComplete gk) s) fun t => saved t 0)
        ∧ (mayGo → g.team = team → s.lastResident gk = true → (s.part g.part).takeFrame g.frameLen = some (p, a) →
            p.takeFrame z.frameLen = some (p2, b) → a + g.frameLen ≤ 2 ^ 51 → b + z.frameLen ≤ 2 ^ 51 →
            (∀ e ∈ s.groups, e.2.sbuf = []) → g.tileq = [] → (∀ v ∈ s.saved, v.team ≠ team) → Completes (exec (.saveComplete gk) s) fun t =>
              saved t b ∧ (t.team team).saved = true ∧ (t.team team).tfa = b ∧ (t.team team).spm = []
                ∧ ∀ k, k < z.spb → t.rb (.gpa (b + 1024 + k)) = s.rb (.sp team k))
        ∧ (mayGo → (s.part g.part).takeFrame g.frameLen = none → exec (.saveComplete gk) s = .next s)
        ∧ (z.saved = true → s.stranded z = false → s.cands.find? (fun c => c.saved == some team) = some c → s.isNext c core = true →
            octets.length = vs.length → (∀ y ∈ vs.zip octets, octetOk (s.savedGroup y.1).w y.2 = true) →
            exec (.teamRestore team core octets) s =
              .next (((vs.zip octets).foldl (fun a y => a.restoreOne y.1 core y.2) (s.restoreTeam team core z.tfa)).restoreHalts team core))
        ∧ (let t := s.restoreTeam team core z.tfa;
            (t.team team).saved = false ∧ (t.team team).core = core ∧ (t.team team).spb = s.rnum (z.tfa + 4) 4
              ∧ (t.team team).phasers = s.framePhasers z.tfa ∧ (t.team team).cq.halted = (s.rnum (z.tfa + 16) 1).testBit 4
              ∧ (t.team team).gq.halted = (s.rnum (z.tfa + 16) 1).testBit 5
              ∧ ∀ k, k < s.rnum (z.tfa + 4) 4 → t.rb (.sp team k) = s.rb (.gpa (z.tfa + 1024 + k)))
        ∧ (z.saved = true → 1 < (s.cluster z.cluster).cores.length → (s.core z.core).faulted = true →
            exec (.teamRestore team core octets) s = .next (s.abortLaunch z.lid 2))
        ∧ (s.returns v = true → z = s.team v.team → z.saved = false ∧ (s.die (dieOf z.core)).resetting = false ∧ (s.core z.core).faulted = false
            ∧ ∀ e ∈ s.groups, e.2.team = v.team → e.2.leaving = false)
        ∧ (s.saved[idx]? = some v → s.returns v = false → exec (.groupRestore idx core octet) s = .next s)
        ∧ (s.saved[idx]? = some v → s.returns v = true → (s.team v.team).core = core → octetOk o.w octet = true →
            exec (.groupRestore idx core octet) s = .next (s.restoreOne v core octet))
        ∧ (s.saved[idx]? = some v → s.returns v = true → (s.team v.team).core = core → octetOk o.w octet = true → whole → v.grp.fltBad = false →
            s.freeSlot core (o.gid % 4) = some gk → Completes (exec (.groupRestore idx core octet) s) fun t =>
              back t ∧ (t.group gk).stopped = false ∧ (t.group gk).hold = .none)
        ∧ (whole → v.grp.fltBad = true → s.freeSlot core (o.gid % 4) = some gk →
            let t := s.restoreOne v core octet
            back t ∧ (t.group gk).stopped = true ∧ (t.group gk).hold = .ctl
              ∧ ((t.group gk).trap.map fun r => (r.cause, r.reason)) = some (3, 7)
              ∧ ∃ e ∈ (t.core (coreOf gk)).events, e.slot = slotOf gk ∧ e.kind = 1))

/-- O56. (15 R444 to R449). A fault record goes to the ring of its partition while it has room, in order, the new TAIL a release at `.sys`, and the
host is told; a reply is acted on for every agent of the record that it names, and HEAD moves on; one with ACT 0 or 3 does nothing else. A group
that waited for the page alone goes on, or stops for the control group with PROT reason 7; a command, a stream or a host access goes on, or meets
its page as unresolvable. -/
def Obligations.FaultService : Prop :=
  ∀ (s : State) (part idx : Nat) (f : FaultRec), (tfind? s.parts part).isSome = true →
    let p := s.part part
    let tail := s.rnum p.fra 8
    let head := s.rnum (p.fra + 8) 8
    let w := (s.wbytes (p.fra + 64 + 32 * (tail % p.frc)) (f.bytes part)).releaseLocs part .sys false
      ((List.range 8).map fun i => .gpa (p.fra + i)) ((tail + 1) % 2 ^ 64)
    let rt := s.rnum p.rra 8
    let rh := s.rnum (p.rra + 8) 8
    let a := p.rra + 64 + 16 * (rh % p.rrc)
    let act := bits (s.rnum (a + 4) 4) 0 2
    let next (t : State) : Host.Outcome State Fault Refusal := .next (t.wnum (p.rra + 8) 8 ((rh + 1) % 2 ^ 64))
    let named := p.faults.find? fun f => f.fid == s.rnum a 4 && f.sent
    (p.faults[idx]? = some f → f.sent = false → (∀ e ∈ p.faults.take idx, e.sent = true) → (tail + 2 ^ 64 - head) % 2 ^ 64 < p.frc →
        exec (.faultRecordSend part idx) s = .next ((w.setPart part { w.part part with
          faults := setIdx p.faults idx fun f => { f with sent := true } }).emit (.part part) 3 0 part (leBytes 4 f.fid)))
      ∧ (p.faults[idx]? = some f → p.frc ≤ (tail + 2 ^ 64 - head) % 2 ^ 64 → exec (.faultRecordSend part idx) s = .next s)
      ∧ (rt = rh → exec (.replyProcess part) s = .next s)
      ∧ (rt ≠ rh → named = some f → act = 1 ∨ act = 2 → exec (.replyProcess part) s =
          next (f.att.foldl (fun (t : State) (x : Attached) => t.answer f (act == 2) x)
            (s.setPart part { p with faults := p.faults.filter fun g => g.fid ≠ s.rnum a 4 })))
      ∧ (rt ≠ rh → act = 0 ∨ act = 3 → exec (.replyProcess part) s = next s)
      ∧ (rt ≠ rh → named = none → exec (.replyProcess part) s = next s)
      ∧ (∀ lid team gid gk, let g := s.group gk
          s.findGroup lid team gid = some gk → g.stopped = true → g.hold = .page → (∀ i ∈ g.flt, i = f.fid) → g.fltBad = false →
          s.answer f false (.group lid team gid) = s.setGroup gk { g with flt := [], stopped := false, hold := .none }
            ∧ let t := s.answer f true (.group lid team gid)
              (t.group gk).stopped = true ∧ (t.group gk).hold = .ctl ∧ ((t.group gk).trap.map fun r => (r.cause, r.reason)) = some (3, 7)
                ∧ ∃ e ∈ (t.core (coreOf gk)).events, e.slot = slotOf gk ∧ e.kind = 1)
      ∧ (∀ k c bad, (s.eng k).cmd = some c → c.susp = some f.fid →
          ((s.answer f bad (.engine k)).eng k).cmd = some { c with susp := none, bad := if bad then f.va :: c.bad else c.bad })
      ∧ (∀ lid team gid gk k bad, let x := (s.group gk).stream k
          s.findGroup lid team gid = some gk → x.susp = some f.fid →
          ((s.answer f bad (.stream lid team gid k)).group gk).stream k = { x with susp := none, bad := if bad then f.va :: x.bad else x.bad })
      ∧ ∀ q bad, ((s.answer f bad (.host q)).lq q) = { s.lq q with hold := (s.lq q).hold.filter (· ≠ f.fid), bad := (s.lq q).bad || bad }

/-- O57. (16 R460 to R464). The transport: a data frame with the expected SSEQ is accepted whole, one ahead is answered by a NAK and one behind by an
ACK, and both are discarded; acknowledgements, retransmission, the RESYNC parts, and the beginning and end of a session: a HELLO of the same
endpoint with a new SID ends a live one first; what the host has not acknowledged goes first in the new one. -/
def Obligations.TransportFrames : Prop :=
  ∀ (s u : State) (f : Frame),
    let t := s.tp
    let mine := t.live = true ∧ f.sid = t.sid ∧ f.src = t.endpoint
    let ackd : State := { s with tp := { t with acked := if seqAfter f.aseq t.acked then f.aseq else t.acked } }
    let recs := splitRecords 571 f.payload
    let left := (t.kept.filter fun k => !seqAfter t.acked k.1).map (·.2) ++ t.backlog
    let begun (u : Transport) : Prop := u.live = true ∧ u.sid = f.sid ∧ u.endpoint = f.src ∧ u.rxNext = 0 ∧ u.unacked = 0 ∧ u.backlog = []
    (frameOk f 1 = true → mine → f.sseq = t.rxNext → ackd.placeAll recs = some u → Completes (exec (.dataFrame f) s) fun v =>
        v = { u with tp := v.tp } ∧ v.tp.rxNext = (t.rxNext + 1) % 2 ^ 32 ∧ v.tp.unacked = (if t.unacked + 1 ≥ 16 then 0 else t.unacked + 1))
      ∧ (frameOk f 1 = true → mine → f.sseq = t.rxNext → ackd.placeAll recs = none →
          exec (.dataFrame f) s = .next { s with tp := ackd.tp.reply 3 2 [] })
      ∧ (frameOk f 1 = true → mine → f.sseq ≠ t.rxNext → seqAfter f.sseq t.rxNext = true →
          exec (.dataFrame f) s = .next { s with tp := ackd.tp.discard.reply 3 1 [] })
      ∧ (frameOk f 1 = true → mine → f.sseq ≠ t.rxNext → seqAfter f.sseq t.rxNext = false →
          exec (.dataFrame f) s = .next { s with tp := ackd.tp.discard.ack })
      ∧ (frameOk f 2 = true → mine → exec (.ack f) s = .next ackd)
      ∧ (frameOk f 3 = true → mine → exec (.nak f) s = .next { s with tp := ackd.tp.resend f.aseq })
      ∧ (frameOk f 4 = true → mine → exec (.resyncRequest f) s =
          .next { s with tp := (List.range 4).foldl (fun t i => t.reply 5 0 (ackd.resyncPart i)) ackd.tp })
      ∧ (frameOk f 7 = true → f.len = 0 → mine → exec (.close f) s = .next { s with tp := ackd.tp.endSession })
      ∧ (¬ mine → exec (.dataFrame f) s = .next { s with tp := t.discard } ∧ exec (.ack f) s = .next { s with tp := t.discard })
      ∧ (t.live = true → 0 < t.unacked → Completes (exec .ackTimer s) fun v => v = { s with tp := v.tp } ∧ v.tp.unacked = 0)
      ∧ (t.live = true → Completes (exec .sessionTimeout s) fun v => v = { s with tp := v.tp } ∧ v.tp.live = false)
      ∧ (frameOk f 6 = true → f.len = 0 → s.up = true → t.live = false → Completes (exec (.hello f) s) fun v =>
          v = { s with tp := v.tp } ∧ begun v.tp ∧ (t.backlog.length ≤ 65536 → v.tp.kept.map (·.2) = t.backlog))
      ∧ (frameOk f 6 = true → f.len = 0 → s.up = true → t.live = true → f.src = t.endpoint → f.sid ≠ t.sid → Completes (exec (.hello f) s) fun v =>
          v = { s with tp := v.tp } ∧ begun v.tp ∧ (left.length ≤ 65536 → v.tp.kept.map (·.2) = left))
      ∧ (frameOk f 6 = true → f.len = 0 → s.up = true → t.live = true → f.src = t.endpoint → f.sid = t.sid → exec (.hello f) s = .next s)
      ∧ (frameOk f 6 = true → f.len = 0 → s.up = true → t.live = true → f.src ≠ t.endpoint → exec (.hello f) s = .next s)

/-- O58. (16 R465 to R469, 14 R407). The next record of a queue: a good one acts and the queue goes on past it, a malformed one halts the queue with
the reason of the first rule that it breaks; a halted queue takes none. A host access waits for a page, and a refused one is answered without
data (the model's choice: log entry 60); a WRITE writes all the bytes behind its head that SIZE gives (log entry 89). A MARKER completes when no
launch that was admitted before it is left. -/
def Obligations.QueueRecords : Prop :=
  ∀ (s u : State) (q off : Nat) (r : List Byte) (pas : List Nat),
    let x := s.lq q
    let h := recHdr r
    let ready (code : Nat) : Prop := x.halt = false ∧ x.head = none ∧ x.gap = 0 ∧ s.headRecord q = some (r, off) ∧ h.code = code
    let good (code : Nat) : Prop := ready code ∧ s.recordReason q r off = (0, 0) ∧ 0 < r.length ∧ r.length ≤ x.used
    let fin (s : State) : State := s.setLq q ((s.lq q).finish h.rseq r.length)
    let held (t : State) : State := t.setLq q { t.lq q with gap := x.tst }
    let p := s.part (x.part.getD 0)
    let asid := s.queueAsid p q
    let data := (r.drop 24).take (writeLen h.size)
    let mayAccess := x.hold = [] ∧ x.bad = false
    let refused (t : State) : Host.Outcome State Fault Refusal := .next (held ((fin t).rdata q h.rseq []))
    let paged (a why lvl : Nat) (k : AKind) : Host.Outcome State Fault Refusal :=
      let z := p.attach asid (a, why, lvl) k.code 4 0 0 (.host q)
      .next ((s.setPart (x.part.getD 0) z.1).setLq q { x with hold := x.hold ++ [z.2] })
    let said (m : Nat × Nat × Nat) : List Byte := leBytes 8 m.1 ++ leBytes 8 m.2.1 ++ leBytes 4 0 ++ leBytes 4 (u.lq q).woff ++ leBytes 4 (u.lq q).coff
    let bad (i : Instr) (code : Nat) : Prop := ∀ reason sub, ready code → s.recordReason q r off = (reason, sub) → reason ≠ 0 →
      exec i s = .next (s.qhalt q h.rseq off reason sub)
    (good 1 → exec (.launch q) s = .next (held (s.setLq q { x.pass r.length with head := some (h.rseq, LRec.ofNat (leNat (r.drop 16)), off) })))
      ∧ (good 2 → exec (.wrap q) s = .next (held (fin s)))
      ∧ (good 3 → mayAccess → s.hostSpan p asid .write 3 (recFld r 0 8) data.length [] = .ok pas →
          exec (.write q) s = .next (held (fin (s.wcells ((pas.map Loc.gpa).zip data)))))
      ∧ (good 4 → mayAccess → s.hostSpan p asid .read 3 (recFld r 0 8) (recFld r 8 4) [] = .ok pas →
          exec (.read q) s = .next (held ((fin s).rdata q h.rseq (pas.map fun a => s.rb (.gpa a)))))
      ∧ (good 3 → mayAccess → s.hostSpan p asid .write 3 (recFld r 0 8) data.length [] = .refused → exec (.write q) s = refused s)
      ∧ (good 4 → mayAccess → s.hostSpan p asid .read 3 (recFld r 0 8) (recFld r 8 4) [] = .refused → exec (.read q) s = refused s)
      ∧ (∀ a why lvl, good 3 → mayAccess → s.hostSpan p asid .write 3 (recFld r 0 8) data.length [] = .page a why lvl →
          exec (.write q) s = paged a why lvl .write)
      ∧ (∀ a why lvl, good 4 → mayAccess → s.hostSpan p asid .read 3 (recFld r 0 8) (recFld r 8 4) [] = .page a why lvl →
          exec (.read q) s = paged a why lvl .read)
      ∧ (x.hold ≠ [] → (good 3 → exec (.write q) s = .next s) ∧ (good 4 → exec (.read q) s = .next s))
      ∧ (x.hold = [] → x.bad = true → (good 3 → exec (.write q) s = refused (s.setLq q { x with bad := false }))
          ∧ (good 4 → exec (.read q) s = refused (s.setLq q { x with bad := false })))
      ∧ (good 5 → exec (.marker q) s =
          .next (held ((s.setLq q { x.finish h.rseq r.length with markers := x.markers ++ [(h.rseq, recFld r 0 8, s.nextLaunch)] }).markers q)))
      ∧ (∀ m, (u.lq q).markers = [m] → (∀ e ∈ u.launches, e.2.lq = q → m.2.2 ≤ e.1) →
          u.markers q = (u.setLq q { u.lq q with markers := [] }).emit (.lq q) 1 q (((u.lq q).part).getD 0) (said m))
      ∧ (∀ m ms, (u.lq q).markers = m :: ms → (∃ e ∈ u.launches, e.2.lq = q ∧ e.1 < m.2.2) → u.markers q = u.setLq q (u.lq q))
      ∧ bad (.launch q) 1 ∧ bad (.wrap q) 2 ∧ bad (.write q) 3 ∧ bad (.read q) 4 ∧ bad (.marker q) 5
      ∧ (x.halt = true → ∀ i ∈ [Instr.launch q, .wrap q, .write q, .read q, .marker q], exec i s = .next s)
      ∧ ((s.qhalt q h.rseq off 4 0).lq q).halt = true

/-- O59. (16 R459, R463, R466 to R470, R474, R478, R482; 15 R433, R434). The management records: the next one, if it is in sequence and well formed,
has its effect and is answered by an MREPLY of status 0; one that may not act is answered 1, a malformed one 2. That QRESET drops the launch
which waits at the head, that QCFG and QRESET drop a record that found no room, and when CANCEL marks a launch to come or refuses one that is
gone, are the model's choice (log entries 86, 87, 88). -/
def Obligations.ManagementRecords : Prop :=
  ∀ (s : State) (r : List Byte) (rs : List (List Byte)), s.tp.mgmt = r :: rs →
    let h := recHdr r
    let s1 : State := { s with tp := { s.tp with mgmt := rs, rseq := h.rseq + 1 } }
    let fits (code size : Nat) (listed : List (Nat × Nat)) : Prop :=
      h.code = code ∧ h.lq = 0 ∧ h.res = false ∧ h.rseq = s.tp.rseq ∧ bodyOk r size listed = true
    let reply (t : State) (status : Nat) (data : List Byte) : Host.Outcome State Fault Refusal :=
      .next (t.emit .mgmt 6 0 0 (leBytes 8 h.rseq ++ leBytes 8 status ++ data))
    let a := recFld r 0 8
    let k := recFld r 0 1
    let x := s.lq k
    let p := s1.newPart a
    let pid := s1.dfld a 0 8
    let placed := a % 128 = 0 ∧ s1.present a 128 = true ∧ s1.descriptorOk a = true ∧ s1.taken a = false
      ∧ s1.present (s1.dfld a 64 64) 128 = true ∧ s1.pcbOk (s1.dfld a 64 64) = true
    let n := recFld r 8 8
    let base := recFld r 8 8
    let size := recFld r 16 8
    let mine := s.launches.find? fun e => e.2.lq == k && e.2.rseq == n
    let peer : Peer := { v := recFld r 1 1 == 1, psk := recFld r 2 1, paid := recFld r 8 2, pbase := recFld r 16 8 }
    (fits 16 2 [(0, 8)] → placed → Completes (exec .pcreate s) fun t =>
        (t.part pid).dies = p.dies ∧ (t.part pid).lqmap = p.lqmap ∧ (∀ d, p.dies.testBit d = true → (tfind? s.dies d).isSome = true →
          (t.die d).part = some pid) ∧ (∀ q, q < 256 → p.lqmap.testBit q = true → (t.lq q).part = some pid) ∧ t.groups = s.groups)
      ∧ (fits 16 2 [(0, 8)] → a % 128 ≠ 0 → exec .pcreate s = reply s1 2 [])
      ∧ (fits 17 2 [(0, 1)] → (tfind? s.parts k).isSome = true → s.partBusy k = false → Completes (exec .pdestroy s) fun t =>
          tfind? t.parts k = none ∧ (∀ d, (t.die d).part ≠ some k) ∧ (∀ d, ∀ e ∈ (t.die d).tlb, e.part ≠ k) ∧ t.groups = s.groups
            ∧ ∀ y, t.rb y = s.rb y)
      ∧ (fits 17 2 [(0, 1)] → s.partBusy k = true → exec .pdestroy s = reply s1 1 [])
      ∧ (fits 21 2 [(0, 8)] → (∃ y ∈ s.recalls, y.id = a ∧ y.acked = false) →
          exec .rack s = reply { s1 with recalls := s.recalls.map fun y => if y.id = a then { y with acked := true } else y } 0 [])
      ∧ (fits 22 3 [(0, 32)] → let m := s1.measure ((r.drop 16).take 32)
          exec .attest s = reply (s1.putMeasure m) 0 m)
      ∧ (fits 23 2 [(0, 1)] → k ≤ 7 → (tfind? s.dies k).isSome = true → (s.die k).resetting = false → Completes (exec .dreset s) fun t =>
          (t.die k).resetting = true ∧ (t.die k).rgen = (s.die k).rgen ∧ (s1.boundTo k = [] → t.groups = s.groups)
            ∧ (∀ gk, dieOf (coreOf gk) = k → t.emptying gk =
                (!(t.group gk).ctl && !(t.group gk).stopped && t.poolRoom (t.group gk).part [(t.group gk).team]))
            ∧ ∀ lid ∈ s1.boundTo k, ∀ m, tfind? t.launches lid = some m → m.abort.isSome = true)
      ∧ (fits 24 1 [] → exec .info s = reply s1 0 (Memory.reads s.mem 0 4096))
      ∧ (fits 25 3 [(0, 3), (8, 2), (16, 8)] → k ≤ 15 → recFld r 1 1 ≤ 1 → peer.psk ≤ 15 → peer.paid ≤ 1023 → peer.pbase % 2 ^ 30 = 0 →
          s.parts.any (fun y => y.2.rsk.testBit k) = false → Completes (exec .peers s) fun t =>
            tfind? t.peers k = (if peer.v then some peer else none) ∧ (∀ j, j ≠ k → tfind? t.peers j = tfind? s.peers j) ∧ t.groups = s.groups)
      ∧ (∀ part, fits 18 3 [(0, 1), (4, 4), (8, 8), (16, 8)] → 0 < recFld r 4 4 → recFld r 4 4 ≤ 1024 → base % 4096 = 0 →
          powerIn size 65536 (2 ^ 28) = true → x.part = some part → s.paIn (s.part part) base = true → s.paIn (s.part part) (base + size - 1) = true →
          s.present base size = true → exec .qcfg s = reply (s1.setLq k { x with
            base := base, size := size, tst := recFld r 4 4, woff := 0, coff := 0, used := 0, stuck := none }) 0 [])
      ∧ (fits 19 2 [(0, 1), (8, 8)] → Completes (exec .qreset s) fun t =>
          t.lq k = { x with woff := 0, coff := 0, used := 0, stuck := none, head := none, next := n, floor := n, halt := false, depw := false,
                            cancels := [], done := x.done.filter (fun i => decide (i < n)), hold := [], bad := false }
            ∧ (∀ j, j ≠ k → t.lq j = s.lq j) ∧ (∀ e ∈ t.parts, ∀ f ∈ e.2.faults, Attached.host k ∉ f.att) ∧ t.launches = s.launches
            ∧ t.groups = s.groups ∧ ∀ y, t.rb y = s.rb y)
      ∧ (∀ e, fits 20 2 [(0, 1), (8, 8)] → mine = some e → exec .cancel s = reply (if e.2.abort.isSome then s1 else s1.abortLaunch e.1 3) 0 [])
      ∧ (fits 20 2 [(0, 1), (8, 8)] → mine = none → n < x.next → exec .cancel s = reply s1 1 [])
      ∧ (fits 20 2 [(0, 1), (8, 8)] → mine = none → x.next ≤ n → x.cancels.contains n = false →
          exec .cancel s = reply (s1.setLq k { x with cancels := x.cancels ++ [n] }) 0 [])

/-- O60. (16 R457 to R459, R475 to R484). The module: bring-up with an accepted board, the reset of a die, a remote request that gets no answer,
responses of an older generation, requests of peers, the arithmetic clock, the loss of power, which the fused rollback counter survives. Of the
lanes of a load that leave the die, those that get no answer are free, at least one (log entry 106). A mesh timeout gives the outcomes of a link
timeout for what leaves the die; which requests those are is the model's choice (log entry 65), as are the loss of the launch of a group that a
faulted core's control group holds (91), what stays over a reset and a loss of power (9, 51, 61), and that a peer's read changes nothing (64). -/
def Obligations.ModuleEvents : Prop :=
  ∀ (s : State) (b : Board) (d gen gk p i pa sz a1 a2 : Nat) (data : List Byte) (op : AOp) (tt : TimeoutTarget) (mesh : Bool),
    let x := s.die d
    let g := s.group gk
    let part := s.partOf g
    let gone (l : Loc) : Prop := match l with | .gpa a => s.leaves mesh (s.partOf g) a = true | _ => False
    let locs := (List.range sz).map fun i => Loc.gpa (pa + i)
    let atomic := exec (.remoteRequest (.atomic pa sz op a1 a2)) s
    let fresh := amoNew op sz (leNat (locs.map s.rb)) (a1 % 2 ^ (8 * sz)) (a2 % 2 ^ (8 * sz))
    let asked := (sz = 4 ∨ sz = 8) ∧ pa % sz = 0 ∧ firmwareBytes ≤ pa ∧ s.present pa sz = true
    (s.up = false → boardAccepts b s.rollback = true → boardSound b = true → b.ok = true → Completes (exec (.powerGood b) s) fun t =>
        t.up = true ∧ t.qta = b.qta ∧ t.mra = b.mra ∧ t.parts = [] ∧ t.launches = [] ∧ t.lqs = []
          ∧ t.skcap = b.skcap ∧ t.rollback = max b.rollback s.rollback ∧ Memory.reads t.mem 0 4096 = t.infoRecord
          ∧ (∀ n, n < 8 → (t.die n).cen = b.cen.getD n 0 ∧ (t.die n).cyc = 0 ∧ (t.die n).rgen = 0)
          ∧ ∀ c ∈ boardCores b, (t.group (c * 65 + 64)).ctl = true ∧ (t.group (c * 65 + 64)).p0.pc = BitVec.ofNat 64 (Config.controlEntry b.image.body))
      ∧ (s.up = true ∨ boardAccepts b s.rollback = false → exec (.powerGood b) s = .next s)
      ∧ (x.resetting = true → s.dieGroups d = [] → s.dieBusy d = false → exec (.dieReset d) s = .next (s.resetDie d))
      ∧ (x.resetting = true → s.dieGroups d = [] → s.dieBusy d = true → exec (.dieReset d) s = .next s)
      ∧ ((s.resetDie d).die d = { x with rgen := (x.rgen + 1) % 2 ^ 16, cyc := 0, tlb := [], resetting := false, eseq := x.eseq + 1 })
      ∧ (∀ c, (tfind? s.cores c).isSome = true → dieOf c = d →
          (s.resetDie d).group (c * 65 + 64) =
              { Group.startCtl c (Config.controlEntry ((s.image.map (·.body)).getD [])) with obs := Obs.start s.now }
            ∧ (s.resetDie d).core c = { Core.init with colour := ((s.resetDie d).core c).colour })
      ∧ (x.resetting = true → s.dieGroups d ≠ [] →
          (∀ e ∈ s.dieGroups d, e.2.stopped = true ∧ e.2.hold = .ctl ∧ (s.core e.2.core).faulted = true) →
          exec (.dieReset d) s = .next ((s.dieGroups d).foldl (fun t e => (t.abortLaunch e.2.lid 2).killGroup e.1) s))
      ∧ exec (.linkTimeout tt) s = .next (s.lose false tt) ∧ exec (.meshTimeout tt) s = .next (s.lose true tt)
      ∧ (∀ l, let r := s.lostLanes mesh part l
          r.Sublist l ∧ (∀ e ∈ r, s.leaves mesh part e.2 = true) ∧ (r = [] ↔ ∀ e ∈ l, s.leaves mesh part e.2 = false))
      ∧ (∀ q lane ra r, (g.pendOf p)[i]? = some q → s.lostLanes mesh part q.remote = (lane, ra) :: r → (tfind? s.groups gk).isSome = true →
          g.stopped = false → g.ctl = false →
          let t := s.lose mesh (.load gk p i)
          (t.group gk).stopped = true ∧ (t.group gk).hold = .ctl
            ∧ ((t.group gk).trap.map fun r => (r.cause, r.addr, r.lane)) = some (9, BitVec.ofNat 64 ra, lane)
            ∧ ∀ k, k ≠ gk → t.group k = s.group k)
      ∧ (∀ q, (g.pendOf p)[i]? = some q → s.lostLanes mesh part q.remote = [] → s.lose mesh (.load gk p i) = s)
      ∧ (∀ a, s.leaves false d a = decide (2 ^ 51 ≤ a))
      ∧ (∀ e, g.sbuf[i]? = some e → (∃ y ∈ e.cells, gone y.1) →
          let t := s.lose mesh (.store gk i)
          (t.group gk).sbuf = dropIdx g.sbuf i ∧ (t.group gk).lostRemote.isSome = true
            ∧ (∀ y, (∀ z ∈ e.cells, z.1 = y → gone y) → (∀ pa, y = .gpa pa → pa < 2 ^ 51) →
                t.rb y = s.rb y)
            ∧ ∀ k, k ≠ gk → t.group k = s.group k)
      ∧ ((tfind? s.groups gk).isSome = true → g.stopped = false → s.lose mesh (.word gk) = s.setGroup gk { g with deaf := some mesh })
      ∧ (∀ c, (s.eng gk).cmd = some c → c.st ≠ .done → s.lose mesh (.engine gk) = s.setCmd gk { c with deaf := some mesh })
      ∧ (∀ y, tfind? s.dies d = some y → gen % 2 ^ 16 = y.rgen → exec (.responseArrival d gen) s = .next s)
      ∧ (∀ y, tfind? s.dies d = some y → gen % 2 ^ 16 ≠ y.rgen → Completes (exec (.responseArrival d gen) s) fun t =>
          (t.die d).stale = (y.stale + 1) % 2 ^ 64 ∧ (t.die d).rgen = y.rgen ∧ t.groups = s.groups)
      ∧ (data.length ≤ 256 → firmwareBytes ≤ pa → s.present pa data.length = true → pa + data.length ≤ 2 ^ 51 →
          Completes (exec (.remoteRequest (.write pa data)) s) fun t => t.groups = s.groups
            ∧ (∀ k (v : Byte), data[k]? = some v → t.rb (.gpa (pa + k)) = v)
            ∧ ∀ y, (∀ k, k < data.length → y ≠ .gpa (pa + k)) → t.rb y = s.rb y)
      ∧ (∀ v, asked → fresh = some v → atomic = .next (s.putCells (locs.zip (leBytes sz v))))
      ∧ (asked → fresh = none → atomic = .next s)
      ∧ exec (.remoteRequest (.read pa sz)) s = .next s
      ∧ exec .powerLimit s = .next { s with mhz := if 325 ≤ s.mhz then s.mhz - 25 else s.mhz }
      ∧ exec .limitClear s = .next { s with mhz := if s.mhz + 25 ≤ 600 then s.mhz + 25 else s.mhz }
      ∧ exec .powerLoss s = .next
          { State.reset with agenda := s.agenda, fresh := s.fresh, powered := false, rollback := s.rollback, peerMem := s.peerMem, poison := s.poison }
end

