-- ==== Sys2Proof/Laws/State.lean ====
section
/-! SUPPORT. One lemma per field and update of the state and of a group, each true by definition. -/

namespace Sys2Proof.Machine

/-! ## `State.setGroup` -/

@[simp] theorem setGroup_agenda (s : State) (k : Nat) (x : Group) : (s.setGroup k x).agenda = s.agenda := rfl
@[simp] theorem setGroup_todo (s : State) (k : Nat) (x : Group) : (s.setGroup k x).todo = s.todo := rfl
@[simp] theorem setGroup_chosen (s : State) (k : Nat) (x : Group) : (s.setGroup k x).chosen = s.chosen := rfl
@[simp] theorem setGroup_focus (s : State) (k : Nat) (x : Group) : (s.setGroup k x).focus = s.focus := rfl
@[simp] theorem setGroup_fpath (s : State) (k : Nat) (x : Group) : (s.setGroup k x).fpath = s.fpath := rfl
@[simp] theorem setGroup_fresh (s : State) (k : Nat) (x : Group) : (s.setGroup k x).fresh = s.fresh := rfl
@[simp] theorem setGroup_mem (s : State) (k : Nat) (x : Group) : (s.setGroup k x).mem = s.mem := rfl
@[simp] theorem setGroup_peerMem (s : State) (k : Nat) (x : Group) : (s.setGroup k x).peerMem = s.peerMem := rfl
@[simp] theorem setGroup_now (s : State) (k : Nat) (x : Group) : (s.setGroup k x).now = s.now := rfl
@[simp] theorem setGroup_hist (s : State) (k : Nat) (x : Group) : (s.setGroup k x).hist = s.hist := rfl
@[simp] theorem setGroup_rels (s : State) (k : Nat) (x : Group) : (s.setGroup k x).rels = s.rels := rfl
@[simp] theorem setGroup_fences (s : State) (k : Nat) (x : Group) : (s.setGroup k x).fences = s.fences := rfl
@[simp] theorem setGroup_arrivals (s : State) (k : Nat) (x : Group) : (s.setGroup k x).arrivals = s.arrivals := rfl
@[simp] theorem setGroup_powered (s : State) (k : Nat) (x : Group) : (s.setGroup k x).powered = s.powered := rfl
@[simp] theorem setGroup_up (s : State) (k : Nat) (x : Group) : (s.setGroup k x).up = s.up := rfl
@[simp] theorem setGroup_mhz (s : State) (k : Nat) (x : Group) : (s.setGroup k x).mhz = s.mhz := rfl
@[simp] theorem setGroup_qta (s : State) (k : Nat) (x : Group) : (s.setGroup k x).qta = s.qta := rfl
@[simp] theorem setGroup_mra (s : State) (k : Nat) (x : Group) : (s.setGroup k x).mra = s.mra := rfl
@[simp] theorem setGroup_fwver (s : State) (k : Nat) (x : Group) : (s.setGroup k x).fwver = s.fwver := rfl
@[simp] theorem setGroup_serial (s : State) (k : Nat) (x : Group) : (s.setGroup k x).serial = s.serial := rfl
@[simp] theorem setGroup_skcap (s : State) (k : Nat) (x : Group) : (s.setGroup k x).skcap = s.skcap := rfl
@[simp] theorem setGroup_image (s : State) (k : Nat) (x : Group) : (s.setGroup k x).image = s.image := rfl
@[simp] theorem setGroup_rom (s : State) (k : Nat) (x : Group) : (s.setGroup k x).rom = s.rom := rfl
@[simp] theorem setGroup_rollback (s : State) (k : Nat) (x : Group) : (s.setGroup k x).rollback = s.rollback := rfl
@[simp] theorem setGroup_confirmed (s : State) (k : Nat) (x : Group) : (s.setGroup k x).confirmed = s.confirmed := rfl
@[simp] theorem setGroup_dies (s : State) (k : Nat) (x : Group) : (s.setGroup k x).dies = s.dies := rfl
@[simp] theorem setGroup_cores (s : State) (k : Nat) (x : Group) : (s.setGroup k x).cores = s.cores := rfl
theorem setGroup_groups (s : State) (k : Nat) (x : Group) : (s.setGroup k x).groups = tput s.groups k x := rfl
@[simp] theorem setGroup_teams (s : State) (k : Nat) (x : Group) : (s.setGroup k x).teams = s.teams := rfl
@[simp] theorem setGroup_nextTeam (s : State) (k : Nat) (x : Group) : (s.setGroup k x).nextTeam = s.nextTeam := rfl
@[simp] theorem setGroup_clusters (s : State) (k : Nat) (x : Group) : (s.setGroup k x).clusters = s.clusters := rfl
@[simp] theorem setGroup_nextCluster (s : State) (k : Nat) (x : Group) : (s.setGroup k x).nextCluster = s.nextCluster := rfl
@[simp] theorem setGroup_launches (s : State) (k : Nat) (x : Group) : (s.setGroup k x).launches = s.launches := rfl
@[simp] theorem setGroup_nextLaunch (s : State) (k : Nat) (x : Group) : (s.setGroup k x).nextLaunch = s.nextLaunch := rfl
@[simp] theorem setGroup_roomless (s : State) (k : Nat) (x : Group) : (s.setGroup k x).roomless = s.roomless := rfl
@[simp] theorem setGroup_lqs (s : State) (k : Nat) (x : Group) : (s.setGroup k x).lqs = s.lqs := rfl
@[simp] theorem setGroup_parts (s : State) (k : Nat) (x : Group) : (s.setGroup k x).parts = s.parts := rfl
@[simp] theorem setGroup_tqs (s : State) (k : Nat) (x : Group) : (s.setGroup k x).tqs = s.tqs := rfl
@[simp] theorem setGroup_engs (s : State) (k : Nat) (x : Group) : (s.setGroup k x).engs = s.engs := rfl
@[simp] theorem setGroup_saved (s : State) (k : Nat) (x : Group) : (s.setGroup k x).saved = s.saved := rfl
@[simp] theorem setGroup_peers (s : State) (k : Nat) (x : Group) : (s.setGroup k x).peers = s.peers := rfl
@[simp] theorem setGroup_tp (s : State) (k : Nat) (x : Group) : (s.setGroup k x).tp = s.tp := rfl
@[simp] theorem setGroup_recalls (s : State) (k : Nat) (x : Group) : (s.setGroup k x).recalls = s.recalls := rfl
@[simp] theorem setGroup_nextRecall (s : State) (k : Nat) (x : Group) : (s.setGroup k x).nextRecall = s.nextRecall := rfl
@[simp] theorem setGroup_stations (s : State) (k : Nat) (x : Group) : (s.setGroup k x).stations = s.stations := rfl
@[simp] theorem setGroup_nextSec (s : State) (k : Nat) (x : Group) : (s.setGroup k x).nextSec = s.nextSec := rfl
@[simp] theorem setGroup_poison (s : State) (k : Nat) (x : Group) : (s.setGroup k x).poison = s.poison := rfl

/-! ## `State.setCore` -/

@[simp] theorem setCore_agenda (s : State) (k : Nat) (x : Core) : (s.setCore k x).agenda = s.agenda := rfl
@[simp] theorem setCore_todo (s : State) (k : Nat) (x : Core) : (s.setCore k x).todo = s.todo := rfl
@[simp] theorem setCore_chosen (s : State) (k : Nat) (x : Core) : (s.setCore k x).chosen = s.chosen := rfl
@[simp] theorem setCore_focus (s : State) (k : Nat) (x : Core) : (s.setCore k x).focus = s.focus := rfl
@[simp] theorem setCore_fpath (s : State) (k : Nat) (x : Core) : (s.setCore k x).fpath = s.fpath := rfl
@[simp] theorem setCore_fresh (s : State) (k : Nat) (x : Core) : (s.setCore k x).fresh = s.fresh := rfl
@[simp] theorem setCore_mem (s : State) (k : Nat) (x : Core) : (s.setCore k x).mem = s.mem := rfl
@[simp] theorem setCore_peerMem (s : State) (k : Nat) (x : Core) : (s.setCore k x).peerMem = s.peerMem := rfl
@[simp] theorem setCore_now (s : State) (k : Nat) (x : Core) : (s.setCore k x).now = s.now := rfl
@[simp] theorem setCore_hist (s : State) (k : Nat) (x : Core) : (s.setCore k x).hist = s.hist := rfl
@[simp] theorem setCore_rels (s : State) (k : Nat) (x : Core) : (s.setCore k x).rels = s.rels := rfl
@[simp] theorem setCore_fences (s : State) (k : Nat) (x : Core) : (s.setCore k x).fences = s.fences := rfl
@[simp] theorem setCore_arrivals (s : State) (k : Nat) (x : Core) : (s.setCore k x).arrivals = s.arrivals := rfl
@[simp] theorem setCore_powered (s : State) (k : Nat) (x : Core) : (s.setCore k x).powered = s.powered := rfl
@[simp] theorem setCore_up (s : State) (k : Nat) (x : Core) : (s.setCore k x).up = s.up := rfl
@[simp] theorem setCore_mhz (s : State) (k : Nat) (x : Core) : (s.setCore k x).mhz = s.mhz := rfl
@[simp] theorem setCore_qta (s : State) (k : Nat) (x : Core) : (s.setCore k x).qta = s.qta := rfl
@[simp] theorem setCore_mra (s : State) (k : Nat) (x : Core) : (s.setCore k x).mra = s.mra := rfl
@[simp] theorem setCore_fwver (s : State) (k : Nat) (x : Core) : (s.setCore k x).fwver = s.fwver := rfl
@[simp] theorem setCore_serial (s : State) (k : Nat) (x : Core) : (s.setCore k x).serial = s.serial := rfl
@[simp] theorem setCore_skcap (s : State) (k : Nat) (x : Core) : (s.setCore k x).skcap = s.skcap := rfl
@[simp] theorem setCore_image (s : State) (k : Nat) (x : Core) : (s.setCore k x).image = s.image := rfl
@[simp] theorem setCore_rom (s : State) (k : Nat) (x : Core) : (s.setCore k x).rom = s.rom := rfl
@[simp] theorem setCore_rollback (s : State) (k : Nat) (x : Core) : (s.setCore k x).rollback = s.rollback := rfl
@[simp] theorem setCore_confirmed (s : State) (k : Nat) (x : Core) : (s.setCore k x).confirmed = s.confirmed := rfl
@[simp] theorem setCore_dies (s : State) (k : Nat) (x : Core) : (s.setCore k x).dies = s.dies := rfl
theorem setCore_cores (s : State) (k : Nat) (x : Core) : (s.setCore k x).cores = tput s.cores k x := rfl
@[simp] theorem setCore_groups (s : State) (k : Nat) (x : Core) : (s.setCore k x).groups = s.groups := rfl
@[simp] theorem setCore_teams (s : State) (k : Nat) (x : Core) : (s.setCore k x).teams = s.teams := rfl
@[simp] theorem setCore_nextTeam (s : State) (k : Nat) (x : Core) : (s.setCore k x).nextTeam = s.nextTeam := rfl
@[simp] theorem setCore_clusters (s : State) (k : Nat) (x : Core) : (s.setCore k x).clusters = s.clusters := rfl
@[simp] theorem setCore_nextCluster (s : State) (k : Nat) (x : Core) : (s.setCore k x).nextCluster = s.nextCluster := rfl
@[simp] theorem setCore_launches (s : State) (k : Nat) (x : Core) : (s.setCore k x).launches = s.launches := rfl
@[simp] theorem setCore_nextLaunch (s : State) (k : Nat) (x : Core) : (s.setCore k x).nextLaunch = s.nextLaunch := rfl
@[simp] theorem setCore_roomless (s : State) (k : Nat) (x : Core) : (s.setCore k x).roomless = s.roomless := rfl
@[simp] theorem setCore_lqs (s : State) (k : Nat) (x : Core) : (s.setCore k x).lqs = s.lqs := rfl
@[simp] theorem setCore_parts (s : State) (k : Nat) (x : Core) : (s.setCore k x).parts = s.parts := rfl
@[simp] theorem setCore_tqs (s : State) (k : Nat) (x : Core) : (s.setCore k x).tqs = s.tqs := rfl
@[simp] theorem setCore_engs (s : State) (k : Nat) (x : Core) : (s.setCore k x).engs = s.engs := rfl
@[simp] theorem setCore_saved (s : State) (k : Nat) (x : Core) : (s.setCore k x).saved = s.saved := rfl
@[simp] theorem setCore_peers (s : State) (k : Nat) (x : Core) : (s.setCore k x).peers = s.peers := rfl
@[simp] theorem setCore_tp (s : State) (k : Nat) (x : Core) : (s.setCore k x).tp = s.tp := rfl
@[simp] theorem setCore_recalls (s : State) (k : Nat) (x : Core) : (s.setCore k x).recalls = s.recalls := rfl
@[simp] theorem setCore_nextRecall (s : State) (k : Nat) (x : Core) : (s.setCore k x).nextRecall = s.nextRecall := rfl
@[simp] theorem setCore_stations (s : State) (k : Nat) (x : Core) : (s.setCore k x).stations = s.stations := rfl
@[simp] theorem setCore_nextSec (s : State) (k : Nat) (x : Core) : (s.setCore k x).nextSec = s.nextSec := rfl
@[simp] theorem setCore_poison (s : State) (k : Nat) (x : Core) : (s.setCore k x).poison = s.poison := rfl

/-! ## `State.setDie` -/

@[simp] theorem setDie_agenda (s : State) (k : Nat) (x : Die) : (s.setDie k x).agenda = s.agenda := rfl
@[simp] theorem setDie_todo (s : State) (k : Nat) (x : Die) : (s.setDie k x).todo = s.todo := rfl
@[simp] theorem setDie_chosen (s : State) (k : Nat) (x : Die) : (s.setDie k x).chosen = s.chosen := rfl
@[simp] theorem setDie_focus (s : State) (k : Nat) (x : Die) : (s.setDie k x).focus = s.focus := rfl
@[simp] theorem setDie_fpath (s : State) (k : Nat) (x : Die) : (s.setDie k x).fpath = s.fpath := rfl
@[simp] theorem setDie_fresh (s : State) (k : Nat) (x : Die) : (s.setDie k x).fresh = s.fresh := rfl
@[simp] theorem setDie_mem (s : State) (k : Nat) (x : Die) : (s.setDie k x).mem = s.mem := rfl
@[simp] theorem setDie_peerMem (s : State) (k : Nat) (x : Die) : (s.setDie k x).peerMem = s.peerMem := rfl
@[simp] theorem setDie_now (s : State) (k : Nat) (x : Die) : (s.setDie k x).now = s.now := rfl
@[simp] theorem setDie_hist (s : State) (k : Nat) (x : Die) : (s.setDie k x).hist = s.hist := rfl
@[simp] theorem setDie_rels (s : State) (k : Nat) (x : Die) : (s.setDie k x).rels = s.rels := rfl
@[simp] theorem setDie_fences (s : State) (k : Nat) (x : Die) : (s.setDie k x).fences = s.fences := rfl
@[simp] theorem setDie_arrivals (s : State) (k : Nat) (x : Die) : (s.setDie k x).arrivals = s.arrivals := rfl
@[simp] theorem setDie_powered (s : State) (k : Nat) (x : Die) : (s.setDie k x).powered = s.powered := rfl
@[simp] theorem setDie_up (s : State) (k : Nat) (x : Die) : (s.setDie k x).up = s.up := rfl
@[simp] theorem setDie_mhz (s : State) (k : Nat) (x : Die) : (s.setDie k x).mhz = s.mhz := rfl
@[simp] theorem setDie_qta (s : State) (k : Nat) (x : Die) : (s.setDie k x).qta = s.qta := rfl
@[simp] theorem setDie_mra (s : State) (k : Nat) (x : Die) : (s.setDie k x).mra = s.mra := rfl
@[simp] theorem setDie_fwver (s : State) (k : Nat) (x : Die) : (s.setDie k x).fwver = s.fwver := rfl
@[simp] theorem setDie_serial (s : State) (k : Nat) (x : Die) : (s.setDie k x).serial = s.serial := rfl
@[simp] theorem setDie_skcap (s : State) (k : Nat) (x : Die) : (s.setDie k x).skcap = s.skcap := rfl
@[simp] theorem setDie_image (s : State) (k : Nat) (x : Die) : (s.setDie k x).image = s.image := rfl
@[simp] theorem setDie_rom (s : State) (k : Nat) (x : Die) : (s.setDie k x).rom = s.rom := rfl
@[simp] theorem setDie_rollback (s : State) (k : Nat) (x : Die) : (s.setDie k x).rollback = s.rollback := rfl
@[simp] theorem setDie_confirmed (s : State) (k : Nat) (x : Die) : (s.setDie k x).confirmed = s.confirmed := rfl
theorem setDie_dies (s : State) (k : Nat) (x : Die) : (s.setDie k x).dies = tput s.dies k x := rfl
@[simp] theorem setDie_cores (s : State) (k : Nat) (x : Die) : (s.setDie k x).cores = s.cores := rfl
@[simp] theorem setDie_groups (s : State) (k : Nat) (x : Die) : (s.setDie k x).groups = s.groups := rfl
@[simp] theorem setDie_teams (s : State) (k : Nat) (x : Die) : (s.setDie k x).teams = s.teams := rfl
@[simp] theorem setDie_nextTeam (s : State) (k : Nat) (x : Die) : (s.setDie k x).nextTeam = s.nextTeam := rfl
@[simp] theorem setDie_clusters (s : State) (k : Nat) (x : Die) : (s.setDie k x).clusters = s.clusters := rfl
@[simp] theorem setDie_nextCluster (s : State) (k : Nat) (x : Die) : (s.setDie k x).nextCluster = s.nextCluster := rfl
@[simp] theorem setDie_launches (s : State) (k : Nat) (x : Die) : (s.setDie k x).launches = s.launches := rfl
@[simp] theorem setDie_nextLaunch (s : State) (k : Nat) (x : Die) : (s.setDie k x).nextLaunch = s.nextLaunch := rfl
@[simp] theorem setDie_roomless (s : State) (k : Nat) (x : Die) : (s.setDie k x).roomless = s.roomless := rfl
@[simp] theorem setDie_lqs (s : State) (k : Nat) (x : Die) : (s.setDie k x).lqs = s.lqs := rfl
@[simp] theorem setDie_parts (s : State) (k : Nat) (x : Die) : (s.setDie k x).parts = s.parts := rfl
@[simp] theorem setDie_tqs (s : State) (k : Nat) (x : Die) : (s.setDie k x).tqs = s.tqs := rfl
@[simp] theorem setDie_engs (s : State) (k : Nat) (x : Die) : (s.setDie k x).engs = s.engs := rfl
@[simp] theorem setDie_saved (s : State) (k : Nat) (x : Die) : (s.setDie k x).saved = s.saved := rfl
@[simp] theorem setDie_peers (s : State) (k : Nat) (x : Die) : (s.setDie k x).peers = s.peers := rfl
@[simp] theorem setDie_tp (s : State) (k : Nat) (x : Die) : (s.setDie k x).tp = s.tp := rfl
@[simp] theorem setDie_recalls (s : State) (k : Nat) (x : Die) : (s.setDie k x).recalls = s.recalls := rfl
@[simp] theorem setDie_nextRecall (s : State) (k : Nat) (x : Die) : (s.setDie k x).nextRecall = s.nextRecall := rfl
@[simp] theorem setDie_stations (s : State) (k : Nat) (x : Die) : (s.setDie k x).stations = s.stations := rfl
@[simp] theorem setDie_nextSec (s : State) (k : Nat) (x : Die) : (s.setDie k x).nextSec = s.nextSec := rfl
@[simp] theorem setDie_poison (s : State) (k : Nat) (x : Die) : (s.setDie k x).poison = s.poison := rfl

/-! ## `State.setTeam` -/

@[simp] theorem setTeam_agenda (s : State) (k : Nat) (x : Team) : (s.setTeam k x).agenda = s.agenda := rfl
@[simp] theorem setTeam_todo (s : State) (k : Nat) (x : Team) : (s.setTeam k x).todo = s.todo := rfl
@[simp] theorem setTeam_chosen (s : State) (k : Nat) (x : Team) : (s.setTeam k x).chosen = s.chosen := rfl
@[simp] theorem setTeam_focus (s : State) (k : Nat) (x : Team) : (s.setTeam k x).focus = s.focus := rfl
@[simp] theorem setTeam_fpath (s : State) (k : Nat) (x : Team) : (s.setTeam k x).fpath = s.fpath := rfl
@[simp] theorem setTeam_fresh (s : State) (k : Nat) (x : Team) : (s.setTeam k x).fresh = s.fresh := rfl
@[simp] theorem setTeam_mem (s : State) (k : Nat) (x : Team) : (s.setTeam k x).mem = s.mem := rfl
@[simp] theorem setTeam_peerMem (s : State) (k : Nat) (x : Team) : (s.setTeam k x).peerMem = s.peerMem := rfl
@[simp] theorem setTeam_now (s : State) (k : Nat) (x : Team) : (s.setTeam k x).now = s.now := rfl
@[simp] theorem setTeam_hist (s : State) (k : Nat) (x : Team) : (s.setTeam k x).hist = s.hist := rfl
@[simp] theorem setTeam_rels (s : State) (k : Nat) (x : Team) : (s.setTeam k x).rels = s.rels := rfl
@[simp] theorem setTeam_fences (s : State) (k : Nat) (x : Team) : (s.setTeam k x).fences = s.fences := rfl
@[simp] theorem setTeam_arrivals (s : State) (k : Nat) (x : Team) : (s.setTeam k x).arrivals = s.arrivals := rfl
@[simp] theorem setTeam_powered (s : State) (k : Nat) (x : Team) : (s.setTeam k x).powered = s.powered := rfl
@[simp] theorem setTeam_up (s : State) (k : Nat) (x : Team) : (s.setTeam k x).up = s.up := rfl
@[simp] theorem setTeam_mhz (s : State) (k : Nat) (x : Team) : (s.setTeam k x).mhz = s.mhz := rfl
@[simp] theorem setTeam_qta (s : State) (k : Nat) (x : Team) : (s.setTeam k x).qta = s.qta := rfl
@[simp] theorem setTeam_mra (s : State) (k : Nat) (x : Team) : (s.setTeam k x).mra = s.mra := rfl
@[simp] theorem setTeam_fwver (s : State) (k : Nat) (x : Team) : (s.setTeam k x).fwver = s.fwver := rfl
@[simp] theorem setTeam_serial (s : State) (k : Nat) (x : Team) : (s.setTeam k x).serial = s.serial := rfl
@[simp] theorem setTeam_skcap (s : State) (k : Nat) (x : Team) : (s.setTeam k x).skcap = s.skcap := rfl
@[simp] theorem setTeam_image (s : State) (k : Nat) (x : Team) : (s.setTeam k x).image = s.image := rfl
@[simp] theorem setTeam_rom (s : State) (k : Nat) (x : Team) : (s.setTeam k x).rom = s.rom := rfl
@[simp] theorem setTeam_rollback (s : State) (k : Nat) (x : Team) : (s.setTeam k x).rollback = s.rollback := rfl
@[simp] theorem setTeam_confirmed (s : State) (k : Nat) (x : Team) : (s.setTeam k x).confirmed = s.confirmed := rfl
@[simp] theorem setTeam_dies (s : State) (k : Nat) (x : Team) : (s.setTeam k x).dies = s.dies := rfl
@[simp] theorem setTeam_cores (s : State) (k : Nat) (x : Team) : (s.setTeam k x).cores = s.cores := rfl
@[simp] theorem setTeam_groups (s : State) (k : Nat) (x : Team) : (s.setTeam k x).groups = s.groups := rfl
theorem setTeam_teams (s : State) (k : Nat) (x : Team) : (s.setTeam k x).teams = tput s.teams k x := rfl
@[simp] theorem setTeam_nextTeam (s : State) (k : Nat) (x : Team) : (s.setTeam k x).nextTeam = s.nextTeam := rfl
@[simp] theorem setTeam_clusters (s : State) (k : Nat) (x : Team) : (s.setTeam k x).clusters = s.clusters := rfl
@[simp] theorem setTeam_nextCluster (s : State) (k : Nat) (x : Team) : (s.setTeam k x).nextCluster = s.nextCluster := rfl
@[simp] theorem setTeam_launches (s : State) (k : Nat) (x : Team) : (s.setTeam k x).launches = s.launches := rfl
@[simp] theorem setTeam_nextLaunch (s : State) (k : Nat) (x : Team) : (s.setTeam k x).nextLaunch = s.nextLaunch := rfl
@[simp] theorem setTeam_roomless (s : State) (k : Nat) (x : Team) : (s.setTeam k x).roomless = s.roomless := rfl
@[simp] theorem setTeam_lqs (s : State) (k : Nat) (x : Team) : (s.setTeam k x).lqs = s.lqs := rfl
@[simp] theorem setTeam_parts (s : State) (k : Nat) (x : Team) : (s.setTeam k x).parts = s.parts := rfl
@[simp] theorem setTeam_tqs (s : State) (k : Nat) (x : Team) : (s.setTeam k x).tqs = s.tqs := rfl
@[simp] theorem setTeam_engs (s : State) (k : Nat) (x : Team) : (s.setTeam k x).engs = s.engs := rfl
@[simp] theorem setTeam_saved (s : State) (k : Nat) (x : Team) : (s.setTeam k x).saved = s.saved := rfl
@[simp] theorem setTeam_peers (s : State) (k : Nat) (x : Team) : (s.setTeam k x).peers = s.peers := rfl
@[simp] theorem setTeam_tp (s : State) (k : Nat) (x : Team) : (s.setTeam k x).tp = s.tp := rfl
@[simp] theorem setTeam_recalls (s : State) (k : Nat) (x : Team) : (s.setTeam k x).recalls = s.recalls := rfl
@[simp] theorem setTeam_nextRecall (s : State) (k : Nat) (x : Team) : (s.setTeam k x).nextRecall = s.nextRecall := rfl
@[simp] theorem setTeam_stations (s : State) (k : Nat) (x : Team) : (s.setTeam k x).stations = s.stations := rfl
@[simp] theorem setTeam_nextSec (s : State) (k : Nat) (x : Team) : (s.setTeam k x).nextSec = s.nextSec := rfl
@[simp] theorem setTeam_poison (s : State) (k : Nat) (x : Team) : (s.setTeam k x).poison = s.poison := rfl

/-! ## `State.setPart` -/

@[simp] theorem setPart_agenda (s : State) (k : Nat) (x : Part) : (s.setPart k x).agenda = s.agenda := rfl
@[simp] theorem setPart_todo (s : State) (k : Nat) (x : Part) : (s.setPart k x).todo = s.todo := rfl
@[simp] theorem setPart_chosen (s : State) (k : Nat) (x : Part) : (s.setPart k x).chosen = s.chosen := rfl
@[simp] theorem setPart_focus (s : State) (k : Nat) (x : Part) : (s.setPart k x).focus = s.focus := rfl
@[simp] theorem setPart_fpath (s : State) (k : Nat) (x : Part) : (s.setPart k x).fpath = s.fpath := rfl
@[simp] theorem setPart_fresh (s : State) (k : Nat) (x : Part) : (s.setPart k x).fresh = s.fresh := rfl
@[simp] theorem setPart_mem (s : State) (k : Nat) (x : Part) : (s.setPart k x).mem = s.mem := rfl
@[simp] theorem setPart_peerMem (s : State) (k : Nat) (x : Part) : (s.setPart k x).peerMem = s.peerMem := rfl
@[simp] theorem setPart_now (s : State) (k : Nat) (x : Part) : (s.setPart k x).now = s.now := rfl
@[simp] theorem setPart_hist (s : State) (k : Nat) (x : Part) : (s.setPart k x).hist = s.hist := rfl
@[simp] theorem setPart_rels (s : State) (k : Nat) (x : Part) : (s.setPart k x).rels = s.rels := rfl
@[simp] theorem setPart_fences (s : State) (k : Nat) (x : Part) : (s.setPart k x).fences = s.fences := rfl
@[simp] theorem setPart_arrivals (s : State) (k : Nat) (x : Part) : (s.setPart k x).arrivals = s.arrivals := rfl
@[simp] theorem setPart_powered (s : State) (k : Nat) (x : Part) : (s.setPart k x).powered = s.powered := rfl
@[simp] theorem setPart_up (s : State) (k : Nat) (x : Part) : (s.setPart k x).up = s.up := rfl
@[simp] theorem setPart_mhz (s : State) (k : Nat) (x : Part) : (s.setPart k x).mhz = s.mhz := rfl
@[simp] theorem setPart_qta (s : State) (k : Nat) (x : Part) : (s.setPart k x).qta = s.qta := rfl
@[simp] theorem setPart_mra (s : State) (k : Nat) (x : Part) : (s.setPart k x).mra = s.mra := rfl
@[simp] theorem setPart_fwver (s : State) (k : Nat) (x : Part) : (s.setPart k x).fwver = s.fwver := rfl
@[simp] theorem setPart_serial (s : State) (k : Nat) (x : Part) : (s.setPart k x).serial = s.serial := rfl
@[simp] theorem setPart_skcap (s : State) (k : Nat) (x : Part) : (s.setPart k x).skcap = s.skcap := rfl
@[simp] theorem setPart_image (s : State) (k : Nat) (x : Part) : (s.setPart k x).image = s.image := rfl
@[simp] theorem setPart_rom (s : State) (k : Nat) (x : Part) : (s.setPart k x).rom = s.rom := rfl
@[simp] theorem setPart_rollback (s : State) (k : Nat) (x : Part) : (s.setPart k x).rollback = s.rollback := rfl
@[simp] theorem setPart_confirmed (s : State) (k : Nat) (x : Part) : (s.setPart k x).confirmed = s.confirmed := rfl
@[simp] theorem setPart_dies (s : State) (k : Nat) (x : Part) : (s.setPart k x).dies = s.dies := rfl
@[simp] theorem setPart_cores (s : State) (k : Nat) (x : Part) : (s.setPart k x).cores = s.cores := rfl
@[simp] theorem setPart_groups (s : State) (k : Nat) (x : Part) : (s.setPart k x).groups = s.groups := rfl
@[simp] theorem setPart_teams (s : State) (k : Nat) (x : Part) : (s.setPart k x).teams = s.teams := rfl
@[simp] theorem setPart_nextTeam (s : State) (k : Nat) (x : Part) : (s.setPart k x).nextTeam = s.nextTeam := rfl
@[simp] theorem setPart_clusters (s : State) (k : Nat) (x : Part) : (s.setPart k x).clusters = s.clusters := rfl
@[simp] theorem setPart_nextCluster (s : State) (k : Nat) (x : Part) : (s.setPart k x).nextCluster = s.nextCluster := rfl
@[simp] theorem setPart_launches (s : State) (k : Nat) (x : Part) : (s.setPart k x).launches = s.launches := rfl
@[simp] theorem setPart_nextLaunch (s : State) (k : Nat) (x : Part) : (s.setPart k x).nextLaunch = s.nextLaunch := rfl
@[simp] theorem setPart_roomless (s : State) (k : Nat) (x : Part) : (s.setPart k x).roomless = s.roomless := rfl
@[simp] theorem setPart_lqs (s : State) (k : Nat) (x : Part) : (s.setPart k x).lqs = s.lqs := rfl
theorem setPart_parts (s : State) (k : Nat) (x : Part) : (s.setPart k x).parts = tput s.parts k x := rfl
@[simp] theorem setPart_tqs (s : State) (k : Nat) (x : Part) : (s.setPart k x).tqs = s.tqs := rfl
@[simp] theorem setPart_engs (s : State) (k : Nat) (x : Part) : (s.setPart k x).engs = s.engs := rfl
@[simp] theorem setPart_saved (s : State) (k : Nat) (x : Part) : (s.setPart k x).saved = s.saved := rfl
@[simp] theorem setPart_peers (s : State) (k : Nat) (x : Part) : (s.setPart k x).peers = s.peers := rfl
@[simp] theorem setPart_tp (s : State) (k : Nat) (x : Part) : (s.setPart k x).tp = s.tp := rfl
@[simp] theorem setPart_recalls (s : State) (k : Nat) (x : Part) : (s.setPart k x).recalls = s.recalls := rfl
@[simp] theorem setPart_nextRecall (s : State) (k : Nat) (x : Part) : (s.setPart k x).nextRecall = s.nextRecall := rfl
@[simp] theorem setPart_stations (s : State) (k : Nat) (x : Part) : (s.setPart k x).stations = s.stations := rfl
@[simp] theorem setPart_nextSec (s : State) (k : Nat) (x : Part) : (s.setPart k x).nextSec = s.nextSec := rfl
@[simp] theorem setPart_poison (s : State) (k : Nat) (x : Part) : (s.setPart k x).poison = s.poison := rfl

/-! ## `State.setLq` -/

@[simp] theorem setLq_agenda (s : State) (k : Nat) (x : LQueue) : (s.setLq k x).agenda = s.agenda := rfl
@[simp] theorem setLq_todo (s : State) (k : Nat) (x : LQueue) : (s.setLq k x).todo = s.todo := rfl
@[simp] theorem setLq_chosen (s : State) (k : Nat) (x : LQueue) : (s.setLq k x).chosen = s.chosen := rfl
@[simp] theorem setLq_focus (s : State) (k : Nat) (x : LQueue) : (s.setLq k x).focus = s.focus := rfl
@[simp] theorem setLq_fpath (s : State) (k : Nat) (x : LQueue) : (s.setLq k x).fpath = s.fpath := rfl
@[simp] theorem setLq_fresh (s : State) (k : Nat) (x : LQueue) : (s.setLq k x).fresh = s.fresh := rfl
@[simp] theorem setLq_mem (s : State) (k : Nat) (x : LQueue) : (s.setLq k x).mem = s.mem := rfl
@[simp] theorem setLq_peerMem (s : State) (k : Nat) (x : LQueue) : (s.setLq k x).peerMem = s.peerMem := rfl
@[simp] theorem setLq_now (s : State) (k : Nat) (x : LQueue) : (s.setLq k x).now = s.now := rfl
@[simp] theorem setLq_hist (s : State) (k : Nat) (x : LQueue) : (s.setLq k x).hist = s.hist := rfl
@[simp] theorem setLq_rels (s : State) (k : Nat) (x : LQueue) : (s.setLq k x).rels = s.rels := rfl
@[simp] theorem setLq_fences (s : State) (k : Nat) (x : LQueue) : (s.setLq k x).fences = s.fences := rfl
@[simp] theorem setLq_arrivals (s : State) (k : Nat) (x : LQueue) : (s.setLq k x).arrivals = s.arrivals := rfl
@[simp] theorem setLq_powered (s : State) (k : Nat) (x : LQueue) : (s.setLq k x).powered = s.powered := rfl
@[simp] theorem setLq_up (s : State) (k : Nat) (x : LQueue) : (s.setLq k x).up = s.up := rfl
@[simp] theorem setLq_mhz (s : State) (k : Nat) (x : LQueue) : (s.setLq k x).mhz = s.mhz := rfl
@[simp] theorem setLq_qta (s : State) (k : Nat) (x : LQueue) : (s.setLq k x).qta = s.qta := rfl
@[simp] theorem setLq_mra (s : State) (k : Nat) (x : LQueue) : (s.setLq k x).mra = s.mra := rfl
@[simp] theorem setLq_fwver (s : State) (k : Nat) (x : LQueue) : (s.setLq k x).fwver = s.fwver := rfl
@[simp] theorem setLq_serial (s : State) (k : Nat) (x : LQueue) : (s.setLq k x).serial = s.serial := rfl
@[simp] theorem setLq_skcap (s : State) (k : Nat) (x : LQueue) : (s.setLq k x).skcap = s.skcap := rfl
@[simp] theorem setLq_image (s : State) (k : Nat) (x : LQueue) : (s.setLq k x).image = s.image := rfl
@[simp] theorem setLq_rom (s : State) (k : Nat) (x : LQueue) : (s.setLq k x).rom = s.rom := rfl
@[simp] theorem setLq_rollback (s : State) (k : Nat) (x : LQueue) : (s.setLq k x).rollback = s.rollback := rfl
@[simp] theorem setLq_confirmed (s : State) (k : Nat) (x : LQueue) : (s.setLq k x).confirmed = s.confirmed := rfl
@[simp] theorem setLq_dies (s : State) (k : Nat) (x : LQueue) : (s.setLq k x).dies = s.dies := rfl
@[simp] theorem setLq_cores (s : State) (k : Nat) (x : LQueue) : (s.setLq k x).cores = s.cores := rfl
@[simp] theorem setLq_groups (s : State) (k : Nat) (x : LQueue) : (s.setLq k x).groups = s.groups := rfl
@[simp] theorem setLq_teams (s : State) (k : Nat) (x : LQueue) : (s.setLq k x).teams = s.teams := rfl
@[simp] theorem setLq_nextTeam (s : State) (k : Nat) (x : LQueue) : (s.setLq k x).nextTeam = s.nextTeam := rfl
@[simp] theorem setLq_clusters (s : State) (k : Nat) (x : LQueue) : (s.setLq k x).clusters = s.clusters := rfl
@[simp] theorem setLq_nextCluster (s : State) (k : Nat) (x : LQueue) : (s.setLq k x).nextCluster = s.nextCluster := rfl
@[simp] theorem setLq_launches (s : State) (k : Nat) (x : LQueue) : (s.setLq k x).launches = s.launches := rfl
@[simp] theorem setLq_nextLaunch (s : State) (k : Nat) (x : LQueue) : (s.setLq k x).nextLaunch = s.nextLaunch := rfl
@[simp] theorem setLq_roomless (s : State) (k : Nat) (x : LQueue) : (s.setLq k x).roomless = s.roomless := rfl
theorem setLq_lqs (s : State) (k : Nat) (x : LQueue) : (s.setLq k x).lqs = tput s.lqs k x := rfl
@[simp] theorem setLq_parts (s : State) (k : Nat) (x : LQueue) : (s.setLq k x).parts = s.parts := rfl
@[simp] theorem setLq_tqs (s : State) (k : Nat) (x : LQueue) : (s.setLq k x).tqs = s.tqs := rfl
@[simp] theorem setLq_engs (s : State) (k : Nat) (x : LQueue) : (s.setLq k x).engs = s.engs := rfl
@[simp] theorem setLq_saved (s : State) (k : Nat) (x : LQueue) : (s.setLq k x).saved = s.saved := rfl
@[simp] theorem setLq_peers (s : State) (k : Nat) (x : LQueue) : (s.setLq k x).peers = s.peers := rfl
@[simp] theorem setLq_tp (s : State) (k : Nat) (x : LQueue) : (s.setLq k x).tp = s.tp := rfl
@[simp] theorem setLq_recalls (s : State) (k : Nat) (x : LQueue) : (s.setLq k x).recalls = s.recalls := rfl
@[simp] theorem setLq_nextRecall (s : State) (k : Nat) (x : LQueue) : (s.setLq k x).nextRecall = s.nextRecall := rfl
@[simp] theorem setLq_stations (s : State) (k : Nat) (x : LQueue) : (s.setLq k x).stations = s.stations := rfl
@[simp] theorem setLq_nextSec (s : State) (k : Nat) (x : LQueue) : (s.setLq k x).nextSec = s.nextSec := rfl
@[simp] theorem setLq_poison (s : State) (k : Nat) (x : LQueue) : (s.setLq k x).poison = s.poison := rfl

/-! ## `State.setEng` -/

@[simp] theorem setEng_agenda (s : State) (k : Nat) (x : EngSlot) : (s.setEng k x).agenda = s.agenda := rfl
@[simp] theorem setEng_todo (s : State) (k : Nat) (x : EngSlot) : (s.setEng k x).todo = s.todo := rfl
@[simp] theorem setEng_chosen (s : State) (k : Nat) (x : EngSlot) : (s.setEng k x).chosen = s.chosen := rfl
@[simp] theorem setEng_focus (s : State) (k : Nat) (x : EngSlot) : (s.setEng k x).focus = s.focus := rfl
@[simp] theorem setEng_fpath (s : State) (k : Nat) (x : EngSlot) : (s.setEng k x).fpath = s.fpath := rfl
@[simp] theorem setEng_fresh (s : State) (k : Nat) (x : EngSlot) : (s.setEng k x).fresh = s.fresh := rfl
@[simp] theorem setEng_mem (s : State) (k : Nat) (x : EngSlot) : (s.setEng k x).mem = s.mem := rfl
@[simp] theorem setEng_peerMem (s : State) (k : Nat) (x : EngSlot) : (s.setEng k x).peerMem = s.peerMem := rfl
@[simp] theorem setEng_now (s : State) (k : Nat) (x : EngSlot) : (s.setEng k x).now = s.now := rfl
@[simp] theorem setEng_hist (s : State) (k : Nat) (x : EngSlot) : (s.setEng k x).hist = s.hist := rfl
@[simp] theorem setEng_rels (s : State) (k : Nat) (x : EngSlot) : (s.setEng k x).rels = s.rels := rfl
@[simp] theorem setEng_fences (s : State) (k : Nat) (x : EngSlot) : (s.setEng k x).fences = s.fences := rfl
@[simp] theorem setEng_arrivals (s : State) (k : Nat) (x : EngSlot) : (s.setEng k x).arrivals = s.arrivals := rfl
@[simp] theorem setEng_powered (s : State) (k : Nat) (x : EngSlot) : (s.setEng k x).powered = s.powered := rfl
@[simp] theorem setEng_up (s : State) (k : Nat) (x : EngSlot) : (s.setEng k x).up = s.up := rfl
@[simp] theorem setEng_mhz (s : State) (k : Nat) (x : EngSlot) : (s.setEng k x).mhz = s.mhz := rfl
@[simp] theorem setEng_qta (s : State) (k : Nat) (x : EngSlot) : (s.setEng k x).qta = s.qta := rfl
@[simp] theorem setEng_mra (s : State) (k : Nat) (x : EngSlot) : (s.setEng k x).mra = s.mra := rfl
@[simp] theorem setEng_fwver (s : State) (k : Nat) (x : EngSlot) : (s.setEng k x).fwver = s.fwver := rfl
@[simp] theorem setEng_serial (s : State) (k : Nat) (x : EngSlot) : (s.setEng k x).serial = s.serial := rfl
@[simp] theorem setEng_skcap (s : State) (k : Nat) (x : EngSlot) : (s.setEng k x).skcap = s.skcap := rfl
@[simp] theorem setEng_image (s : State) (k : Nat) (x : EngSlot) : (s.setEng k x).image = s.image := rfl
@[simp] theorem setEng_rom (s : State) (k : Nat) (x : EngSlot) : (s.setEng k x).rom = s.rom := rfl
@[simp] theorem setEng_rollback (s : State) (k : Nat) (x : EngSlot) : (s.setEng k x).rollback = s.rollback := rfl
@[simp] theorem setEng_confirmed (s : State) (k : Nat) (x : EngSlot) : (s.setEng k x).confirmed = s.confirmed := rfl
@[simp] theorem setEng_dies (s : State) (k : Nat) (x : EngSlot) : (s.setEng k x).dies = s.dies := rfl
@[simp] theorem setEng_cores (s : State) (k : Nat) (x : EngSlot) : (s.setEng k x).cores = s.cores := rfl
@[simp] theorem setEng_groups (s : State) (k : Nat) (x : EngSlot) : (s.setEng k x).groups = s.groups := rfl
@[simp] theorem setEng_teams (s : State) (k : Nat) (x : EngSlot) : (s.setEng k x).teams = s.teams := rfl
@[simp] theorem setEng_nextTeam (s : State) (k : Nat) (x : EngSlot) : (s.setEng k x).nextTeam = s.nextTeam := rfl
@[simp] theorem setEng_clusters (s : State) (k : Nat) (x : EngSlot) : (s.setEng k x).clusters = s.clusters := rfl
@[simp] theorem setEng_nextCluster (s : State) (k : Nat) (x : EngSlot) : (s.setEng k x).nextCluster = s.nextCluster := rfl
@[simp] theorem setEng_launches (s : State) (k : Nat) (x : EngSlot) : (s.setEng k x).launches = s.launches := rfl
@[simp] theorem setEng_nextLaunch (s : State) (k : Nat) (x : EngSlot) : (s.setEng k x).nextLaunch = s.nextLaunch := rfl
@[simp] theorem setEng_roomless (s : State) (k : Nat) (x : EngSlot) : (s.setEng k x).roomless = s.roomless := rfl
@[simp] theorem setEng_lqs (s : State) (k : Nat) (x : EngSlot) : (s.setEng k x).lqs = s.lqs := rfl
@[simp] theorem setEng_parts (s : State) (k : Nat) (x : EngSlot) : (s.setEng k x).parts = s.parts := rfl
@[simp] theorem setEng_tqs (s : State) (k : Nat) (x : EngSlot) : (s.setEng k x).tqs = s.tqs := rfl
theorem setEng_engs (s : State) (k : Nat) (x : EngSlot) : (s.setEng k x).engs = tput s.engs k x := rfl
@[simp] theorem setEng_saved (s : State) (k : Nat) (x : EngSlot) : (s.setEng k x).saved = s.saved := rfl
@[simp] theorem setEng_peers (s : State) (k : Nat) (x : EngSlot) : (s.setEng k x).peers = s.peers := rfl
@[simp] theorem setEng_tp (s : State) (k : Nat) (x : EngSlot) : (s.setEng k x).tp = s.tp := rfl
@[simp] theorem setEng_recalls (s : State) (k : Nat) (x : EngSlot) : (s.setEng k x).recalls = s.recalls := rfl
@[simp] theorem setEng_nextRecall (s : State) (k : Nat) (x : EngSlot) : (s.setEng k x).nextRecall = s.nextRecall := rfl
@[simp] theorem setEng_stations (s : State) (k : Nat) (x : EngSlot) : (s.setEng k x).stations = s.stations := rfl
@[simp] theorem setEng_nextSec (s : State) (k : Nat) (x : EngSlot) : (s.setEng k x).nextSec = s.nextSec := rfl
@[simp] theorem setEng_poison (s : State) (k : Nat) (x : EngSlot) : (s.setEng k x).poison = s.poison := rfl

/-! ## `State.tick` and `State.at_` -/

@[simp] theorem tick_agenda (s : State) : s.tick.agenda = s.agenda := rfl
@[simp] theorem tick_todo (s : State) : s.tick.todo = s.todo := rfl
@[simp] theorem tick_chosen (s : State) : s.tick.chosen = s.chosen := rfl
@[simp] theorem tick_focus (s : State) : s.tick.focus = s.focus := rfl
@[simp] theorem tick_fpath (s : State) : s.tick.fpath = s.fpath := rfl
@[simp] theorem tick_fresh (s : State) : s.tick.fresh = s.fresh + 1 := rfl
@[simp] theorem tick_mem (s : State) : s.tick.mem = s.mem := rfl
@[simp] theorem tick_peerMem (s : State) : s.tick.peerMem = s.peerMem := rfl
@[simp] theorem tick_now (s : State) : s.tick.now = s.now := rfl
@[simp] theorem tick_hist (s : State) : s.tick.hist = s.hist := rfl
@[simp] theorem tick_rels (s : State) : s.tick.rels = s.rels := rfl
@[simp] theorem tick_fences (s : State) : s.tick.fences = s.fences := rfl
@[simp] theorem tick_arrivals (s : State) : s.tick.arrivals = s.arrivals := rfl
@[simp] theorem tick_powered (s : State) : s.tick.powered = s.powered := rfl
@[simp] theorem tick_up (s : State) : s.tick.up = s.up := rfl
@[simp] theorem tick_mhz (s : State) : s.tick.mhz = s.mhz := rfl
@[simp] theorem tick_qta (s : State) : s.tick.qta = s.qta := rfl
@[simp] theorem tick_mra (s : State) : s.tick.mra = s.mra := rfl
@[simp] theorem tick_fwver (s : State) : s.tick.fwver = s.fwver := rfl
@[simp] theorem tick_serial (s : State) : s.tick.serial = s.serial := rfl
@[simp] theorem tick_skcap (s : State) : s.tick.skcap = s.skcap := rfl
@[simp] theorem tick_image (s : State) : s.tick.image = s.image := rfl
@[simp] theorem tick_rom (s : State) : s.tick.rom = s.rom := rfl
@[simp] theorem tick_rollback (s : State) : s.tick.rollback = s.rollback := rfl
@[simp] theorem tick_confirmed (s : State) : s.tick.confirmed = s.confirmed := rfl
@[simp] theorem tick_dies (s : State) : s.tick.dies = s.dies := rfl
@[simp] theorem tick_cores (s : State) : s.tick.cores = s.cores := rfl
@[simp] theorem tick_groups (s : State) : s.tick.groups = s.groups := rfl
@[simp] theorem tick_teams (s : State) : s.tick.teams = s.teams := rfl
@[simp] theorem tick_nextTeam (s : State) : s.tick.nextTeam = s.nextTeam := rfl
@[simp] theorem tick_clusters (s : State) : s.tick.clusters = s.clusters := rfl
@[simp] theorem tick_nextCluster (s : State) : s.tick.nextCluster = s.nextCluster := rfl
@[simp] theorem tick_launches (s : State) : s.tick.launches = s.launches := rfl
@[simp] theorem tick_nextLaunch (s : State) : s.tick.nextLaunch = s.nextLaunch := rfl
@[simp] theorem tick_roomless (s : State) : s.tick.roomless = s.roomless := rfl
@[simp] theorem tick_lqs (s : State) : s.tick.lqs = s.lqs := rfl
@[simp] theorem tick_parts (s : State) : s.tick.parts = s.parts := rfl
@[simp] theorem tick_tqs (s : State) : s.tick.tqs = s.tqs := rfl
@[simp] theorem tick_engs (s : State) : s.tick.engs = s.engs := rfl
@[simp] theorem tick_saved (s : State) : s.tick.saved = s.saved := rfl
@[simp] theorem tick_peers (s : State) : s.tick.peers = s.peers := rfl
@[simp] theorem tick_tp (s : State) : s.tick.tp = s.tp := rfl
@[simp] theorem tick_recalls (s : State) : s.tick.recalls = s.recalls := rfl
@[simp] theorem tick_nextRecall (s : State) : s.tick.nextRecall = s.nextRecall := rfl
@[simp] theorem tick_stations (s : State) : s.tick.stations = s.stations := rfl
@[simp] theorem tick_nextSec (s : State) : s.tick.nextSec = s.nextSec := rfl
@[simp] theorem tick_poison (s : State) : s.tick.poison = s.poison := rfl
@[simp] theorem at_agenda (s : State) (k p : Nat) : (s.at_ k p).agenda = s.agenda := rfl
@[simp] theorem at_todo (s : State) (k p : Nat) : (s.at_ k p).todo = s.todo := rfl
@[simp] theorem at_chosen (s : State) (k p : Nat) : (s.at_ k p).chosen = s.chosen := rfl
@[simp] theorem at_focus (s : State) (k p : Nat) : (s.at_ k p).focus = k := rfl
@[simp] theorem at_fpath (s : State) (k p : Nat) : (s.at_ k p).fpath = p := rfl
@[simp] theorem at_fresh (s : State) (k p : Nat) : (s.at_ k p).fresh = s.fresh := rfl
@[simp] theorem at_mem (s : State) (k p : Nat) : (s.at_ k p).mem = s.mem := rfl
@[simp] theorem at_peerMem (s : State) (k p : Nat) : (s.at_ k p).peerMem = s.peerMem := rfl
@[simp] theorem at_now (s : State) (k p : Nat) : (s.at_ k p).now = s.now := rfl
@[simp] theorem at_hist (s : State) (k p : Nat) : (s.at_ k p).hist = s.hist := rfl
@[simp] theorem at_rels (s : State) (k p : Nat) : (s.at_ k p).rels = s.rels := rfl
@[simp] theorem at_fences (s : State) (k p : Nat) : (s.at_ k p).fences = s.fences := rfl
@[simp] theorem at_arrivals (s : State) (k p : Nat) : (s.at_ k p).arrivals = s.arrivals := rfl
@[simp] theorem at_powered (s : State) (k p : Nat) : (s.at_ k p).powered = s.powered := rfl
@[simp] theorem at_up (s : State) (k p : Nat) : (s.at_ k p).up = s.up := rfl
@[simp] theorem at_mhz (s : State) (k p : Nat) : (s.at_ k p).mhz = s.mhz := rfl
@[simp] theorem at_qta (s : State) (k p : Nat) : (s.at_ k p).qta = s.qta := rfl
@[simp] theorem at_mra (s : State) (k p : Nat) : (s.at_ k p).mra = s.mra := rfl
@[simp] theorem at_fwver (s : State) (k p : Nat) : (s.at_ k p).fwver = s.fwver := rfl
@[simp] theorem at_serial (s : State) (k p : Nat) : (s.at_ k p).serial = s.serial := rfl
@[simp] theorem at_skcap (s : State) (k p : Nat) : (s.at_ k p).skcap = s.skcap := rfl
@[simp] theorem at_image (s : State) (k p : Nat) : (s.at_ k p).image = s.image := rfl
@[simp] theorem at_rom (s : State) (k p : Nat) : (s.at_ k p).rom = s.rom := rfl
@[simp] theorem at_rollback (s : State) (k p : Nat) : (s.at_ k p).rollback = s.rollback := rfl
@[simp] theorem at_confirmed (s : State) (k p : Nat) : (s.at_ k p).confirmed = s.confirmed := rfl
@[simp] theorem at_dies (s : State) (k p : Nat) : (s.at_ k p).dies = s.dies := rfl
@[simp] theorem at_cores (s : State) (k p : Nat) : (s.at_ k p).cores = s.cores := rfl
@[simp] theorem at_groups (s : State) (k p : Nat) : (s.at_ k p).groups = s.groups := rfl
@[simp] theorem at_teams (s : State) (k p : Nat) : (s.at_ k p).teams = s.teams := rfl
@[simp] theorem at_nextTeam (s : State) (k p : Nat) : (s.at_ k p).nextTeam = s.nextTeam := rfl
@[simp] theorem at_clusters (s : State) (k p : Nat) : (s.at_ k p).clusters = s.clusters := rfl
@[simp] theorem at_nextCluster (s : State) (k p : Nat) : (s.at_ k p).nextCluster = s.nextCluster := rfl
@[simp] theorem at_launches (s : State) (k p : Nat) : (s.at_ k p).launches = s.launches := rfl
@[simp] theorem at_nextLaunch (s : State) (k p : Nat) : (s.at_ k p).nextLaunch = s.nextLaunch := rfl
@[simp] theorem at_roomless (s : State) (k p : Nat) : (s.at_ k p).roomless = s.roomless := rfl
@[simp] theorem at_lqs (s : State) (k p : Nat) : (s.at_ k p).lqs = s.lqs := rfl
@[simp] theorem at_parts (s : State) (k p : Nat) : (s.at_ k p).parts = s.parts := rfl
@[simp] theorem at_tqs (s : State) (k p : Nat) : (s.at_ k p).tqs = s.tqs := rfl
@[simp] theorem at_engs (s : State) (k p : Nat) : (s.at_ k p).engs = s.engs := rfl
@[simp] theorem at_saved (s : State) (k p : Nat) : (s.at_ k p).saved = s.saved := rfl
@[simp] theorem at_peers (s : State) (k p : Nat) : (s.at_ k p).peers = s.peers := rfl
@[simp] theorem at_tp (s : State) (k p : Nat) : (s.at_ k p).tp = s.tp := rfl
@[simp] theorem at_recalls (s : State) (k p : Nat) : (s.at_ k p).recalls = s.recalls := rfl
@[simp] theorem at_nextRecall (s : State) (k p : Nat) : (s.at_ k p).nextRecall = s.nextRecall := rfl
@[simp] theorem at_stations (s : State) (k p : Nat) : (s.at_ k p).stations = s.stations := rfl
@[simp] theorem at_nextSec (s : State) (k p : Nat) : (s.at_ k p).nextSec = s.nextSec := rfl
@[simp] theorem at_poison (s : State) (k p : Nat) : (s.at_ k p).poison = s.poison := rfl

/-! ## Updates of a group -/

@[simp] theorem wv_ctl (g : Group) (n : Nat) (l : List (Nat × W32)) : (g.wv n l).ctl = g.ctl := rfl
@[simp] theorem wv_lid (g : Group) (n : Nat) (l : List (Nat × W32)) : (g.wv n l).lid = g.lid := rfl
@[simp] theorem wv_part (g : Group) (n : Nat) (l : List (Nat × W32)) : (g.wv n l).part = g.part := rfl
@[simp] theorem wv_asid (g : Group) (n : Nat) (l : List (Nat × W32)) : (g.wv n l).asid = g.asid := rfl
@[simp] theorem wv_team (g : Group) (n : Nat) (l : List (Nat × W32)) : (g.wv n l).team = g.team := rfl
@[simp] theorem wv_core (g : Group) (n : Nat) (l : List (Nat × W32)) : (g.wv n l).core = g.core := rfl
@[simp] theorem wv_gid (g : Group) (n : Nat) (l : List (Nat × W32)) : (g.wv n l).gid = g.gid := rfl
@[simp] theorem wv_rank (g : Group) (n : Nat) (l : List (Nat × W32)) : (g.wv n l).rank = g.rank := rfl
@[simp] theorem wv_w (g : Group) (n : Nat) (l : List (Nat × W32)) : (g.wv n l).w = g.w := rfl
@[simp] theorem wv_nv (g : Group) (n : Nat) (l : List (Nat × W32)) : (g.wv n l).nv = g.nv := rfl
@[simp] theorem wv_nt (g : Group) (n : Nat) (l : List (Nat × W32)) : (g.wv n l).nt = g.nt := rfl
@[simp] theorem wv_octet (g : Group) (n : Nat) (l : List (Nat × W32)) : (g.wv n l).octet = g.octet := rfl
@[simp] theorem wv_hpc (g : Group) (n : Nat) (l : List (Nat × W32)) : (g.wv n l).hpc = g.hpc := rfl
@[simp] theorem wv_pri (g : Group) (n : Nat) (l : List (Nat × W32)) : (g.wv n l).pri = g.pri := rfl
@[simp] theorem wv_cx (g : Group) (n : Nat) (l : List (Nat × W32)) : (g.wv n l).cx = g.cx := rfl
@[simp] theorem wv_cy (g : Group) (n : Nat) (l : List (Nat × W32)) : (g.wv n l).cy = g.cy := rfl
@[simp] theorem wv_cz (g : Group) (n : Nat) (l : List (Nat × W32)) : (g.wv n l).cz = g.cz := rfl
@[simp] theorem wv_gsh0 (g : Group) (n : Nat) (l : List (Nat × W32)) : (g.wv n l).gsh0 = g.gsh0 := rfl
@[simp] theorem wv_gsh1 (g : Group) (n : Nat) (l : List (Nat × W32)) : (g.wv n l).gsh1 = g.gsh1 := rfl
@[simp] theorem wv_sreg (g : Group) (n : Nat) (l : List (Nat × W32)) : (g.wv n l).sreg = g.sreg := rfl
@[simp] theorem wv_preg (g : Group) (n : Nat) (l : List (Nat × W32)) : (g.wv n l).preg = g.preg := rfl
@[simp] theorem wv_tile (g : Group) (n : Nat) (l : List (Nat × W32)) : (g.wv n l).tile = g.tile := rfl
@[simp] theorem wv_tstat (g : Group) (n : Nat) (l : List (Nat × W32)) : (g.wv n l).tstat = g.tstat := rfl
@[simp] theorem wv_tileq (g : Group) (n : Nat) (l : List (Nat × W32)) : (g.wv n l).tileq = g.tileq := rfl
@[simp] theorem wv_fm (g : Group) (n : Nat) (l : List (Nat × W32)) : (g.wv n l).fm = g.fm := rfl
@[simp] theorem wv_sc (g : Group) (n : Nat) (l : List (Nat × W32)) : (g.wv n l).sc = g.sc := rfl
@[simp] theorem wv_fps (g : Group) (n : Nat) (l : List (Nat × W32)) : (g.wv n l).fps = g.fps := rfl
@[simp] theorem wv_rsd (g : Group) (n : Nat) (l : List (Nat × W32)) : (g.wv n l).rsd = g.rsd := rfl
@[simp] theorem wv_col (g : Group) (n : Nat) (l : List (Nat × W32)) : (g.wv n l).col = g.col := rfl
@[simp] theorem wv_wdt (g : Group) (n : Nat) (l : List (Nat × W32)) : (g.wv n l).wdt = g.wdt := rfl
@[simp] theorem wv_wds (g : Group) (n : Nat) (l : List (Nat × W32)) : (g.wv n l).wds = g.wds := rfl
@[simp] theorem wv_sec (g : Group) (n : Nat) (l : List (Nat × W32)) : (g.wv n l).sec = g.sec := rfl
@[simp] theorem wv_ends (g : Group) (n : Nat) (l : List (Nat × W32)) : (g.wv n l).ends = g.ends := rfl
@[simp] theorem wv_fq (g : Group) (n : Nat) (l : List (Nat × W32)) : (g.wv n l).fq = g.fq := rfl
@[simp] theorem wv_slots (g : Group) (n : Nat) (l : List (Nat × W32)) : (g.wv n l).slots = g.slots := rfl
@[simp] theorem wv_streams (g : Group) (n : Nat) (l : List (Nat × W32)) : (g.wv n l).streams = g.streams := rfl
@[simp] theorem wv_p0 (g : Group) (n : Nat) (l : List (Nat × W32)) : (g.wv n l).p0 = g.p0 := rfl
@[simp] theorem wv_p1 (g : Group) (n : Nat) (l : List (Nat × W32)) : (g.wv n l).p1 = g.p1 := rfl
@[simp] theorem wv_orph (g : Group) (n : Nat) (l : List (Nat × W32)) : (g.wv n l).orph = g.orph := rfl
@[simp] theorem wv_uhc (g : Group) (n : Nat) (l : List (Nat × W32)) : (g.wv n l).uhc = g.uhc := rfl
@[simp] theorem wv_hpath (g : Group) (n : Nat) (l : List (Nat × W32)) : (g.wv n l).hpath = g.hpath := rfl
@[simp] theorem wv_qrc (g : Group) (n : Nat) (l : List (Nat × W32)) : (g.wv n l).qrc = g.qrc := rfl
@[simp] theorem wv_stopped (g : Group) (n : Nat) (l : List (Nat × W32)) : (g.wv n l).stopped = g.stopped := rfl
@[simp] theorem wv_hold (g : Group) (n : Nat) (l : List (Nat × W32)) : (g.wv n l).hold = g.hold := rfl
@[simp] theorem wv_preempt (g : Group) (n : Nat) (l : List (Nat × W32)) : (g.wv n l).preempt = g.preempt := rfl
@[simp] theorem wv_trap (g : Group) (n : Nat) (l : List (Nat × W32)) : (g.wv n l).trap = g.trap := rfl
@[simp] theorem wv_flt (g : Group) (n : Nat) (l : List (Nat × W32)) : (g.wv n l).flt = g.flt := rfl
@[simp] theorem wv_fltBad (g : Group) (n : Nat) (l : List (Nat × W32)) : (g.wv n l).fltBad = g.fltBad := rfl
@[simp] theorem wv_sbuf (g : Group) (n : Nat) (l : List (Nat × W32)) : (g.wv n l).sbuf = g.sbuf := rfl
@[simp] theorem wv_obs (g : Group) (n : Nat) (l : List (Nat × W32)) : (g.wv n l).obs = g.obs := rfl
@[simp] theorem wv_deaf (g : Group) (n : Nat) (l : List (Nat × W32)) : (g.wv n l).deaf = g.deaf := rfl
@[simp] theorem wv_lostRemote (g : Group) (n : Nat) (l : List (Nat × W32)) : (g.wv n l).lostRemote = g.lostRemote := rfl
@[simp] theorem wv_age (g : Group) (n : Nat) (l : List (Nat × W32)) : (g.wv n l).age = g.age := rfl
@[simp] theorem wv_idle (g : Group) (n : Nat) (l : List (Nat × W32)) : (g.wv n l).idle = g.idle := rfl
@[simp] theorem wv_lastPath (g : Group) (n : Nat) (l : List (Nat × W32)) : (g.wv n l).lastPath = g.lastPath := rfl
@[simp] theorem wp_ctl (g : Group) (n : Nat) (l v : Mask) : (g.wp n l v).ctl = g.ctl := rfl
@[simp] theorem wp_lid (g : Group) (n : Nat) (l v : Mask) : (g.wp n l v).lid = g.lid := rfl
@[simp] theorem wp_part (g : Group) (n : Nat) (l v : Mask) : (g.wp n l v).part = g.part := rfl
@[simp] theorem wp_asid (g : Group) (n : Nat) (l v : Mask) : (g.wp n l v).asid = g.asid := rfl
@[simp] theorem wp_team (g : Group) (n : Nat) (l v : Mask) : (g.wp n l v).team = g.team := rfl
@[simp] theorem wp_core (g : Group) (n : Nat) (l v : Mask) : (g.wp n l v).core = g.core := rfl
@[simp] theorem wp_gid (g : Group) (n : Nat) (l v : Mask) : (g.wp n l v).gid = g.gid := rfl
@[simp] theorem wp_rank (g : Group) (n : Nat) (l v : Mask) : (g.wp n l v).rank = g.rank := rfl
@[simp] theorem wp_w (g : Group) (n : Nat) (l v : Mask) : (g.wp n l v).w = g.w := rfl
@[simp] theorem wp_nv (g : Group) (n : Nat) (l v : Mask) : (g.wp n l v).nv = g.nv := rfl
@[simp] theorem wp_nt (g : Group) (n : Nat) (l v : Mask) : (g.wp n l v).nt = g.nt := rfl
@[simp] theorem wp_octet (g : Group) (n : Nat) (l v : Mask) : (g.wp n l v).octet = g.octet := rfl
@[simp] theorem wp_hpc (g : Group) (n : Nat) (l v : Mask) : (g.wp n l v).hpc = g.hpc := rfl
@[simp] theorem wp_pri (g : Group) (n : Nat) (l v : Mask) : (g.wp n l v).pri = g.pri := rfl
@[simp] theorem wp_cx (g : Group) (n : Nat) (l v : Mask) : (g.wp n l v).cx = g.cx := rfl
@[simp] theorem wp_cy (g : Group) (n : Nat) (l v : Mask) : (g.wp n l v).cy = g.cy := rfl
@[simp] theorem wp_cz (g : Group) (n : Nat) (l v : Mask) : (g.wp n l v).cz = g.cz := rfl
@[simp] theorem wp_gsh0 (g : Group) (n : Nat) (l v : Mask) : (g.wp n l v).gsh0 = g.gsh0 := rfl
@[simp] theorem wp_gsh1 (g : Group) (n : Nat) (l v : Mask) : (g.wp n l v).gsh1 = g.gsh1 := rfl
@[simp] theorem wp_vreg (g : Group) (n : Nat) (l v : Mask) : (g.wp n l v).vreg = g.vreg := rfl
@[simp] theorem wp_sreg (g : Group) (n : Nat) (l v : Mask) : (g.wp n l v).sreg = g.sreg := rfl
@[simp] theorem wp_tile (g : Group) (n : Nat) (l v : Mask) : (g.wp n l v).tile = g.tile := rfl
@[simp] theorem wp_tstat (g : Group) (n : Nat) (l v : Mask) : (g.wp n l v).tstat = g.tstat := rfl
@[simp] theorem wp_tileq (g : Group) (n : Nat) (l v : Mask) : (g.wp n l v).tileq = g.tileq := rfl
@[simp] theorem wp_fm (g : Group) (n : Nat) (l v : Mask) : (g.wp n l v).fm = g.fm := rfl
@[simp] theorem wp_sc (g : Group) (n : Nat) (l v : Mask) : (g.wp n l v).sc = g.sc := rfl
@[simp] theorem wp_fps (g : Group) (n : Nat) (l v : Mask) : (g.wp n l v).fps = g.fps := rfl
@[simp] theorem wp_rsd (g : Group) (n : Nat) (l v : Mask) : (g.wp n l v).rsd = g.rsd := rfl
@[simp] theorem wp_col (g : Group) (n : Nat) (l v : Mask) : (g.wp n l v).col = g.col := rfl
@[simp] theorem wp_wdt (g : Group) (n : Nat) (l v : Mask) : (g.wp n l v).wdt = g.wdt := rfl
@[simp] theorem wp_wds (g : Group) (n : Nat) (l v : Mask) : (g.wp n l v).wds = g.wds := rfl
@[simp] theorem wp_sec (g : Group) (n : Nat) (l v : Mask) : (g.wp n l v).sec = g.sec := rfl
@[simp] theorem wp_ends (g : Group) (n : Nat) (l v : Mask) : (g.wp n l v).ends = g.ends := rfl
@[simp] theorem wp_fq (g : Group) (n : Nat) (l v : Mask) : (g.wp n l v).fq = g.fq := rfl
@[simp] theorem wp_slots (g : Group) (n : Nat) (l v : Mask) : (g.wp n l v).slots = g.slots := rfl
@[simp] theorem wp_streams (g : Group) (n : Nat) (l v : Mask) : (g.wp n l v).streams = g.streams := rfl
@[simp] theorem wp_p0 (g : Group) (n : Nat) (l v : Mask) : (g.wp n l v).p0 = g.p0 := rfl
@[simp] theorem wp_p1 (g : Group) (n : Nat) (l v : Mask) : (g.wp n l v).p1 = g.p1 := rfl
@[simp] theorem wp_orph (g : Group) (n : Nat) (l v : Mask) : (g.wp n l v).orph = g.orph := rfl
@[simp] theorem wp_uhc (g : Group) (n : Nat) (l v : Mask) : (g.wp n l v).uhc = g.uhc := rfl
@[simp] theorem wp_hpath (g : Group) (n : Nat) (l v : Mask) : (g.wp n l v).hpath = g.hpath := rfl
@[simp] theorem wp_qrc (g : Group) (n : Nat) (l v : Mask) : (g.wp n l v).qrc = g.qrc := rfl
@[simp] theorem wp_stopped (g : Group) (n : Nat) (l v : Mask) : (g.wp n l v).stopped = g.stopped := rfl
@[simp] theorem wp_hold (g : Group) (n : Nat) (l v : Mask) : (g.wp n l v).hold = g.hold := rfl
@[simp] theorem wp_preempt (g : Group) (n : Nat) (l v : Mask) : (g.wp n l v).preempt = g.preempt := rfl
@[simp] theorem wp_trap (g : Group) (n : Nat) (l v : Mask) : (g.wp n l v).trap = g.trap := rfl
@[simp] theorem wp_flt (g : Group) (n : Nat) (l v : Mask) : (g.wp n l v).flt = g.flt := rfl
@[simp] theorem wp_fltBad (g : Group) (n : Nat) (l v : Mask) : (g.wp n l v).fltBad = g.fltBad := rfl
@[simp] theorem wp_sbuf (g : Group) (n : Nat) (l v : Mask) : (g.wp n l v).sbuf = g.sbuf := rfl
@[simp] theorem wp_obs (g : Group) (n : Nat) (l v : Mask) : (g.wp n l v).obs = g.obs := rfl
@[simp] theorem wp_deaf (g : Group) (n : Nat) (l v : Mask) : (g.wp n l v).deaf = g.deaf := rfl
@[simp] theorem wp_lostRemote (g : Group) (n : Nat) (l v : Mask) : (g.wp n l v).lostRemote = g.lostRemote := rfl
@[simp] theorem wp_age (g : Group) (n : Nat) (l v : Mask) : (g.wp n l v).age = g.age := rfl
@[simp] theorem wp_idle (g : Group) (n : Nat) (l v : Mask) : (g.wp n l v).idle = g.idle := rfl
@[simp] theorem wp_lastPath (g : Group) (n : Nat) (l v : Mask) : (g.wp n l v).lastPath = g.lastPath := rfl
@[simp] theorem setPath_ctl (g : Group) (p : Nat) (q : Path) : (g.setPath p q).ctl = g.ctl := by unfold Group.setPath; split <;> rfl
@[simp] theorem setPath_lid (g : Group) (p : Nat) (q : Path) : (g.setPath p q).lid = g.lid := by unfold Group.setPath; split <;> rfl
@[simp] theorem setPath_part (g : Group) (p : Nat) (q : Path) : (g.setPath p q).part = g.part := by unfold Group.setPath; split <;> rfl
@[simp] theorem setPath_asid (g : Group) (p : Nat) (q : Path) : (g.setPath p q).asid = g.asid := by unfold Group.setPath; split <;> rfl
@[simp] theorem setPath_team (g : Group) (p : Nat) (q : Path) : (g.setPath p q).team = g.team := by unfold Group.setPath; split <;> rfl
@[simp] theorem setPath_core (g : Group) (p : Nat) (q : Path) : (g.setPath p q).core = g.core := by unfold Group.setPath; split <;> rfl
@[simp] theorem setPath_gid (g : Group) (p : Nat) (q : Path) : (g.setPath p q).gid = g.gid := by unfold Group.setPath; split <;> rfl
@[simp] theorem setPath_rank (g : Group) (p : Nat) (q : Path) : (g.setPath p q).rank = g.rank := by unfold Group.setPath; split <;> rfl
@[simp] theorem setPath_w (g : Group) (p : Nat) (q : Path) : (g.setPath p q).w = g.w := by unfold Group.setPath; split <;> rfl
@[simp] theorem setPath_nv (g : Group) (p : Nat) (q : Path) : (g.setPath p q).nv = g.nv := by unfold Group.setPath; split <;> rfl
@[simp] theorem setPath_nt (g : Group) (p : Nat) (q : Path) : (g.setPath p q).nt = g.nt := by unfold Group.setPath; split <;> rfl
@[simp] theorem setPath_octet (g : Group) (p : Nat) (q : Path) : (g.setPath p q).octet = g.octet := by unfold Group.setPath; split <;> rfl
@[simp] theorem setPath_hpc (g : Group) (p : Nat) (q : Path) : (g.setPath p q).hpc = g.hpc := by unfold Group.setPath; split <;> rfl
@[simp] theorem setPath_pri (g : Group) (p : Nat) (q : Path) : (g.setPath p q).pri = g.pri := by unfold Group.setPath; split <;> rfl
@[simp] theorem setPath_cx (g : Group) (p : Nat) (q : Path) : (g.setPath p q).cx = g.cx := by unfold Group.setPath; split <;> rfl
@[simp] theorem setPath_cy (g : Group) (p : Nat) (q : Path) : (g.setPath p q).cy = g.cy := by unfold Group.setPath; split <;> rfl
@[simp] theorem setPath_cz (g : Group) (p : Nat) (q : Path) : (g.setPath p q).cz = g.cz := by unfold Group.setPath; split <;> rfl
@[simp] theorem setPath_gsh0 (g : Group) (p : Nat) (q : Path) : (g.setPath p q).gsh0 = g.gsh0 := by unfold Group.setPath; split <;> rfl
@[simp] theorem setPath_gsh1 (g : Group) (p : Nat) (q : Path) : (g.setPath p q).gsh1 = g.gsh1 := by unfold Group.setPath; split <;> rfl
@[simp] theorem setPath_vreg (g : Group) (p : Nat) (q : Path) : (g.setPath p q).vreg = g.vreg := by unfold Group.setPath; split <;> rfl
@[simp] theorem setPath_sreg (g : Group) (p : Nat) (q : Path) : (g.setPath p q).sreg = g.sreg := by unfold Group.setPath; split <;> rfl
@[simp] theorem setPath_preg (g : Group) (p : Nat) (q : Path) : (g.setPath p q).preg = g.preg := by unfold Group.setPath; split <;> rfl
@[simp] theorem setPath_tile (g : Group) (p : Nat) (q : Path) : (g.setPath p q).tile = g.tile := by unfold Group.setPath; split <;> rfl
@[simp] theorem setPath_tstat (g : Group) (p : Nat) (q : Path) : (g.setPath p q).tstat = g.tstat := by unfold Group.setPath; split <;> rfl
@[simp] theorem setPath_tileq (g : Group) (p : Nat) (q : Path) : (g.setPath p q).tileq = g.tileq := by unfold Group.setPath; split <;> rfl
@[simp] theorem setPath_fm (g : Group) (p : Nat) (q : Path) : (g.setPath p q).fm = g.fm := by unfold Group.setPath; split <;> rfl
@[simp] theorem setPath_sc (g : Group) (p : Nat) (q : Path) : (g.setPath p q).sc = g.sc := by unfold Group.setPath; split <;> rfl
@[simp] theorem setPath_fps (g : Group) (p : Nat) (q : Path) : (g.setPath p q).fps = g.fps := by unfold Group.setPath; split <;> rfl
@[simp] theorem setPath_rsd (g : Group) (p : Nat) (q : Path) : (g.setPath p q).rsd = g.rsd := by unfold Group.setPath; split <;> rfl
@[simp] theorem setPath_col (g : Group) (p : Nat) (q : Path) : (g.setPath p q).col = g.col := by unfold Group.setPath; split <;> rfl
@[simp] theorem setPath_wdt (g : Group) (p : Nat) (q : Path) : (g.setPath p q).wdt = g.wdt := by unfold Group.setPath; split <;> rfl
@[simp] theorem setPath_wds (g : Group) (p : Nat) (q : Path) : (g.setPath p q).wds = g.wds := by unfold Group.setPath; split <;> rfl
@[simp] theorem setPath_sec (g : Group) (p : Nat) (q : Path) : (g.setPath p q).sec = g.sec := by unfold Group.setPath; split <;> rfl
@[simp] theorem setPath_ends (g : Group) (p : Nat) (q : Path) : (g.setPath p q).ends = g.ends := by unfold Group.setPath; split <;> rfl
@[simp] theorem setPath_fq (g : Group) (p : Nat) (q : Path) : (g.setPath p q).fq = g.fq := by unfold Group.setPath; split <;> rfl
@[simp] theorem setPath_slots (g : Group) (p : Nat) (q : Path) : (g.setPath p q).slots = g.slots := by unfold Group.setPath; split <;> rfl
@[simp] theorem setPath_streams (g : Group) (p : Nat) (q : Path) : (g.setPath p q).streams = g.streams := by unfold Group.setPath; split <;> rfl
@[simp] theorem setPath_orph (g : Group) (p : Nat) (q : Path) : (g.setPath p q).orph = g.orph := by unfold Group.setPath; split <;> rfl
@[simp] theorem setPath_uhc (g : Group) (p : Nat) (q : Path) : (g.setPath p q).uhc = g.uhc := by unfold Group.setPath; split <;> rfl
@[simp] theorem setPath_hpath (g : Group) (p : Nat) (q : Path) : (g.setPath p q).hpath = g.hpath := by unfold Group.setPath; split <;> rfl
@[simp] theorem setPath_qrc (g : Group) (p : Nat) (q : Path) : (g.setPath p q).qrc = g.qrc := by unfold Group.setPath; split <;> rfl
@[simp] theorem setPath_stopped (g : Group) (p : Nat) (q : Path) : (g.setPath p q).stopped = g.stopped := by unfold Group.setPath; split <;> rfl
@[simp] theorem setPath_hold (g : Group) (p : Nat) (q : Path) : (g.setPath p q).hold = g.hold := by unfold Group.setPath; split <;> rfl
@[simp] theorem setPath_preempt (g : Group) (p : Nat) (q : Path) : (g.setPath p q).preempt = g.preempt := by unfold Group.setPath; split <;> rfl
@[simp] theorem setPath_trap (g : Group) (p : Nat) (q : Path) : (g.setPath p q).trap = g.trap := by unfold Group.setPath; split <;> rfl
@[simp] theorem setPath_flt (g : Group) (p : Nat) (q : Path) : (g.setPath p q).flt = g.flt := by unfold Group.setPath; split <;> rfl
@[simp] theorem setPath_fltBad (g : Group) (p : Nat) (q : Path) : (g.setPath p q).fltBad = g.fltBad := by unfold Group.setPath; split <;> rfl
@[simp] theorem setPath_sbuf (g : Group) (p : Nat) (q : Path) : (g.setPath p q).sbuf = g.sbuf := by unfold Group.setPath; split <;> rfl
@[simp] theorem setPath_obs (g : Group) (p : Nat) (q : Path) : (g.setPath p q).obs = g.obs := by unfold Group.setPath; split <;> rfl
@[simp] theorem setPath_deaf (g : Group) (p : Nat) (q : Path) : (g.setPath p q).deaf = g.deaf := by unfold Group.setPath; split <;> rfl
@[simp] theorem setPath_lostRemote (g : Group) (p : Nat) (q : Path) : (g.setPath p q).lostRemote = g.lostRemote := by unfold Group.setPath; split <;> rfl
@[simp] theorem setPath_age (g : Group) (p : Nat) (q : Path) : (g.setPath p q).age = g.age := by unfold Group.setPath; split <;> rfl
@[simp] theorem setPath_idle (g : Group) (p : Nat) (q : Path) : (g.setPath p q).idle = g.idle := by unfold Group.setPath; split <;> rfl
@[simp] theorem setPath_lastPath (g : Group) (p : Nat) (q : Path) : (g.setPath p q).lastPath = g.lastPath := by unfold Group.setPath; split <;> rfl
@[simp] theorem groupWs_ctl (g : Group) (p n : Nat) (v : W64) : (g.ws p n v).ctl = g.ctl := by unfold Group.ws; split <;> simp
@[simp] theorem groupWs_lid (g : Group) (p n : Nat) (v : W64) : (g.ws p n v).lid = g.lid := by unfold Group.ws; split <;> simp
@[simp] theorem groupWs_part (g : Group) (p n : Nat) (v : W64) : (g.ws p n v).part = g.part := by unfold Group.ws; split <;> simp
@[simp] theorem groupWs_asid (g : Group) (p n : Nat) (v : W64) : (g.ws p n v).asid = g.asid := by unfold Group.ws; split <;> simp
@[simp] theorem groupWs_team (g : Group) (p n : Nat) (v : W64) : (g.ws p n v).team = g.team := by unfold Group.ws; split <;> simp
@[simp] theorem groupWs_core (g : Group) (p n : Nat) (v : W64) : (g.ws p n v).core = g.core := by unfold Group.ws; split <;> simp
@[simp] theorem groupWs_gid (g : Group) (p n : Nat) (v : W64) : (g.ws p n v).gid = g.gid := by unfold Group.ws; split <;> simp
@[simp] theorem groupWs_rank (g : Group) (p n : Nat) (v : W64) : (g.ws p n v).rank = g.rank := by unfold Group.ws; split <;> simp
@[simp] theorem groupWs_w (g : Group) (p n : Nat) (v : W64) : (g.ws p n v).w = g.w := by unfold Group.ws; split <;> simp
@[simp] theorem groupWs_nv (g : Group) (p n : Nat) (v : W64) : (g.ws p n v).nv = g.nv := by unfold Group.ws; split <;> simp
@[simp] theorem groupWs_nt (g : Group) (p n : Nat) (v : W64) : (g.ws p n v).nt = g.nt := by unfold Group.ws; split <;> simp
@[simp] theorem groupWs_octet (g : Group) (p n : Nat) (v : W64) : (g.ws p n v).octet = g.octet := by unfold Group.ws; split <;> simp
@[simp] theorem groupWs_hpc (g : Group) (p n : Nat) (v : W64) : (g.ws p n v).hpc = g.hpc := by unfold Group.ws; split <;> simp
@[simp] theorem groupWs_pri (g : Group) (p n : Nat) (v : W64) : (g.ws p n v).pri = g.pri := by unfold Group.ws; split <;> simp
@[simp] theorem groupWs_cx (g : Group) (p n : Nat) (v : W64) : (g.ws p n v).cx = g.cx := by unfold Group.ws; split <;> simp
@[simp] theorem groupWs_cy (g : Group) (p n : Nat) (v : W64) : (g.ws p n v).cy = g.cy := by unfold Group.ws; split <;> simp
@[simp] theorem groupWs_cz (g : Group) (p n : Nat) (v : W64) : (g.ws p n v).cz = g.cz := by unfold Group.ws; split <;> simp
@[simp] theorem groupWs_gsh0 (g : Group) (p n : Nat) (v : W64) : (g.ws p n v).gsh0 = g.gsh0 := by unfold Group.ws; split <;> simp
@[simp] theorem groupWs_gsh1 (g : Group) (p n : Nat) (v : W64) : (g.ws p n v).gsh1 = g.gsh1 := by unfold Group.ws; split <;> simp
@[simp] theorem groupWs_vreg (g : Group) (p n : Nat) (v : W64) : (g.ws p n v).vreg = g.vreg := by unfold Group.ws; split <;> simp
@[simp] theorem groupWs_preg (g : Group) (p n : Nat) (v : W64) : (g.ws p n v).preg = g.preg := by unfold Group.ws; split <;> simp
@[simp] theorem groupWs_tile (g : Group) (p n : Nat) (v : W64) : (g.ws p n v).tile = g.tile := by unfold Group.ws; split <;> simp
@[simp] theorem groupWs_tstat (g : Group) (p n : Nat) (v : W64) : (g.ws p n v).tstat = g.tstat := by unfold Group.ws; split <;> simp
@[simp] theorem groupWs_tileq (g : Group) (p n : Nat) (v : W64) : (g.ws p n v).tileq = g.tileq := by unfold Group.ws; split <;> simp
@[simp] theorem groupWs_fm (g : Group) (p n : Nat) (v : W64) : (g.ws p n v).fm = g.fm := by unfold Group.ws; split <;> simp
@[simp] theorem groupWs_sc (g : Group) (p n : Nat) (v : W64) : (g.ws p n v).sc = g.sc := by unfold Group.ws; split <;> simp
@[simp] theorem groupWs_fps (g : Group) (p n : Nat) (v : W64) : (g.ws p n v).fps = g.fps := by unfold Group.ws; split <;> simp
@[simp] theorem groupWs_rsd (g : Group) (p n : Nat) (v : W64) : (g.ws p n v).rsd = g.rsd := by unfold Group.ws; split <;> simp
@[simp] theorem groupWs_col (g : Group) (p n : Nat) (v : W64) : (g.ws p n v).col = g.col := by unfold Group.ws; split <;> simp
@[simp] theorem groupWs_wdt (g : Group) (p n : Nat) (v : W64) : (g.ws p n v).wdt = g.wdt := by unfold Group.ws; split <;> simp
@[simp] theorem groupWs_wds (g : Group) (p n : Nat) (v : W64) : (g.ws p n v).wds = g.wds := by unfold Group.ws; split <;> simp
@[simp] theorem groupWs_sec (g : Group) (p n : Nat) (v : W64) : (g.ws p n v).sec = g.sec := by unfold Group.ws; split <;> simp
@[simp] theorem groupWs_ends (g : Group) (p n : Nat) (v : W64) : (g.ws p n v).ends = g.ends := by unfold Group.ws; split <;> simp
@[simp] theorem groupWs_fq (g : Group) (p n : Nat) (v : W64) : (g.ws p n v).fq = g.fq := by unfold Group.ws; split <;> simp
@[simp] theorem groupWs_slots (g : Group) (p n : Nat) (v : W64) : (g.ws p n v).slots = g.slots := by unfold Group.ws; split <;> simp
@[simp] theorem groupWs_streams (g : Group) (p n : Nat) (v : W64) : (g.ws p n v).streams = g.streams := by unfold Group.ws; split <;> simp
@[simp] theorem groupWs_orph (g : Group) (p n : Nat) (v : W64) : (g.ws p n v).orph = g.orph := by unfold Group.ws; split <;> simp
@[simp] theorem groupWs_uhc (g : Group) (p n : Nat) (v : W64) : (g.ws p n v).uhc = g.uhc := by unfold Group.ws; split <;> simp
@[simp] theorem groupWs_hpath (g : Group) (p n : Nat) (v : W64) : (g.ws p n v).hpath = g.hpath := by unfold Group.ws; split <;> simp
@[simp] theorem groupWs_qrc (g : Group) (p n : Nat) (v : W64) : (g.ws p n v).qrc = g.qrc := by unfold Group.ws; split <;> simp
@[simp] theorem groupWs_stopped (g : Group) (p n : Nat) (v : W64) : (g.ws p n v).stopped = g.stopped := by unfold Group.ws; split <;> simp
@[simp] theorem groupWs_hold (g : Group) (p n : Nat) (v : W64) : (g.ws p n v).hold = g.hold := by unfold Group.ws; split <;> simp
@[simp] theorem groupWs_preempt (g : Group) (p n : Nat) (v : W64) : (g.ws p n v).preempt = g.preempt := by unfold Group.ws; split <;> simp
@[simp] theorem groupWs_trap (g : Group) (p n : Nat) (v : W64) : (g.ws p n v).trap = g.trap := by unfold Group.ws; split <;> simp
@[simp] theorem groupWs_flt (g : Group) (p n : Nat) (v : W64) : (g.ws p n v).flt = g.flt := by unfold Group.ws; split <;> simp
@[simp] theorem groupWs_fltBad (g : Group) (p n : Nat) (v : W64) : (g.ws p n v).fltBad = g.fltBad := by unfold Group.ws; split <;> simp
@[simp] theorem groupWs_sbuf (g : Group) (p n : Nat) (v : W64) : (g.ws p n v).sbuf = g.sbuf := by unfold Group.ws; split <;> simp
@[simp] theorem groupWs_obs (g : Group) (p n : Nat) (v : W64) : (g.ws p n v).obs = g.obs := by unfold Group.ws; split <;> simp
@[simp] theorem groupWs_deaf (g : Group) (p n : Nat) (v : W64) : (g.ws p n v).deaf = g.deaf := by unfold Group.ws; split <;> simp
@[simp] theorem groupWs_lostRemote (g : Group) (p n : Nat) (v : W64) : (g.ws p n v).lostRemote = g.lostRemote := by unfold Group.ws; split <;> simp
@[simp] theorem groupWs_age (g : Group) (p n : Nat) (v : W64) : (g.ws p n v).age = g.age := by unfold Group.ws; split <;> simp
@[simp] theorem groupWs_idle (g : Group) (p n : Nat) (v : W64) : (g.ws p n v).idle = g.idle := by unfold Group.ws; split <;> simp
@[simp] theorem groupWs_lastPath (g : Group) (p n : Nat) (v : W64) : (g.ws p n v).lastPath = g.lastPath := by unfold Group.ws; split <;> simp

end Sys2Proof.Machine
end

