-- ==== Sys2Proof/Laws/Tab.lean ====
section
/-! SUPPORT. Laws of sparse tables and of memory: what is read after a write, and that every operation keeps the canonical form. -/

namespace Sys2Proof.Machine

variable {α : Type}

/-! ## Reading after writing -/

theorem tfind_nil (k : Nat) : tfind? ([] : Tab α) k = none := rfl

theorem tfind_cons (k' : Nat) (v : α) (r : Tab α) (k : Nat) :
    tfind? ((k', v) :: r) k = if k' = k then some v else tfind? r k := by
  by_cases h : k' = k
  · simp [tfind?, h]
  · simp [tfind?, Bool.eq_false_iff.mpr (mt Nat.eq_of_beq_eq_true h), h]

theorem tfind_tput_same (t : Tab α) (k : Nat) (v : α) : tfind? (tput t k v) k = some v := by
  induction t with
  | nil => simp [tput, tfind_cons]
  | cons e r ih =>
    obtain ⟨k', v'⟩ := e
    unfold tput
    split
    · simp [tfind_cons]
    · split
      · simp [tfind_cons]
      · rename_i h; simp [tfind_cons, h, ih]

theorem tfind_tput_ne (t : Tab α) {k j : Nat} (v : α) (h : j ≠ k) : tfind? (tput t k v) j = tfind? t j := by
  induction t with
  | nil => simp [tput, tfind_cons, tfind_nil, Ne.symm h]
  | cons e r ih =>
    obtain ⟨k', v'⟩ := e
    unfold tput
    split
    · simp [tfind_cons, Ne.symm h]
    · split
      · rename_i h'; subst h'; simp [tfind_cons, Ne.symm h]
      · simp [tfind_cons, ih]

theorem tfind_tdel_same (t : Tab α) (k : Nat) : tfind? (tdel t k) k = none := by
  induction t with
  | nil => rfl
  | cons e r ih =>
    obtain ⟨k', v'⟩ := e
    unfold tdel
    split
    · exact ih
    · rename_i h; simp [tfind_cons, h, ih]

theorem tfind_tdel_ne (t : Tab α) {k j : Nat} (h : j ≠ k) : tfind? (tdel t k) j = tfind? t j := by
  induction t with
  | nil => rfl
  | cons e r ih =>
    obtain ⟨k', v'⟩ := e
    unfold tdel
    split
    · rename_i h'; subst h'; simp [tfind_cons, Ne.symm h, ih]
    · simp [tfind_cons, ih]

@[simp] theorem tget_tput_same (d : α) (t : Tab α) (k : Nat) (v : α) : tget d (tput t k v) k = v := by
  simp [tget, tfind_tput_same]

theorem tget_tput_ne (d : α) (t : Tab α) {k j : Nat} (v : α) (h : j ≠ k) : tget d (tput t k v) j = tget d t j := by
  simp [tget, tfind_tput_ne t v h]

@[simp] theorem tget_tset_same [DecidableEq α] (d : α) (t : Tab α) (k : Nat) (v : α) : tget d (tset d t k v) k = v := by
  unfold tset
  split
  · rename_i h; simp [tget, tfind_tdel_same, h]
  · simp

theorem tget_tset_ne [DecidableEq α] (d : α) (t : Tab α) {k j : Nat} (v : α) (h : j ≠ k) : tget d (tset d t k v) j = tget d t j := by
  unfold tset
  split
  · simp [tget, tfind_tdel_ne t h]
  · exact tget_tput_ne d t v h

/-- A table write reads as a function update. -/
theorem tget_tset [DecidableEq α] (d : α) (t : Tab α) (k j : Nat) (v : α) :
    tget d (tset d t k v) j = if j = k then v else tget d t j := by
  split
  · rename_i h; subst h; simp
  · rename_i h; exact tget_tset_ne d t v h

theorem tget_tput (d : α) (t : Tab α) (k j : Nat) (v : α) : tget d (tput t k v) j = if j = k then v else tget d t j := by
  split
  · rename_i h; subst h; simp
  · rename_i h; exact tget_tput_ne d t v h

/-! ## Memory -/

@[simp] theorem read_write_same (m : List Host.Cell) (a : Nat) (b : Byte) : Memory.read (Memory.write m a b) a = b :=
  tget_tset_same _ _ _ _

theorem read_write_ne (m : List Host.Cell) {a x : Nat} (b : Byte) (h : x ≠ a) :
    Memory.read (Memory.write m a b) x = Memory.read m x :=
  tget_tset_ne _ _ _ h

/-- A read outside the bytes written finds what was there. -/
theorem read_writes_out (l : List Byte) : ∀ (m : List Host.Cell) (a x : Nat), x < a ∨ a + l.length ≤ x →
    Memory.read (Memory.writes m a l) x = Memory.read m x := by
  induction l with
  | nil => intro m a x _; rfl
  | cons b bs ih =>
    intro m a x h
    simp only [Memory.writes, List.length_cons] at h ⊢
    rw [ih _ _ _ (by omega), read_write_ne _ _ (by omega)]

/-- A read of the i-th byte written finds it. -/
theorem read_writes_in (l : List Byte) : ∀ (m : List Host.Cell) (a i : Nat) (h : i < l.length),
    Memory.read (Memory.writes m a l) (a + i) = l[i] := by
  induction l with
  | nil => intro m a i h; simp at h
  | cons b bs ih =>
    intro m a i h
    cases i with
    | zero => simp only [Memory.writes]; rw [read_writes_out _ _ _ _ (by omega)]; simp
    | succ j =>
      simp only [Memory.writes]
      have := ih (Memory.write m a b) (a + 1) j (by simpa using h)
      rw [show a + (j + 1) = a + 1 + j by omega, this]; simp

/-! ## The canonical form -/

/-- Every key of a table is at least `n`. -/
def keysFrom (n : Nat) (t : Tab α) : Prop := ∀ e ∈ t, n ≤ e.1

theorem tsorted_cons (k : Nat) (v : α) (r : Tab α) : tsorted ((k, v) :: r) = true ↔ keysFrom (k + 1) r ∧ tsorted r = true := by
  induction r generalizing k v with
  | nil => simp [tsorted, keysFrom]
  | cons e r ih =>
    obtain ⟨k', v'⟩ := e
    have h := ih k' v'
    simp only [tsorted, Bool.and_eq_true, decide_eq_true_eq] at h ⊢
    constructor
    · rintro ⟨h1, h2⟩
      refine ⟨?_, h2⟩
      intro x hx
      rcases List.mem_cons.mp hx with rfl | hx
      · omega
      · have := (h.mp h2).1 x hx; omega
    · rintro ⟨h1, h2⟩
      exact ⟨by have := h1 (k', v') (List.mem_cons_self ..); simp only at this; omega, h2⟩

theorem keysFrom_tput {n k : Nat} {t : Tab α} (v : α) (h : keysFrom n t) (hk : n ≤ k) : keysFrom n (tput t k v) := by
  induction t with
  | nil => intro e he; simp only [tput, List.mem_singleton] at he; subst he; exact hk
  | cons e r ih =>
    obtain ⟨k', v'⟩ := e
    have hr : keysFrom n r := fun x hx => h x (List.mem_cons_of_mem _ hx)
    have h0 : n ≤ k' := h (k', v') (List.mem_cons_self ..)
    unfold tput
    split
    · intro x hx; rcases List.mem_cons.mp hx with rfl | hx
      · exact hk
      · exact h x hx
    · split
      · intro x hx; rcases List.mem_cons.mp hx with rfl | hx
        · exact hk
        · exact hr x hx
      · intro x hx; rcases List.mem_cons.mp hx with rfl | hx
        · exact h0
        · exact ih hr x hx

theorem keysFrom_tdel {n k : Nat} {t : Tab α} (h : keysFrom n t) : keysFrom n (tdel t k) := by
  induction t with
  | nil => exact h
  | cons e r ih =>
    obtain ⟨k', v'⟩ := e
    have hr : keysFrom n r := fun x hx => h x (List.mem_cons_of_mem _ hx)
    unfold tdel
    split
    · exact ih hr
    · intro x hx; rcases List.mem_cons.mp hx with rfl | hx
      · exact h (k', v') (List.mem_cons_self ..)
      · exact ih hr x hx

theorem tsorted_tput {t : Tab α} (k : Nat) (v : α) (h : tsorted t = true) : tsorted (tput t k v) = true := by
  induction t with
  | nil => rfl
  | cons e r ih =>
    obtain ⟨k', v'⟩ := e
    have h' := (tsorted_cons k' v' r).mp h
    unfold tput
    split
    · rename_i hk
      refine (tsorted_cons _ _ _).mpr ⟨?_, h⟩
      intro x hx; rcases List.mem_cons.mp hx with rfl | hx
      · exact hk
      · have := h'.1 x hx; omega
    · split
      · rename_i hk; subst hk; exact (tsorted_cons _ _ _).mpr h'
      · exact (tsorted_cons _ _ _).mpr ⟨keysFrom_tput v h'.1 (by omega), ih h'.2⟩

theorem tsorted_tdel {t : Tab α} (k : Nat) (h : tsorted t = true) : tsorted (tdel t k) = true := by
  induction t with
  | nil => rfl
  | cons e r ih =>
    obtain ⟨k', v'⟩ := e
    have h' := (tsorted_cons k' v' r).mp h
    unfold tdel
    split
    · exact ih h'.2
    · exact (tsorted_cons _ _ _).mpr ⟨keysFrom_tdel h'.1, ih h'.2⟩

theorem all_tput {P : Nat × α → Bool} {t : Tab α} {k : Nat} {v : α} (h : t.all P = true) (hv : P (k, v) = true) :
    (tput t k v).all P = true := by
  induction t with
  | nil => simp [tput, hv]
  | cons e r ih =>
    obtain ⟨k', v'⟩ := e
    simp only [List.all_cons, Bool.and_eq_true] at h
    unfold tput
    split
    · simp [hv, h.1, h.2]
    · split
      · simp [hv, h.2]
      · simp [h.1, ih h.2]

theorem all_tdel {P : Nat × α → Bool} {t : Tab α} (k : Nat) (h : t.all P = true) : (tdel t k).all P = true := by
  induction t with
  | nil => rfl
  | cons e r ih =>
    obtain ⟨k', v'⟩ := e
    simp only [List.all_cons, Bool.and_eq_true] at h
    unfold tdel
    split
    · exact ih h.2
    · simp [h.1, ih h.2]

/-- A table write keeps the canonical form. -/
theorem twf_tset [DecidableEq α] {d : α} {t : Tab α} (k : Nat) (v : α) (h : twf d t = true) : twf d (tset d t k v) = true := by
  simp only [twf, Bool.and_eq_true] at h ⊢
  unfold tset
  split
  · exact ⟨tsorted_tdel k h.1, all_tdel k h.2⟩
  · rename_i hv; exact ⟨tsorted_tput k v h.1, all_tput h.2 (by simpa using hv)⟩

/-- Writing a byte keeps the canonical form of a memory. -/
theorem wf_write {m : List Host.Cell} (a : Nat) (b : Byte) (h : Memory.wf m = true) : Memory.wf (Memory.write m a b) = true :=
  twf_tset a b h

/-- Writing bytes keeps the canonical form of a memory. -/
theorem wf_writes (l : List Byte) : ∀ {m : List Host.Cell} (a : Nat), Memory.wf m = true → Memory.wf (Memory.writes m a l) = true := by
  induction l with
  | nil => intro m a h; exact h
  | cons b bs ih => intro m a h; exact ih _ (wf_write _ _ h)

theorem tsorted_filter {p : Nat × α → Bool} {t : Tab α} (h : tsorted t = true) : tsorted (t.filter p) = true := by
  induction t with
  | nil => rfl
  | cons e r ih =>
    obtain ⟨k', v'⟩ := e
    have h' := (tsorted_cons k' v' r).mp h
    by_cases hp : p (k', v') = true
    · rw [List.filter_cons_of_pos hp]
      exact (tsorted_cons _ _ _).mpr ⟨fun x hx => h'.1 x ((List.mem_filter.mp hx).1), ih h'.2⟩
    · rw [List.filter_cons_of_neg hp]
      exact ih h'.2

/-- A part of a canonical memory is canonical. -/
theorem wf_filter {m : List Host.Cell} (p : Host.Cell → Bool) (h : Memory.wf m = true) : Memory.wf (m.filter p) = true := by
  simp only [Memory.wf, twf, Bool.and_eq_true] at h ⊢
  refine ⟨tsorted_filter h.1, ?_⟩
  rw [List.all_eq_true] at *
  exact fun x hx => h.2 x ((List.mem_filter.mp hx).1)

/-- Nothing listed is canonical. -/
theorem wf_nil : Memory.wf [] = true := rfl

end Sys2Proof.Machine
end

