-- ==== Sys2Proof/Laws/Words.lean ====
section
/-! SUPPORT. What every word does around its own effect, and one lemma for each shape of word: what it writes and what it leaves. -/

namespace Sys2Proof.Machine

/-! ## Groups and paths -/

@[simp] theorem group_setGroup (s : State) (k : Nat) (g : Group) : (s.setGroup k g).group k = g := by
  simp [State.group, State.setGroup]

theorem group_setGroup_ne (s : State) {k j : Nat} (g : Group) (h : j ≠ k) : (s.setGroup k g).group j = s.group j := by
  simp [State.group, State.setGroup, tget_tput_ne _ _ _ h]

@[simp] theorem grp_setGrp (s : State) (g : Group) : (s.setGrp g).grp = g := group_setGroup s s.focus g

@[simp] theorem setGrp_fpath (s : State) (g : Group) : (s.setGrp g).fpath = s.fpath := rfl

@[simp] theorem setGrp_focus (s : State) (g : Group) : (s.setGrp g).focus = s.focus := rfl

@[simp] theorem path_setPath (g : Group) (p : Nat) (q : Path) : (g.setPath p q).path p = q := by
  by_cases h : p = 0 <;> simp [Group.setPath, Group.path, h]

@[simp] theorem path_setPath_other (g : Group) (p : Nat) (q : Path) : (g.setPath p q).path (1 - p) = g.path (1 - p) := by
  by_cases h : p = 0
  · simp [Group.setPath, Group.path, h]
  · have h1 : 1 - p = 0 := by omega
    simp [Group.setPath, Group.path, h, h1]

/-- Replacing a path slot changes nothing of a group but its two path slots. -/
theorem setPath_eq (g : Group) (p : Nat) (q : Path) : g.setPath p q = { g with p0 := (g.setPath p q).p0, p1 := (g.setPath p q).p1 } := by
  by_cases h : p = 0 <;> simp [Group.setPath, h]

@[simp] theorem setPth_grp (s : State) (q : Path) : (s.setPth q).grp = s.grp.setPath s.fpath q := grp_setGrp _ _

@[simp] theorem setPth_pth (s : State) (q : Path) : (s.setPth q).pth = q := by simp [State.pth, State.setPth]

@[simp] theorem setPth_fpath (s : State) (q : Path) : (s.setPth q).fpath = s.fpath := rfl

@[simp] theorem setGrp_pth (s : State) (g : Group) : (s.setGrp g).pth = g.path s.fpath := by simp [State.pth]

@[simp] theorem tick_grp (s : State) : s.tick.grp = s.grp := rfl
@[simp] theorem tick_pth (s : State) : s.tick.pth = s.pth := rfl
@[simp] theorem tick_pc (s : State) : s.tick.pc = s.pc := rfl
@[simp] theorem tick_rb (s : State) (x : Loc) : s.tick.rb x = s.rb x := by cases x <;> rfl

@[simp] theorem setGroup_rb (s : State) (k : Nat) (g : Group) (x : Loc) : (s.setGroup k g).rb x = s.rb x := by cases x <;> rfl

@[simp] theorem wv_path (g : Group) (n : Nat) (l : List (Nat × W32)) (p : Nat) : (g.wv n l).path p = g.path p := rfl
@[simp] theorem wp_path (g : Group) (n : Nat) (ls vs : Mask) (p : Nat) : (g.wp n ls vs).path p = g.path p := rfl
@[simp] theorem raise_path (g : Group) (f : FFlags) (p : Nat) : (g.raise f).path p = g.path p := rfl

@[simp] theorem ws_path_other (g : Group) (p n : Nat) (v : W64) : (g.ws p n v).path (1 - p) = g.path (1 - p) := by
  by_cases h : n = 127
  · simp [Group.ws, h]
  · simp only [Group.ws, h, if_false]; rfl

theorem ws_path (g : Group) (p n : Nat) (v : W64) :
    (g.ws p n v).path p = { g.path p with mask := if n = 127 then v &&& (g.path p).owned else (g.path p).mask } := by
  by_cases h : n = 127
  · simp [Group.ws, h]
  · simp only [Group.ws, h, if_false]; rfl

theorem ws_sreg (g : Group) (p n : Nat) (v : W64) : (g.ws p n v).sreg = if n = 127 then g.sreg else tset 0#64 g.sreg n v := by
  by_cases h : n = 127 <;> simp [Group.ws, h]

/-- A scalar register after a write of one (02 R50, 01 R32). -/
theorem sraw_ws (g : Group) (p d n : Nat) (v : W64) :
    (g.ws p d v).sraw p n = if n = d then (if d = 127 then v &&& (g.path p).owned else v) else g.sraw p n := by
  simp only [Group.sraw, ws_path, ws_sreg]
  by_cases hd : d = 127
  · by_cases hn : n = 127 <;> simp [hd, hn]
  · by_cases hn : n = 127
    · have : ¬ 127 = d := fun h => hd h.symm
      simp [hd, hn, this]
    · simp [hd, hn, tget_tset]

/-! ## What stands elsewhere -/

theorem State.Elsewhere.tick (s : State) : s.Elsewhere s.tick := ⟨rfl, fun _ _ => rfl, fun x => tick_rb s x⟩

theorem State.Elsewhere.focus {s t : State} (h : s.Elsewhere t) : t.focus = s.focus := by rw [h.1]

theorem State.Elsewhere.fpath {s t : State} (h : s.Elsewhere t) : t.fpath = s.fpath := by rw [h.1]

theorem State.Elsewhere.setGrp {s t : State} (h : s.Elsewhere t) (g : Group) : s.Elsewhere (t.setGrp g) := by
  obtain ⟨h1, h2, h3⟩ := h
  have hf : t.focus = s.focus := by rw [h1]
  refine ⟨?_, fun k hk => ?_, fun x => ?_⟩
  · rw [State.setGrp, State.setGroup, h1]
  · rw [← h2 k hk]
    exact group_setGroup_ne t g (by rw [hf]; exact hk)
  · rw [← h3 x]
    exact setGroup_rb t t.focus g x

theorem State.Elsewhere.advance {s t : State} (h : s.Elsewhere t) (pc : W64) (pk : Bool) : s.Elsewhere (t.advance pc pk) := h.setGrp _

/-! ## Words -/

/-- A word that issues has its own effect, from the state with a fresh counter of free values. -/
theorem word_of_issues {i : Instr} {s : State} {body : State → Eff} (h : s.Issues i) : word i s body = .next (finish i s (body s.tick)) := by
  obtain ⟨h1, h2, h3, h4⟩ := h
  simp [word, h1, h2, h3, h4]

/-- A word that cannot issue now leaves the state as it is. -/
theorem word_held {i : Instr} {s : State} {body : State → Eff} (h : s.canIssue = false ∨ (s.tick.dynReason i = 0 ∧ (s.grp.held s.fpath i = true ∨ s.tick.waits i = true))) :
    word i s body = .next s := by
  rcases h with h | ⟨h1, h | h⟩ <;> simp [word, *]

/-- A word that its group may not issue takes the illegal-instruction trap with the lowest reason. -/
theorem word_illegal {i : Instr} {s : State} {body : State → Eff} (hc : s.canIssue = true) (h : s.tick.dynReason i ≠ 0) :
    word i s body = .next (s.sysTrapped i { cause := 1, reason := s.tick.dynReason i }) := by
  simp [word, hc, h, finish, ili, State.trapWord, State.sysTrapped]

/-- A path that goes on at an address, its other path slot as it was. -/
theorem goes_advance {s t : State} {new : List Pend} (hp : t.pth = { s.pth with pend := t.pth.pend })
    (hq : t.pth.pend.map Pend.plain = (s.pth.pend ++ new).map Pend.plain)
    (ho : t.grp.path (1 - s.fpath) = s.grp.path (1 - s.fpath)) (hf : t.fpath = s.fpath)
    (pc : W64) (pk : Bool) : s.Goes (t.advance pc pk) pc pk new := by
  have ha : (t.advance pc pk).pth = { t.pth with pc := pc, park := pk } := by rw [State.advance, setPth_pth]; rfl
  refine ⟨?_, ?_, ?_⟩
  · rw [ha, hp]
  · rw [ha]; exact hq
  · simp only [State.advance, setPth_grp, hf]
    rw [path_setPath_other, ho]

theorem advance_grp (s : State) (pc : W64) (pk : Bool) :
    (s.advance pc pk).grp = s.grp.setPath s.fpath { s.pth with pc := pc, park := pk } := by
  simp [State.advance, Path.parkIf]

@[simp] theorem advance_pth (s : State) (pc : W64) (pk : Bool) : (s.advance pc pk).pth = { s.pth with pc := pc, park := pk } := by
  rw [State.advance, setPth_pth]; rfl

@[simp] theorem advance_fpath (s : State) (pc : W64) (pk : Bool) : (s.advance pc pk).fpath = s.fpath := rfl

/-! ## What the registers depend on -/

theorem State.Elsewhere.refl (s : State) : s.Elsewhere s := ⟨rfl, fun _ _ => rfl, fun _ => rfl⟩

theorem State.Elsewhere.trans {a b c : State} (h : a.Elsewhere b) (k : b.Elsewhere c) : a.Elsewhere c := by
  refine ⟨?_, fun x hx => ?_, fun x => (k.2.2 x).trans (h.2.2 x)⟩
  · rw [k.1, h.1]
  · rw [k.2.1 x (by rw [h.focus]; exact hx), h.2.1 x hx]

/-- A state that differs from another only by what the registers and the outstanding results of the path in focus depend on. -/
structure State.Flows (u t : State) : Prop where
  elsewhere : u.Elsewhere t
  grp : t.grp = { u.grp with obs := u.grp.obsAs t.grp, p0 := t.grp.p0, p1 := t.grp.p1 }
  pth : t.pth = { u.pth with pend := t.pth.pend }
  plain : t.pth.pend.map Pend.plain = u.pth.pend.map Pend.plain
  other : t.grp.path (1 - u.fpath) = u.grp.path (1 - u.fpath)

theorem State.Flows.refl (u : State) : u.Flows u := ⟨.refl u, rfl, rfl, rfl, rfl⟩

/-- Setting what registers depend on changes nothing else of a group. -/
theorem setDeps_eq (f : Group → RF × Nat → Group) (hf : ∀ g r, ∃ d, f g r = { g with obs := { g.obs with dep := d } }) (l : List (RF × Nat)) :
    ∀ g : Group, ∃ d, l.foldl f g = { g with obs := { g.obs with dep := d } } := by
  induction l with
  | nil => exact fun g => ⟨g.obs.dep, rfl⟩
  | cons r l ih =>
    intro g
    obtain ⟨d, hd⟩ := hf g r
    obtain ⟨e, he⟩ := ih (f g r)
    exact ⟨e, by rw [List.foldl_cons, he, hd]⟩

/-- What `State.flow` can do. -/
theorem flow_flows (u : State) (i : Instr) : u.Flows (u.flow i) := by
  unfold State.flow
  dsimp only
  split
  · exact .refl u
  · split
    · refine ⟨(State.Elsewhere.refl u).setGrp _, ?_, ?_, ?_, ?_⟩
      · rw [setPth_grp, setPath_eq]
        simp [Group.obsAs]
      · rw [setPth_pth]
      · rw [setPth_pth, List.map_map]
        refine List.map_congr_left fun q _ => ?_
        simp only [Function.comp]
        split <;> rfl
      · rw [setPth_grp, path_setPath_other]
    · obtain ⟨d, hd⟩ := setDeps_eq (Group.flowTo (u.grp.flowDep i) (u.writesWhole i))
        (by rintro g ⟨_ | _ | _ | _, n⟩ <;> exact ⟨_, rfl⟩) i.uses.w u.grp
      refine ⟨(State.Elsewhere.refl u).setGrp _, ?_, ?_, ?_, ?_⟩ <;>
        simp only [grp_setGrp, setGrp_pth, hd] <;> rfl

/-- A word that writes no scalar or vector register at once leaves what registers depend on as it is. -/
def KeepsDeps (i : Instr) : Prop := ∀ u : State, (u.flow i).grp.obs = u.grp.obs

theorem keepsDeps_of_pred {i : Instr} (h : ∀ r ∈ i.uses.w, r.1 = .p ∨ r.1 = .t) : KeepsDeps i := by
  intro u
  have key : ∀ (f : Group → RF × Nat → Group) (l : List (RF × Nat)), (∀ g, ∀ r ∈ l, f g r = g) → ∀ g, l.foldl f g = g := by
    intro f l
    induction l with
    | nil => exact fun _ g => rfl
    | cons r l ih =>
      intro hf g
      rw [List.foldl_cons, hf g r (List.mem_cons_self ..)]
      exact ih (fun g x hx => hf g x (List.mem_cons_of_mem _ hx)) g
  unfold State.flow
  dsimp only
  split
  · rfl
  · split
    · rw [setPth_grp, setPath_obs]
    · rw [grp_setGrp, key]
      intro g r hr
      rcases h r hr with h | h <;> simp only [Group.flowTo, h]

theorem keepsDeps_of_pend {i : Instr} (h : (resClass i).isSome = true) (hp : isPaired i = false) : KeepsDeps i := by
  intro u
  unfold State.flow
  dsimp only
  split
  · rfl
  · rw [if_pos (by rw [h, hp]; rfl), setPth_grp, setPath_obs]

/-! ## The ends of words -/

/-- A word whose effect is in a state ends at the next address: its group, and what stands elsewhere. -/
theorem done_ends {i : Instr} {s u : State} {new : List Pend} (h : s.Elsewhere u) (hp : u.pth = { s.pth with pend := s.pth.pend ++ new })
    (ho : u.grp.path (1 - s.fpath) = s.grp.path (1 - s.fpath)) :
    s.Elsewhere (finish i s (.done u)) ∧ s.Goes (finish i s (.done u)) (s.pc + 8) i.pk new := by
  have f := flow_flows u i
  have hf : (u.flow i).fpath = s.fpath := (h.trans f.elsewhere).fpath
  refine ⟨(h.trans f.elsewhere).advance _ _, goes_advance ?_ ?_ ?_ hf _ _⟩
  · rw [f.pth, hp]
  · rw [f.plain, hp]
  · rw [← ho, ← h.fpath]; exact f.other

/-- The group of a word whose effect is in a state. -/
theorem done_grp {i : Instr} {s u : State} : let t := finish i s (.done u)
    t.grp = { u.grp with obs := u.grp.obsAs t.grp, p0 := t.grp.p0, p1 := t.grp.p1 } := by
  have h : (finish i s (.done u)).grp = (u.flow i).grp.setPath (u.flow i).fpath { (u.flow i).pth with pc := s.pc + 8, park := i.pk } := advance_grp _ _ _
  dsimp only
  rw [setPath_eq] at h
  generalize (finish i s (.done u)).grp = g at h ⊢
  rw [h, (flow_flows u i).grp]
  rfl

/-- The same of a word that leaves what registers depend on. -/
theorem done_grp_kept {i : Instr} {s u : State} (hk : KeepsDeps i) : let t := finish i s (.done u)
    t.grp = { u.grp with p0 := t.grp.p0, p1 := t.grp.p1 } := by
  have h := done_grp (i := i) (s := s) (u := u)
  have ho : (finish i s (.done u)).grp.obs = u.grp.obs := by
    show ((u.flow i).advance (s.pc + 8) i.pk).grp.obs = _
    rw [advance_grp, setPath_obs, hk u]
  dsimp only at h ⊢
  generalize (finish i s (.done u)).grp = g at h ho ⊢
  rw [h]
  simp only [Group.obsAs, ho]

/-- A word that writes nothing later leaves the outstanding results of its path. -/
theorem flow_pth {i : Instr} (u : State) (h : resClass i = none) : (u.flow i).pth = u.pth := by
  unfold State.flow
  dsimp only
  split
  · rfl
  · rw [if_neg (by rw [h]; simp)]
    obtain ⟨d, hd⟩ := setDeps_eq (Group.flowTo (u.grp.flowDep i) (u.writesWhole i))
      (by rintro g ⟨_ | _ | _ | _, n⟩ <;> exact ⟨_, rfl⟩) i.uses.w u.grp
    rw [setGrp_pth, hd]; rfl

/-- The path of a word whose effect is in a state. -/
theorem done_pth {i : Instr} {s u : State} : let t := finish i s (.done u)
    t.pth = { u.pth with pc := s.pc + 8, park := i.pk, pend := t.pth.pend } := by
  have h : (finish i s (.done u)).pth = { (u.flow i).pth with pc := s.pc + 8, park := i.pk } := advance_pth _ _ _
  dsimp only
  rw [(flow_flows u i).pth] at h
  rw [h]

theorem done_sreg {i : Instr} {s u : State} : (finish i s (.done u)).grp.sreg = u.grp.sreg := by rw [done_grp]
theorem done_vreg {i : Instr} {s u : State} : (finish i s (.done u)).grp.vreg = u.grp.vreg := by rw [done_grp]
theorem done_preg {i : Instr} {s u : State} : (finish i s (.done u)).grp.preg = u.grp.preg := by rw [done_grp]
theorem done_fps {i : Instr} {s u : State} : (finish i s (.done u)).grp.fps = u.grp.fps := by rw [done_grp]

/-- The scalar registers of a word whose effect is in a state. -/
theorem done_sraw {i : Instr} {s u : State} (h : s.Elsewhere u) (n : Nat) :
    (finish i s (.done u)).grp.sraw s.fpath n = u.grp.sraw s.fpath n := by
  have hf : (finish i s (.done u)).fpath = s.fpath := (h.trans (flow_flows u i).elsewhere).fpath
  have hp : (finish i s (.done u)).grp.path s.fpath = (finish i s (.done u)).pth := by rw [State.pth, hf]
  have hq : u.grp.path s.fpath = u.pth := by rw [State.pth, h.fpath]
  rw [Group.sraw, Group.sraw, hp, hq, done_sreg, done_pth]

/-- A scalar word writes its register and nothing else (06 R172). -/
theorem writesScalar_done {i : Instr} {s : State} (hr : resClass i = none) (d : Nat) (v : W64) :
    WritesScalar s i.pk d v (.next (finish i s (.done (s.tick.ws d v)))) := by
  have hu : s.Elsewhere (s.tick.ws d v) := (State.Elsewhere.tick s).setGrp _
  have f := flow_flows (s.tick.ws d v) i
  have hg : (s.tick.ws d v).grp = s.grp.ws s.fpath d v := by simp [State.ws]
  have hp : (s.tick.ws d v).pth = (s.grp.ws s.fpath d v).path s.fpath := by simp [State.ws]
  refine ⟨_, rfl, (hu.trans f.elsewhere).advance _ _, ?_, ?_, ?_, ?_, ?_⟩
  · have h := done_grp (i := i) (s := s) (u := s.tick.ws d v)
    dsimp only at h
    generalize (finish i s (.done (s.tick.ws d v))).grp = g at h ⊢
    rw [h, hg]
    by_cases hd : d = 127
    · simp only [Group.ws, hd, if_true, Group.obsAs]; rw [setPath_eq]
    · simp only [Group.ws, hd, if_false, Group.obsAs]
  · rw [done_sraw hu, hg, sraw_ws, if_pos rfl]; rfl
  · intro n hn
    rw [done_sraw hu, hg, sraw_ws, if_neg hn]
  · have h : (finish i s (.done (s.tick.ws d v))).pth = { ((s.tick.ws d v).flow i).pth with pc := s.pc + 8, park := i.pk } := advance_pth _ _ _
    rw [h, flow_pth _ hr, hp, ws_path]; rfl
  · have hf : ((s.tick.ws d v).flow i).fpath = s.fpath := (hu.trans f.elsewhere).fpath
    show ((((s.tick.ws d v).flow i).advance (s.pc + 8) i.pk).grp.path (1 - s.fpath)) = _
    rw [advance_grp, hf, path_setPath_other]
    refine f.other.trans ?_
    rw [hg]
    exact ws_path_other _ _ _ _

theorem scalar_writes {i : Instr} {s : State} (h : s.Issues i) (hr : resClass i = none) (d : Nat) (f : State → W64) :
    WritesScalar s i.pk d (f s.tick) (scalar i d f s) := by
  rw [scalar, word_of_issues h]
  exact writesScalar_done hr d _

/-! ## Masks and lanes -/

theorem mem_lanesOf {m : Mask} {l : Nat} : l ∈ lanesOf m ↔ l < 64 ∧ mbit m l = true := by
  simp [lanesOf, mbit]

theorem maskOf_from (L : List Nat) : ∀ (m : Mask) (i : Nat), i < 64 →
    mbit (L.foldl (fun m i => m ||| (1#64 <<< i)) m) i = (mbit m i || decide (i ∈ L)) := by
  induction L with
  | nil => simp
  | cons a L ih =>
    intro m i hi
    rw [List.foldl_cons, ih _ i hi]
    have h : mbit (m ||| (1#64 <<< a)) i = (mbit m i || decide (i = a)) := by
      simp only [mbit, BitVec.getLsbD_or, BitVec.getLsbD_shiftLeft, BitVec.getLsbD_one]
      by_cases h : i = a
      · simp [h, show a < 64 by omega]
      · by_cases h2 : i < a
        · simp [h, h2]
        · have : i - a ≠ 0 := by omega
          simp [h, this]
    rw [h]
    by_cases h : i = a <;> by_cases h2 : i ∈ L <;> simp [h, h2]

/-- The lanes of a mask made of a list. -/
theorem mbit_maskOf (L : List Nat) {i : Nat} (hi : i < 64) : mbit (maskOf L) i = decide (i ∈ L) := by
  rw [maskOf, maskOf_from L 0#64 i hi]
  simp [mbit]

/-- The lanes of a mask merged into another (02 R51). -/
theorem mbit_merge (a m v : Mask) {l : Nat} (hl : l < 64) :
    mbit ((a &&& ~~~m) ||| (v &&& m)) l = if mbit m l then mbit v l else mbit a l := by
  have h : mbit ((a &&& ~~~m) ||| (v &&& m)) l = ((mbit a l && !mbit m l) || (mbit v l && mbit m l)) := by
    simp only [mbit, BitVec.getLsbD_or, BitVec.getLsbD_and, BitVec.getLsbD_not, decide_eq_true hl, Bool.true_and]
  rw [h]
  by_cases he : mbit m l = true
  · simp [he]
  · simp [Bool.eq_false_iff.2 he]

/-! ## Lanes of a register -/

/-- Writing lanes of a register, each with a value that depends on its lane. -/
theorem tget_lanes (d : Nat) (f : Nat → W32) (L : List Nat) : ∀ (t : Tab W32) (n l : Nat), l < 64 → (∀ x ∈ L, x < 64) →
    tget 0#32 ((L.map fun l => (l, f l)).foldl (fun t e => tset 0#32 t (d * 64 + e.1) e.2) t) (n * 64 + l)
      = if n = d ∧ l ∈ L then f l else tget 0#32 t (n * 64 + l) := by
  induction L with
  | nil => simp
  | cons a L ih =>
    intro t n l hl hL
    have ha : a < 64 := hL a (by simp)
    rw [List.map_cons, List.foldl_cons, ih _ n l hl fun x hx => hL x (by simp [hx]), tget_tset]
    by_cases h : n = d ∧ l ∈ L
    · simp [h]
    · by_cases h2 : n = d ∧ l = a
      · simp [h2.1, h2.2]
      · have : ¬ n * 64 + l = d * 64 + a := by
          intro e
          exact h2 ⟨by omega, by omega⟩
        rw [if_neg h, if_neg this, if_neg]
        rintro ⟨h3, h4⟩
        rcases List.mem_cons.1 h4 with h5 | h5
        · exact h2 ⟨h3, h5⟩
        · exact h ⟨h3, h5⟩

/-- The lanes of a register after a write of lanes of a mask. -/
theorem lane_wv (g : Group) (d n l : Nat) (em : Mask) (f : Nat → W32) (hl : l < 64) :
    (g.wv d ((lanesOf em).map fun l => (l, f l))).lane n l = if n = d ∧ mbit em l = true then f l else g.lane n l := by
  rw [Group.lane, Group.wv, tget_lanes d f (lanesOf em) g.vreg n l hl fun x hx => (mem_lanesOf.1 hx).1]
  by_cases h : n = d ∧ mbit em l = true
  · rw [if_pos h, if_pos ⟨h.1, mem_lanesOf.2 ⟨hl, h.2⟩⟩]
  · rw [if_neg h, if_neg fun x => h ⟨x.1, (mem_lanesOf.1 x.2).2⟩]; rfl

/-! ## Flags -/

/-- What the flags of a word do where no enabled flag is raised (02 R56). -/
theorem endRaise_done {s : State} {f : FFlags} {info : Mask} (h : s.grp.enabled f = 0#6) :
    ∃ u, endRaise s f info = .done u ∧ s.Elsewhere u ∧ u.grp = { s.grp with fps := s.grp.fps ||| f.setWidth 64 } ∧ u.pth = s.pth := by
  by_cases hf : f = 0#6
  · refine ⟨s, by simp [endRaise, hf, Group.enabled], ⟨rfl, fun _ _ => rfl, fun _ => rfl⟩, ?_, rfl⟩
    simp [hf]
  · refine ⟨s.setGrp (s.grp.raise f), by simp [endRaise, hf, h], ?_, by simp [Group.raise], by simp [Group.raise, State.pth]; rfl⟩
    exact State.Elsewhere.setGrp ⟨rfl, fun _ _ => rfl, fun _ => rfl⟩ _

/-! ## The shapes of words -/

/-- `vec`: the lanes of the effective mask take the operation of their sources, and FPS gathers the flags (06 R168, 02 R56). -/
theorem vec_writes {i : Instr} {h : Hdr} {d : Nat} {op : LaneOp} {src : State → Nat → W32 × W32 × W32} {s : State} (hi : s.Issues i)
    (hf : s.grp.enabled (orFlags ((lanesOf (s.tick.em h)).map fun l => (op (src s.tick l).1 (src s.tick l).2.1 (src s.tick l).2.2).2)) = 0#6) :
    WritesVectorFlags s i.pk d (s.tick.em h) (fun l => op (src s.tick l).1 (src s.tick l).2.1 (src s.tick l).2.2) (vec i h d op src s) := by
  rw [vec, word_of_issues hi]
  simp only [List.map_map, Function.comp_def, endFlags]
  generalize hF : orFlags ((lanesOf (s.tick.em h)).map fun l => (op (src s.tick l).1 (src s.tick l).2.1 (src s.tick l).2.2).2) = F at hf
  generalize hW : s.tick.wv d ((lanesOf (s.tick.em h)).map fun l => (l, (op (src s.tick l).1 (src s.tick l).2.1 (src s.tick l).2.2).1)) = u
  have hu : s.Elsewhere u := by rw [← hW]; exact (State.Elsewhere.tick s).setGrp _
  have hg : u.grp = s.grp.wv d ((lanesOf (s.tick.em h)).map fun l => (l, (op (src s.tick l).1 (src s.tick l).2.1 (src s.tick l).2.2).1)) := by
    rw [← hW]; simp [State.wv]
  have hp : u.pth = { s.pth with pend := s.pth.pend ++ [] } := by rw [← hW]; simp [State.wv, State.pth]
  obtain ⟨x, hx, he, hxg, hxp⟩ := endRaise_done (s := u) (f := F)
    (info := u.grp.enabledLanes ((lanesOf (s.tick.em h)).map fun l => (l, (op (src s.tick l).1 (src s.tick l).2.1 (src s.tick l).2.2).2)))
    (by rw [hg]; exact hf)
  have hxx : s.Elsewhere x := hu.trans he
  rw [hx]
  have ho : x.grp.path (1 - s.fpath) = s.grp.path (1 - s.fpath) := by rw [hxg, hg]; rfl
  obtain ⟨h1, h2⟩ := done_ends (i := i) hxx (hxp.trans hp) ho
  refine ⟨_, rfl, h1, h2, ?_, fun l hl => ?_, fun n l hn hl => ?_, ?_⟩
  · have h := done_grp (i := i) (s := s) (u := x)
    dsimp only at h
    generalize (finish i s (.done x)).grp = y at h ⊢
    rw [h, hxg, hg]; rfl
  · rw [Group.lane, done_vreg, hxg, hg]
    have := lane_wv s.grp d d l (s.tick.em h) (fun l => (op (src s.tick l).1 (src s.tick l).2.1 (src s.tick l).2.2).1) hl
    simp only [true_and] at this
    exact this
  · rw [Group.lane, done_vreg, hxg, hg]
    have := lane_wv s.grp d n l (s.tick.em h) (fun l => (op (src s.tick l).1 (src s.tick l).2.1 (src s.tick l).2.2).1) hl
    rw [if_neg fun x => hn x.1] at this
    exact this
  · rw [done_fps, hxg, hg]
    simp [hF]

theorem orFlags_zero {α : Type} (l : List α) : orFlags (l.map fun _ => (0#6 : FFlags)) = 0#6 := by
  have : ∀ (l : List α) (a : FFlags), (l.map fun _ => (0#6 : FFlags)).foldl (· ||| ·) a = a := by
    intro l
    induction l with
    | nil => simp
    | cons x r ih => intro a; simpa only [List.map_cons, List.foldl_cons, BitVec.or_zero] using ih a
  exact this l 0#6

/-- A vector word that raises no flag. -/
theorem vec_writes_quiet {i : Instr} {h : Hdr} {d : Nat} {op : LaneOp} {src : State → Nat → W32 × W32 × W32} {s : State} (hi : s.Issues i)
    (hq : ∀ a b c, (op a b c).2 = 0#6) :
    WritesVector s i.pk d (s.tick.em h) (fun l => (op (src s.tick l).1 (src s.tick l).2.1 (src s.tick l).2.2).1) (vec i h d op src s) := by
  have h0 : orFlags ((lanesOf (s.tick.em h)).map fun l => (op (src s.tick l).1 (src s.tick l).2.1 (src s.tick l).2.2).2) = 0#6 := by
    simp only [hq]; exact orFlags_zero _
  obtain ⟨t, h1, h2, h3, h4, h5, h6, h7⟩ := vec_writes (op := op) (src := src) (h := h) (d := d) hi (by rw [h0]; simp [Group.enabled])
  refine ⟨t, h1, h2, h3, ?_, h5, h6⟩
  rw [h0] at h7
  have : t.grp.fps = s.grp.fps := by simpa using h7
  rw [this] at h4
  exact h4

theorem pred_wp (g : Group) (d n : Nat) (ls vs : Mask) :
    (g.wp d ls vs).pred n = if n = d then (g.pred d &&& ~~~ls) ||| (vs &&& ls) else g.pred n := by
  simp [Group.pred, Group.wp, tget_tset]

/-- A predicate word, or a comparison (06 R186, R218). -/
theorem writesPredicate_done {i : Instr} {s : State} (hk : KeepsDeps i) (d : Nat) (em v : Mask) :
    WritesPredicate s i.pk d em (fun l => mbit v l) (.next (finish i s (.done (s.tick.wp d em v)))) := by
  have hu : s.Elsewhere (s.tick.wp d em v) := (State.Elsewhere.tick s).setGrp _
  have hg : (s.tick.wp d em v).grp = s.grp.wp d em v := by simp [State.wp]
  obtain ⟨h1, h2⟩ := done_ends (i := i) (new := []) hu (by simp [State.wp, State.pth]) (by rw [hg]; rfl)
  refine ⟨_, rfl, h1, h2, ?_, fun l hl => ?_, fun n hn => ?_⟩
  · have h := done_grp_kept (i := i) (s := s) (u := s.tick.wp d em v) hk
    dsimp only at h
    generalize (finish i s (.done (s.tick.wp d em v))).grp = y at h ⊢
    rw [h, hg]; rfl
  · rw [Group.pred, done_preg, hg]
    have := pred_wp s.grp d d em v
    rw [if_pos rfl] at this
    rw [Group.pred] at this
    rw [this]
    exact mbit_merge _ _ _ hl
  · rw [Group.pred, done_preg, hg]
    have := pred_wp s.grp d n em v
    rw [if_neg hn] at this
    exact this

theorem predWord_writes {i : Instr} {h : Hdr} {d : Nat} {f : State → Mask} {s : State} (hi : s.Issues i) (hk : KeepsDeps i) :
    WritesPredicate s i.pk d (s.tick.em h) (fun l => mbit (f s.tick) l) (predWord i h d f s) := by
  rw [predWord, word_of_issues hi]
  exact writesPredicate_done hk d _ _

theorem vecCmp_writes {i : Instr} {h : Hdr} {d a b : Nat} {f : W32 → W32 → Bool} {s : State} (hi : s.Issues i) (hk : KeepsDeps i) :
    WritesPredicate s i.pk d (s.tick.em h) (fun l => f (s.tick.rv a l) (s.tick.rv b l)) (vecCmp i h d a b f s) := by
  rw [vecCmp, word_of_issues hi]
  obtain ⟨t, h1, h2, h3, h4, h5, h6⟩ := writesPredicate_done (i := i) (s := s) hk d (s.tick.em h)
    (maskOf ((lanesOf (s.tick.em h)).filter fun l => f (s.tick.rv a l) (s.tick.rv b l)))
  refine ⟨t, h1, h2, h3, h4, fun l hl => ?_, h6⟩
  rw [h5 l hl]
  by_cases he : mbit (s.tick.em h) l = true
  · rw [if_pos he, if_pos he]
    show mbit (maskOf _) l = _
    rw [mbit_maskOf _ hl]
    simp [mem_lanesOf, he, hl]
  · rw [if_neg he, if_neg he]

/-- A word that only goes on at an address. -/
theorem onlyGoes {i : Instr} {s : State} {pc : W64} : OnlyGoes s i.pk pc (.next (finish i s (.goto s.tick pc))) := by
  refine ⟨_, rfl, (State.Elsewhere.tick s).advance _ _, goes_advance rfl (by simp) rfl rfl _ _, ?_⟩
  rw [finish, advance_grp, setPath_eq]; rfl

theorem onlyGoes_done {i : Instr} {s : State} (hk : KeepsDeps i) : OnlyGoes s i.pk (s.pc + 8) (.next (finish i s (.done s.tick))) := by
  obtain ⟨h1, h2⟩ := done_ends (i := i) (u := s.tick) (new := []) (State.Elsewhere.tick s) (by simp) rfl
  exact ⟨_, rfl, h1, h2, done_grp_kept hk⟩

/-! ## Results that stay outstanding -/

theorem addPend_pth (s : State) (c : RCls) (r : PRes) (w : W64) (m : List (Nat × Nat)) :
    (s.addPend c r w m).pth = { s.pth with pend := s.pth.pend ++ [⟨c, r, s.pc, w, m, 0⟩] } := by
  rw [State.addPend, setPth_pth]

theorem addPend_grp (s : State) (c : RCls) (r : PRes) (w : W64) (m : List (Nat × Nat)) :
    (s.addPend c r w m).grp = s.grp.setPath s.fpath { s.pth with pend := s.pth.pend ++ [⟨c, r, s.pc, w, m, 0⟩] } := by
  rw [State.addPend, setPth_grp]

/-- A state that differs from another only by further outstanding results of the path in focus. -/
def State.Adds (s u : State) (new : List Pend) : Prop :=
  s.Elsewhere u ∧ u.pth = { s.pth with pend := s.pth.pend ++ new } ∧ u.grp = s.grp.setPath s.fpath u.pth

theorem adds_addPend (s : State) (c : RCls) (r : PRes) (w : W64) : s.Adds (s.tick.addPend c r w []) [⟨c, r, s.pc, w, [], 0⟩] := by
  refine ⟨(State.Elsewhere.tick s).setGrp _, addPend_pth _ _ _ _ _, ?_⟩
  rw [addPend_grp, addPend_pth]; rfl

theorem setPath_self (g : Group) (p : Nat) : g.setPath p (g.path p) = g := by
  by_cases h : p = 0 <;> simp [Group.setPath, Group.path, h]

theorem adds_addPendV (s : State) (c : RCls) (d : Nat) (l : List (Nat × W32)) (w : Nat) :
    s.Adds (s.tick.addPendV c d l w) (vecPends s c d l w) := by
  by_cases h : l.isEmpty = true
  · simp only [State.addPendV, vecPends, h, if_true]
    refine ⟨State.Elsewhere.tick s, by simp, ?_⟩
    show s.grp = s.grp.setPath s.fpath (s.grp.path s.fpath)
    rw [setPath_self]
  · simp only [State.addPendV, vecPends, h]
    exact adds_addPend s c (.v d l) (BitVec.ofNat 64 w)

@[simp] theorem setPath_setPath (g : Group) (p : Nat) (q r : Path) : (g.setPath p q).setPath p r = g.setPath p r := by
  by_cases h : p = 0 <;> simp [Group.setPath, h]

/-- A word whose results stay outstanding, with the flags it raises (02 R56, R72). -/
theorem leavesPending {i : Instr} {s u : State} {new : List Pend} {f : FFlags} {info : Mask} (hk : KeepsDeps i) (h : s.Adds u new)
    (hf : s.grp.enabled f = 0#6) : LeavesPending s i.pk new f (.next (finish i s (endRaise u f info))) := by
  obtain ⟨h1, h2, h3⟩ := h
  have hfps : u.grp.fps = s.grp.fps := by rw [h3, setPath_fps]
  obtain ⟨x, hx, he, hg, hp⟩ := endRaise_done (s := u) (f := f) (info := info) (by simp only [Group.enabled, hfps]; exact hf)
  rw [hx]
  have ho : x.grp.path (1 - s.fpath) = s.grp.path (1 - s.fpath) := by
    rw [hg]
    show u.grp.path (1 - s.fpath) = _
    rw [h3, path_setPath_other]
  obtain ⟨h4, h5⟩ := done_ends (i := i) (h1.trans he) (hp.trans h2) ho
  refine ⟨_, rfl, h4, h5, ?_⟩
  have h := done_grp_kept (i := i) (s := s) (u := x) hk
  dsimp only at h
  generalize (finish i s (.done x)).grp = y at h ⊢
  rw [h, hg, hfps, h3, setPath_eq]

theorem leavesPending_done {i : Instr} {s u : State} {new : List Pend} (hk : KeepsDeps i) (h : s.Adds u new) :
    LeavesPending s i.pk new 0#6 (.next (finish i s (.done u))) := by
  have := leavesPending (i := i) (f := 0#6) (info := 0#64) hk h (by simp [Group.enabled])
  simpa [endRaise, Group.enabled] using this

theorem cross_leaves {i : Instr} {h : Hdr} {d : Nat} {f : State → Mask → Nat → Option W32} {s : State} (hi : s.Issues i) (hk : KeepsDeps i) :
    LeavesPending s i.pk (vecPends s .x d ((lanesOf (s.tick.em h)).filterMap fun l => (f s.tick (s.tick.em h) l).map fun v => (l, v)) (encode i)) 0#6
      (cross i h d f s) := by
  rw [cross, word_of_issues hi]
  exact leavesPending_done hk (adds_addPendV _ _ _ _ _)

theorem vecX_leaves {i : Instr} {h : Hdr} {d a : Nat} {op : W32 → Fl} {s : State} (hi : s.Issues i) (hk : KeepsDeps i)
    (hf : s.grp.enabled (orFlags ((lanesOf (s.tick.em h)).map fun l => (op (s.tick.rv a l)).2)) = 0#6) :
    LeavesPending s i.pk (vecPends s .x d ((lanesOf (s.tick.em h)).map fun l => (l, (op (s.tick.rv a l)).1)) (encode i))
      (orFlags ((lanesOf (s.tick.em h)).map fun l => (op (s.tick.rv a l)).2)) (vecX i h d op a s) := by
  rw [vecX, word_of_issues hi]
  simp only [List.map_map, Function.comp_def, endFlags]
  exact leavesPending hk (adds_addPendV _ _ _ _ _) hf

theorem scanWord_leaves {i : Instr} {h : Hdr} {d a : Nat} {op : ROp} {excl : Bool} {s : State} (hi : s.Issues i) (hk : KeepsDeps i)
    (hf : s.grp.enabled (orFlags (((s.tick.scan op a (s.tick.em h)).filter fun r => mbit (s.tick.em h) r.1).map fun r => r.2.2.2)) = 0#6) :
    LeavesPending s i.pk
      (vecPends s .x d (((s.tick.scan op a (s.tick.em h)).filter fun r => mbit (s.tick.em h) r.1).map
        fun r => (r.1, if excl then r.2.1 else r.2.2.1)) (encode i))
      (orFlags (((s.tick.scan op a (s.tick.em h)).filter fun r => mbit (s.tick.em h) r.1).map fun r => r.2.2.2)) (scanWord i h d a op excl s) := by
  rw [scanWord, word_of_issues hi]
  simp only [endFlags, List.map_map, Function.comp_def]
  exact leavesPending hk (adds_addPendV _ _ _ _ _) hf

end Sys2Proof.Machine
end

