-- ==== Sys2Proof/Laws/Memory.lean ====
section
/-! SUPPORT. Laws of the operations over memory: each keeps the canonical form, says which bytes it changes, and leaves groups alone. -/

namespace Sys2Proof.Machine

/-! ## The canonical form -/

/-- Memory is canonical. -/
def State.memOk (s : State) : Prop := Memory.wf s.mem = true

theorem wf_putWords (l : List (Nat × Nat)) : ∀ {m : List Host.Cell}, Memory.wf m = true → Memory.wf (putWords m l) = true := by
  induction l with
  | nil => intro m h; exact h
  | cons e r ih => intro m h; exact ih (m := Memory.writes m e.1 (leBytes 8 e.2)) (wf_writes _ _ h)

theorem wf_reset : State.reset.memOk := rfl

theorem memOk_wb (s : State) (x : Loc) (b : Byte) (h : s.memOk) : (s.wb x b).memOk := by
  unfold State.wb State.memOk
  split
  · split
    · exact wf_write _ _ h
    · exact h
  · exact h

theorem memOk_foldl {α : Type} (f : State → α → State) (hf : ∀ s a, s.memOk → (f s a).memOk) (l : List α) :
    ∀ s : State, s.memOk → (l.foldl f s).memOk := by
  induction l with
  | nil => intro s h; exact h
  | cons a r ih => intro s h; exact ih _ (hf s a h)

theorem tqInit_mem (s t : State) (q : Nat) : (tqInit s t q).mem = t.mem := by unfold tqInit; split <;> rfl

theorem memOk_tqInit (s t : State) (q : Nat) (h : t.memOk) : (tqInit s t q).memOk := by unfold State.memOk; rw [tqInit_mem]; exact h

theorem putCell_mem (n : Nat) (s : State) (c : Loc × Byte) : (s.putCell n c).mem = (s.wb c.1 c.2).mem := by
  unfold State.putCell
  dsimp only
  split <;> rfl

theorem memOk_putCell (n : Nat) (s : State) (c : Loc × Byte) (h : s.memOk) : (s.putCell n c).memOk := by
  unfold State.memOk
  rw [putCell_mem]
  exact memOk_wb _ _ _ h

theorem memOk_putCells (s : State) (cells : List (Loc × Byte)) (h : s.memOk) : (s.putCells cells).memOk :=
  memOk_foldl (fun a q => tqInit s a q) (fun _ _ h => memOk_tqInit _ _ _ h) _ _
    (show (cells.foldl (State.putCell (s.now + 1)) s).memOk from memOk_foldl _ (fun _ _ h => memOk_putCell _ _ _ h) _ _ h)

theorem memOk_wcells (s : State) (cells : List (Loc × Byte)) (h : s.memOk) : (s.wcells cells).memOk := memOk_putCells s cells h

theorem memOk_wnum (s : State) (pa n v : Nat) (h : s.memOk) : (s.wnum pa n v).memOk := memOk_wcells _ _ h

theorem memOk_wlnum (s : State) (l : Loc) (n v : Nat) (h : s.memOk) : (s.wlnum l n v).memOk := memOk_wcells _ _ h

theorem memOk_wbytes (s : State) (pa : Nat) (bs : List Byte) (h : s.memOk) : (s.wbytes pa bs).memOk := memOk_wcells _ _ h

theorem memOk_releaseLocs (s : State) (p : Nat) (scp : Scope) (b : Bool) (l : List Loc) (v : Nat) (h : s.memOk) :
    (s.releaseLocs p scp b l v).memOk := memOk_wcells _ _ h

theorem memOk_setPhaser (s : State) (l : Loc) (p : Ph) (h : s.memOk) : (s.setPhaser l p).memOk := memOk_putCells _ _ h

theorem memOk_phaserAs (s : State) (gk : Nat) (rel : Bool) (scp : Scope) (l : Loc) (p : Ph) (h : s.memOk) : (s.phaserAs gk rel scp l p).memOk :=
  memOk_setPhaser (s.observeWith gk _) l p h

/-- The phaser arrivals through a slot write its bytes at most. -/
theorem memOk_arriveSlot (s : State) (gk k : Nat) (l : Loc) (scp : Scope) (h : s.memOk) : (s.arriveSlot gk k l scp).1.memOk := by
  unfold State.arriveSlot
  dsimp only
  split
  · exact h
  · split <;> exact memOk_phaserAs s gk true scp l _ h

theorem memOk_cmdCells (s : State) (c : Cmd) (cells : List (Loc × Byte)) (h : s.memOk) : (s.cmdCells c cells).memOk :=
  memOk_wcells s cells h

theorem memOk_cmdRelease (s : State) (c : Cmd) (cells : List (Loc × Byte)) (h : s.memOk) : (s.cmdRelease c cells).memOk :=
  memOk_wcells s cells h

theorem memOk_rmw (s : State) (m : Amo) (op : AOp) (l : List Loc) (b c : Nat) (h : s.memOk) : (s.rmw m op l b c).1.memOk := by
  unfold State.rmw
  dsimp only
  split
  · exact memOk_putCells _ _ h
  · exact h

theorem memOk_writeAs (s : State) (gk : Nat) (cells : List (Loc × Byte)) (h : s.memOk) : (s.writeAs gk cells).memOk := by
  unfold State.writeAs
  exact memOk_putCells _ _ h

theorem memOk_writeFrame (s : State) (g : Group) (a tfa : Nat) (h : s.memOk) : (s.writeFrame g a tfa).memOk :=
  memOk_foldl _ (fun _ _ h => memOk_wnum _ _ _ _ h) _ _ h

theorem wf_foldl_write (l : List (Nat × Byte)) : ∀ {m : List Host.Cell}, Memory.wf m = true →
    Memory.wf (l.foldl (fun (m : List Host.Cell) (c : Nat × Byte) => Memory.write m c.1 c.2) m) = true := by
  induction l with
  | nil => intro m h; exact h
  | cons c l ih => intro m h; exact ih (wf_write _ _ h)

theorem wf_foldr_write (l : List (Byte × Nat)) {m : List Host.Cell} (h : Memory.wf m = true) :
    Memory.wf (l.foldr (fun c m => if c.1 = unlisted then m else Memory.write m c.2 c.1) m) = true := by
  induction l with
  | nil => exact h
  | cons c l ih =>
    rw [List.foldr_cons]
    split
    · exact ih
    · exact wf_write _ _ ih

theorem memOk_putInfo (s : State) (h : s.memOk) : s.putInfo.memOk := by
  unfold State.putInfo State.memOk
  exact wf_foldr_write _ (wf_filter _ h)

theorem memOk_putLive (s : State) (d : Nat) (h : s.memOk) : (s.putLive d).memOk := by
  unfold State.putLive State.memOk
  exact wf_writes (leBytes 8 _) _ (wf_writes (leBytes 2 _) _ h)

theorem memOk_putMeasure (s : State) (l : List Byte) (h : s.memOk) : (s.putMeasure l).memOk := by
  unfold State.putMeasure State.memOk
  exact wf_writes l s.mra h

theorem memOk_loadControl (s : State) (h : s.memOk) : s.loadControl.memOk := wf_foldl_write _ h

theorem memOk_countEnd (s : State) (p c n : Nat) (col : Bool) (h : s.memOk) : (s.countEnd p c n col).memOk := by
  unfold State.countEnd
  dsimp only
  split <;> exact h

theorem memOk_countEnds (s : State) (gk : Nat) (h : s.memOk) : (s.countEnds gk).memOk :=
  memOk_foldl _ (fun _ _ h => memOk_countEnd _ _ _ _ _ h) _ _ h

theorem memOk_perform (s : State) (gk i : Nat) (h : s.memOk) : (s.perform gk i).memOk := by
  unfold State.perform
  dsimp only
  split
  · exact h
  · exact memOk_countEnds _ _ (show ((s.setGroup gk _).wcells _).memOk from memOk_wcells _ _ h)

theorem memOk_performN (n gk : Nat) : ∀ s : State, s.memOk → (s.performN gk n).memOk := by
  induction n with
  | zero => intro s h; exact h
  | succ n ih => intro s h; exact ih _ (memOk_perform s gk 0 h)

theorem memOk_performAll (s : State) (gk : Nat) (h : s.memOk) : (s.performAll gk).memOk := memOk_performN _ _ _ h

theorem memOk_copyPa (s : State) (src dst n : Nat) (h : s.memOk) : (s.copyPa src dst n).memOk := memOk_writeAs s s.focus _ h

/-- A read of a group performs its pending stores at most. -/
theorem memOk_readAs (s : State) (gk : Nat) (own : Access → Bool) (acq : Option Scope) (dep code : Nat) (l : List Loc) (h : s.memOk) :
    (s.readAs gk own acq dep code l).1.memOk := by
  unfold State.readAs
  dsimp only
  split
  · exact memOk_performAll s gk h
  · exact h

/-! ## What a write of bytes leaves unchanged -/

theorem wb_groups (s : State) (x : Loc) (b : Byte) : (s.wb x b).groups = s.groups := by
  unfold State.wb; split
  · split <;> rfl
  · rfl

theorem tqInit_groups (s t : State) (q : Nat) : (tqInit s t q).groups = t.groups := by unfold tqInit; split <;> rfl

theorem foldl_groups {α : Type} (f : State → α → State) (hf : ∀ s a, (f s a).groups = s.groups) (l : List α) :
    ∀ s : State, (l.foldl f s).groups = s.groups := by
  induction l with
  | nil => intro s; rfl
  | cons a r ih => intro s; exact (ih _).trans (hf s a)

theorem putCell_groups (n : Nat) (s : State) (c : Loc × Byte) : (s.putCell n c).groups = s.groups := by
  unfold State.putCell
  dsimp only
  split <;> exact wb_groups _ _ _

theorem putCells_groups (s : State) (cells : List (Loc × Byte)) : (s.putCells cells).groups = s.groups :=
  (foldl_groups (fun a q => tqInit s a q) (fun _ _ => tqInit_groups _ _ _) _ _).trans
    (show (cells.foldl (State.putCell (s.now + 1)) s).groups = s.groups from foldl_groups _ (fun _ _ => putCell_groups _ _ _) _ _)

/-- Writing bytes changes no group. -/
theorem wcells_groups (s : State) (cells : List (Loc × Byte)) : (s.wcells cells).groups = s.groups := putCells_groups s cells

/-- A byte of this module's memory that is written reads as written. -/
theorem rb_wb_same (s : State) (x : Loc) (b : Byte) (h : ∀ pa, x = .gpa pa → pa < 2 ^ 51) : (s.wb x b).rb x = b := by
  cases x with
  | gpa pa =>
    have hp := h pa rfl
    simp only [State.wb, State.rb, if_pos hp, read_write_same]
  | sp t o => simp [State.wb, State.rb, State.team, State.setTeam]

/-- Every other byte keeps its value. -/
theorem rb_wb_ne (s : State) {x y : Loc} (b : Byte) (h : ∀ pa, x = .gpa pa → pa < 2 ^ 51) (hn : y ≠ x) : (s.wb x b).rb y = s.rb y := by
  cases x with
  | gpa pa =>
    have hp := h pa rfl
    cases y with
    | gpa pb =>
      have : pb ≠ pa := fun e => hn (by rw [e])
      simp only [State.wb, hp, if_true, State.rb, State.peerKey]
      split
      · exact read_write_ne _ _ this
      · rfl
    | sp t o => simp only [State.wb, hp, if_true]; rfl
  | sp t o =>
    cases y with
    | gpa pb => rfl
    | sp u p =>
      by_cases hu : u = t
      · subst hu
        have : p ≠ o := fun e => hn (by rw [e])
        simp only [State.wb, State.rb, State.team, State.setTeam, tget_tput_same]
        exact read_write_ne _ _ this
      · simp only [State.wb, State.rb, State.team, State.setTeam]
        rw [tget_tput_ne _ _ _ hu]

theorem tqInit_rb (s t : State) (q : Nat) (x : Loc) : (tqInit s t q).rb x = t.rb x := by
  unfold tqInit
  split <;> cases x <;> rfl

theorem foldl_rb {α : Type} (f : State → α → State) (x : Loc) (hf : ∀ s a, (f s a).rb x = s.rb x) (l : List α) :
    ∀ s : State, (l.foldl f s).rb x = s.rb x := by
  induction l with
  | nil => intro s; rfl
  | cons a r ih => intro s; exact (ih _).trans (hf s a)

theorem putCell_rb (n : Nat) (s : State) (c : Loc × Byte) (x : Loc) : (s.putCell n c).rb x = (s.wb c.1 c.2).rb x := by
  unfold State.putCell
  dsimp only
  split
  · rfl
  · cases x <;> rfl

theorem rb_now (s : State) (n : Nat) (x : Loc) : ({ s with now := n } : State).rb x = s.rb x := by cases x <;> rfl

/-- After a write of bytes within this module, a byte that is none of them keeps its value. -/
theorem rb_wcells_out (s : State) (cells : List (Loc × Byte)) (x : Loc) (hc : ∀ c ∈ cells, ∀ pa, c.1 = .gpa pa → pa < 2 ^ 51)
    (hx : ∀ c ∈ cells, x ≠ c.1) : (s.wcells cells).rb x = s.rb x := by
  have key : ∀ (l : List (Loc × Byte)) (t : State), (∀ c ∈ l, ∀ pa, c.1 = .gpa pa → pa < 2 ^ 51) → (∀ c ∈ l, x ≠ c.1) →
      (l.foldl (State.putCell (s.now + 1)) t).rb x = t.rb x := by
    intro l
    induction l with
    | nil => intro t _ _; rfl
    | cons c r ih =>
      intro t h1 h2
      refine (ih _ (fun d hd => h1 d (List.mem_cons_of_mem _ hd)) fun d hd => h2 d (List.mem_cons_of_mem _ hd)).trans ?_
      rw [putCell_rb]
      exact rb_wb_ne t _ (h1 c (List.mem_cons_self ..)) (h2 c (List.mem_cons_self ..))
  have h1 : (s.wcells cells).rb x = (s.putCells cells).rb x := by cases x <;> rfl
  rw [h1]
  refine (foldl_rb (fun a q => tqInit s a q) x (fun _ _ => tqInit_rb _ _ _ _) _ _).trans ?_
  rw [rb_now]
  exact key cells s hc hx

/-- Performing every pending access changes no other group. -/
theorem performAll_group_ne (s : State) (gk : Nat) {k : Nat} (h : k ≠ gk) : (s.performAll gk).group k = s.group k := by
  have hend : ∀ (l : List SecEnd) (p c : Nat) (t : State), (l.foldl (fun a e => a.countEnd p c e.sec e.col) t).groups = t.groups := by
    intro l p c
    exact foldl_groups _ (fun s a => by unfold State.countEnd; dsimp only; split <;> rfl) l
  have hce : ∀ t : State, (t.countEnds gk).group k = t.group k := by
    intro t
    unfold State.group State.countEnds
    dsimp only
    rw [hend]
    exact group_setGroup_ne t _ h
  have hp : ∀ (t : State) (i : Nat), (t.perform gk i).group k = t.group k := by
    intro t i
    unfold State.perform
    dsimp only
    split
    · rfl
    · rw [hce]
      exact (congrArg (fun g => tget Group.empty g k) (wcells_groups _ _)).trans (group_setGroup_ne t _ h)
  have hN : ∀ (n : Nat) (t : State), (t.performN gk n).group k = t.group k := by
    intro n
    induction n with
    | zero => intro t; rfl
    | succ n ih => intro t; exact (ih _).trans (hp t 0)
  exact hN _ _

end Sys2Proof.Machine
end

