-- ==== Sys2Proof/Tests/Slice0.lean ====
section
/-! SUPPORT. The model's own tests: ill-formed terms that the checks refuse, words written out from the encodings of the spec, single
steps with results computed by hand from the rules, and for every obligation concrete states that meet its hypotheses, clause by clause. -/

open Sys2Proof Sys2Proof.Machine

namespace Sys2Proof.Tests

-- The kernel evaluations below run one after another: side by side they take more memory than they save time.
set_option Elab.async false

/-! ## Small states -/

/-- No guard, no park. -/
def H : Hdr := ⟨12, false, false⟩

/-- The user group of a loaded program whose first word is `w`, without the information record (the kernel then walks fewer bytes). -/
def usrWord (w : Nat) : State := { State.reset.loadUser w with mem := putWords [] (loadCells ++ [(loadPc, w)]) }

/-- The same, of an instruction. -/
def usr (i : Instr) : State := usrWord (encode i)

/-- The control group of a loaded program whose first word is an instruction, without the information record. -/
def ctl (i : Instr) : State := { State.reset.loadCtl (encode i) with mem := putWords [] [(2 ^ 16, encode i)] }

/-- A state whose group in focus holds values in scalar registers. -/
def sregs (l : List (Nat × W64)) (s : State) : State := s.setGrp { s.grp with sreg := l.foldl (fun t e => tset 0#64 t e.1 e.2) s.grp.sreg }

/-- A state whose group in focus is changed. -/
def grp (f : Group → Group) (s : State) : State := s.setGrp (f s.grp)

/-- A state whose path in focus is changed. -/
def pth (f : Path → Path) (s : State) : State := s.setPth (f s.pth)

/-- Whether a word issues, as a test that runs. -/
def goes (s : State) (i : Instr) : Bool := s.canIssue && s.tick.dynReason i == 0 && !s.grp.held s.fpath i && !s.tick.waits i

theorem issues_of {s : State} {i : Instr} (h : goes s i = true) : s.Issues i := by
  simp only [goes, Bool.and_eq_true, Bool.not_eq_true', beq_iff_eq] at h
  exact ⟨h.1.1.1, h.1.1.2, h.1.2, h.2⟩

theorem issues_all {f : Instr → State} {l : List Instr} (h : (l.all fun i => goes (f i) i) = true) : ∀ i ∈ l, (f i).Issues i :=
  fun i hi => issues_of (List.all_eq_true.mp h i hi)

/-- Whether a check answers locations, as a test that runs. -/
def okB (r : State × Checked) : Bool := match r.2 with | .ok _ => true | _ => false

theorem ok_of {r : State × Checked} (h : okB r = true) : ∃ u l, r = (u, .ok l) := by
  obtain ⟨u, c⟩ := r
  cases c with
  | ok l => exact ⟨u, l, rfl⟩
  | trap t => simp [okB] at h
  | stall a b => simp [okB] at h

theorem trap_of {r : State × Checked} {t : Trap} (h : r.2 = .trap t) : ∃ u, r = (u, .trap t) := ⟨r.1, by rw [← h]⟩

/-- The writes that placed the data of a state lie before everything: a read returns them alone (05 R142). -/
def old (s : State) : State := { s with hist := [], rels := [], now := 0 }

/-- A property of the next state of an outcome, as a test that runs. -/
def after (o : Host.Outcome State Fault Refusal) (p : State → Bool) : Bool := match o with | .next t => p t | _ => false

/-! ## Well-formedness -/

/-- Each check refuses an ill-formed term: an event, a number too large for its place, a reserved guard, a register outside its file, a value
outside its limits, two halves that write one register. -/
theorem test_wellformed_refuses : ¬ WellFormed .powerLoss ∧ ¬ WellFormed (.vbcast H 1 2 64) ∧ ¬ WellFormed (.vmov ⟨13, false, false⟩ 1 2)
    ∧ ¬ WellFormed (.vmov H 256 2) ∧ ¬ WellFormed (.sbfx false 1 2 60 5 false) ∧ ¬ WellFormed (.phdrop H 8)
    ∧ ¬ WellFormed (.pairedWord false ⟨.vadd, 12, 8, 9, 0⟩ ⟨.lds, 12, 8, 14, 2⟩) := by decide +kernel

/-- Well-formed ones at the same limits pass. -/
theorem test_wellformed_accepts : WellFormed (.vbcast H 1 2 63) ∧ WellFormed (.vmov H 255 2) ∧ WellFormed (.sbfx false 1 2 60 4 false)
    ∧ WellFormed (.phdrop H 7) ∧ WellFormed (.pairedWord false ⟨.sadd, 12, 3, 4, 0⟩ ⟨.vadd, 12, 5, 4, 0⟩) := by decide +kernel

/-! ## Decoding -/

/-- Words of every class written out field by field (02 R57: class in bits 59 to 61, opcode below; the entries' encodings). -/
theorem test_decode_classes : decode 0x080c030506000200 = .ok (.vadd H .w 3 5 (.reg 6))
    ∧ decode 0x044c0003007ffffb = .ok (.bnz false 3 (BitVec.ofInt 23 (-5)))
    ∧ decode 0x204c040600034a40 = .ok (.ldg H ⟨.w, false, .lane, .dev, .acq, 64⟩ 4 6)
    ∧ decode 0x2a0c080400000000 = .ok (.cpy H 8 4) ∧ decode 0x302c080900000000 = .ok (.enc H false false 8 9)
    ∧ decode 0x306c001008100001 = .ok (.smm H .e4m3 false 1 0 16 8) ∧ decode 0x2a8c213200000000 = .ok (.xsect H 33 50)
    ∧ decode 0x328c213200000000 = .ok (.kvwr H 33 50) ∧ decode 0x32ac213200000000 = .ok (.kvtrim H 33 50)
    ∧ decode 0x332c003000000000 = .ok (.smaxSoftmax H 0 48) ∧ decode 0x292c000000000000 = .ok (.rsb false)
    ∧ decode 0x296c240000000000 = .ok (.gsync false 36) ∧ decode 0x384c0a0405000000 = .ok (.dbgr H 10 4 5)
    ∧ decode 0x100c030506001000 = .ok (.fadd H false .rz 3 5 6) ∧ decode 0x180c030506000000 = .ok (.vperm H 3 5 6)
    ∧ decode 0x8803050607000200 = .ok (.vadd ⟨3, false, true⟩ .w 5 6 (.reg 7)) ∧ decode 0x392c000405000006 = .ok (.tlbinv H 2 true 4 5)
    ∧ decode 0x388c000400000000 = .ok (.rtiResume H 4) ∧ decode 0x386c070406000000 = .ok (.dbgw H 7 4 6) := by decide +kernel

/-- A paired word, and one whose halves write one register (02 R64, reason 8). -/
theorem test_decode_paired : decode 0x48604048_40c0c0e2 = .ok (.pairedWord false ⟨.vadd, 12, 8, 9, 0⟩ ⟨.lds, 12, 12, 14, 2⟩)
    ∧ (match decode 0x48604048_40c0c0d2 with | .bad 8 _ => true | _ => false) = true := by decide +kernel

/-! ## Witnesses: states that meet the hypotheses of the obligations -/

/-- The state `s` with lanes 0 and 1 alone active. -/
def two (s : State) : State := pth (fun p => { p with mask := 3#64 }) s

/-- A loaded user program's word, lanes 0 and 1 active. -/
def u2 (i : Instr) : State := two (usr i)

/-- An answer of an access, as a test that runs: its locations hold a number. -/
def fetchB (r : State × Except AFail (List Loc)) (gk w : Nat) : Bool :=
  match r.2 with | .ok ls => leNat (ls.map fun l => r.1.gb gk l) == w | _ => false

theorem fetch_of {r : State × Except AFail (List Loc)} {gk w : Nat} (h : fetchB r gk w = true) :
    ∃ u ls, r = (u, .ok ls) ∧ leNat (ls.map fun l => u.gb gk l) = w := by
  obtain ⟨u, c⟩ := r
  cases c with
  | ok l => exact ⟨u, l, rfl, by simpa [fetchB] using h⟩
  | error e => simp [fetchB] at h

/-- StepRunsDecodedWord: nothing else is to happen, a group is chosen, its path is the one that issues, and its 8 bytes are a word. -/
theorem wit_StepRunsDecodedWord : let s := usr (.nop false)
    s.agenda = [] ∧ s.todo = [] ∧ s.chosen = [0] ∧ ({ s with chosen := [] } : State).choosePath 0 = some 0
      ∧ (∃ s2 ls, (({ s with chosen := [] } : State).at_ 0 0 |>.setGrp { s.group 0 with lastPath := 0, idle := 0 }).gaccess 0
          (((s.group 0).path 0).pc.toNat) 8 .fetch = (s2, .ok ls) ∧ leNat (ls.map fun l => s2.gb 0 l) = encode (.nop false))
      ∧ decode (encode (.nop false)) = .ok (.nop false) :=
  ⟨by decide +kernel, by decide +kernel, by decide +kernel, by decide +kernel, fetch_of (by decide +kernel), by decide +kernel⟩

/-- StepRunsDecodedWord, the order of a step: each case occurs. -/
theorem wit_StepRunsDecodedWord_order : ({ State.reset with agenda := [.powerLimit] } : State).agenda = .powerLimit :: []
    ∧ (let s := pth (fun p => { p with st := .waiting }) (usr (.nop false))
       s.agenda = [] ∧ s.todo = [] ∧ s.chosen = [0] ∧ ({ s with chosen := [] } : State).choosePath 0 = none)
    ∧ State.reset.agenda = [] ∧ State.reset.todo = [] ∧ State.reset.chosen = [] := by decide +kernel

/-- StepRunsDecodedWord: an event that is due stands in `todo`. -/
theorem wit_StepRunsDecodedWord_due : (match step { usr (.nop false) with chosen := [] } with
    | .next t => t.agenda == [] && !t.todo.isEmpty | _ => false) = true := by decide +kernel

/-- MemoryStaysCanonical: reset memory is canonical, and a step leaves it. -/
theorem wit_MemoryStaysCanonical : Memory.wf (usr (.nop false)).mem = true ∧ after (step (usr (.nop false))) (fun t => Memory.wf t.mem) = true := by
  decide +kernel

/-- RoundTripClasses0To3, RoundTripClasses4To7, RoundTripPaired, DecodedWordsAreWellFormed: a well-formed instruction of every class. -/
theorem wit_RoundTrips : ∀ x ∈ [(0, Instr.sadd true 127 3 (.imm 5)), (1, .vadd H .b 255 3 (.imm 0x80)), (1, .vmadSweep H 3 4 5 64), (2, .fadd H true .rd 1 2 3),
      (3, .vballot H 3 11), (4, .ldg H ⟨.d, false, .lane, .sys, .acq, 8⟩ 4 6), (5, .phdrop H 7), (6, .tzero H 15), (7, .rtiAbort H 127)],
    WellFormed x.2 ∧ bit (encode x.2) 62 = false ∧ encode x.2 / 2 ^ 59 % 8 = x.1 ∧ encode x.2 < 2 ^ 64 ∧ decode (encode x.2) = .ok x.2 := by decide +kernel

theorem wit_RoundTripPaired : WellFormed (.pairedWord true ⟨.vadd, 12, 8, 9, 0⟩ ⟨.lds, 0, 12, 14, 15⟩) := by decide +kernel

/-- HeldWordChangesNothing: a path that waits; a write of a register whose result is outstanding; a word that waits at its own entry. -/
theorem wit_HeldWordChangesNothing :
    (pth (fun p => { p with st := .waiting }) (usr (.nop false))).canIssue = false
    ∧ (let i : Instr := .sadd false 3 4 (.reg 5)
       let s := pth (fun p => { p with pend := [⟨.ld, .s 3 5, 0, 0, [], 0⟩] }) (usr i)
       i.isEvent = false ∧ s.tick.dynReason i = 0 ∧ s.grp.held s.fpath i = true)
    ∧ (let i : Instr := .spop H 4 1
       let s := grp (fun g => { g with streams := tset Stream.init g.streams 1 { Stream.init with cfg := true, desc := leBytes 64 (6 + 100 * 2 ^ 192) } }) (usr i)
       s.tick.dynReason i = 0 ∧ s.tick.waits i = true) := by decide +kernel

/-- IllegalWordTraps, and WordsNotAvailable with SystemTraps: a register beyond the allocation, a privileged word in a user group. -/
theorem wit_IllegalWordTraps : (let i : Instr := .vmov H 200 2
      let s := grp (fun g => { g with nv := 64 }) (usr i)
      i.isEvent = false ∧ s.canIssue = true ∧ s.tick.dynReason i ≠ 0 ∧ s.grp.ctl = false ∧ s.grp.sweeps = false)
    ∧ isPrivileged (.csrr H 3 0) = true ∧ (usr (.csrr H 3 0)).grp.ctl = false ∧ (ctl (.csrr H 3 0)).grp.ctl = true := by decide +kernel

/-- SystemTraps: a user group and a control group exist, and each cause has a trap. -/
theorem wit_SystemTraps : ((usr (.nop false)).group 0).ctl = false ∧ ((ctl (.nop false)).group 64).ctl = true
    ∧ ({ cause := 3, reason := 2 } : Trap).cause ≠ 2 ∧ ({ cause := 3, reason := 2 } : Trap).adv = false
    ∧ ({ cause := 2, reason := 1, pages := [(4096, 1, 0)] } : Trap).adv = false := by decide +kernel

/-- A user group with a handler. -/
def hpc (i : Instr) : State := grp (fun g => { g with hpc := 0x10000100#64 }) (u2 i)

/-- UserTraps: with a handler, without one, and inside one. -/
theorem wit_UserTraps : (let s := hpc (.nop false); s.grp.hpc ≠ 0 ∧ s.grp.uhc = 0)
    ∧ (let s := usr (.nop false); s.grp.ctl = false ∧ s.grp.hpc = 0)
    ∧ (let s := grp (fun g => { g with uhc := 2 }) (hpc (.nop false)); s.grp.ctl = false ∧ s.grp.uhc ≠ 0) := by decide +kernel

/-- A mask that is not empty. -/
theorem em_of {m : Mask} (h : (m != 0#64) = true) : m ≠ 0#64 := by simpa using h

/-- A group that enables no flag: every premise that no enabled flag is raised holds. -/
theorem quiet_of {g : Group} (h : g.fps = 0#64) (f : FFlags) : g.enabled f = 0#6 := by
  have e : bits 0 8 6 = 0 := rfl
  simp [Group.enabled, h, e]

theorem wit_quiet (i : Instr) : (u2 i).grp.fps = 0#64 := rfl

/-- ScalarArithmetic, ScalarMoves, SpecialRegisters: the words issue, with the last scalar register, a register and an immediate source. -/
theorem wit_Scalar : ∀ i ∈ [Instr.sadd true 127 3 (.reg 4), .ssub false 126 3 (.imm 0x40000), .smul false 5 3 (.reg 4), .smulh false 5 3 (.reg 4),
      .smulhu false 5 3 (.reg 4), .sand false 5 3 (.reg 4), .sor false 5 3 (.reg 4), .sxor false 5 3 (.reg 4), .sandn false 5 3 (.reg 4),
      .sshl false 5 3 (.imm 64), .sshr false 5 3 (.reg 4), .ssra false 5 3 (.reg 4), .smin false 5 3 (.reg 4), .smax false 5 3 (.reg 4),
      .sminu false 5 3 (.reg 4), .smaxu false 5 3 (.reg 4), .sset false 5 3 4 .lt, .ssel false 5 3 4 6, .smov false 5 3, .sli false 5 0x8000000000,
      .slih false 5 7, .sbfx false 5 3 0 64 true, .sclz false 5 3, .spopc false 5 3, .srd false 5 10, .srd false 5 8, .srdVector false 5 0,
      .srdVector false 5 8, .swr false 10 3], (usr i).Issues i := issues_all (by decide +kernel)

/-- SweepControl: `swc` issues with a good value and with a bad one. -/
theorem wit_SweepControl : ∀ x ∈ [((0x0b00000400080004 : Nat), true), (0x0000000000000002, false), (0x0c00000000000000, false),
      (0x000c000000000000, false), (0x0080000000000000, false)],
    goes (sregs [(3, BitVec.ofNat 64 x.1)] (usr (.swc false 3))) (.swc false 3) = true
    ∧ (let v := ((sregs [(3, BitVec.ofNat 64 x.1)] (usr (.swc false 3))).tick.rs 3).toNat
       decide (bits v 55 1 = 0 ∧ bits v 61 3 = 0 ∧ bits v 50 2 ≠ 3 ∧ bits v 56 4 < 12 ∧ bits v 0 16 % 4 = 0 ∧ bits v 16 16 % 4 = 0 ∧ bits v 32 16 % 4 = 0)
         = x.2) := by decide +kernel

/-- BranchesAndCalls. -/
theorem wit_Branches : ∀ i ∈ [Instr.br true 0x3fffff, .brIndirect false 3, .bz false 3 0x400000, .bnz false 3 1, .bany false 11 1, .ball false 0 1, .ret false 3,
      .yield false, .nop true, .call false 127 5, .callIndirect false 3 3], (usr i).Issues i := issues_all (by decide +kernel)

/-- A state whose other path is as given, the path in focus having lanes 0 to 31. -/
def other (p : Path) (s : State) : State := grp (fun g => { g with p1 := p }) (pth (fun p => { p with mask := 0xffffffff#64, owned := 0xffffffff#64 }) s)

/-- A path that runs, and one that is parked. -/
def runs : Path := { Path.idle with st := .ready, mask := 0xffffffff00000000#64, owned := 0xffffffff00000000#64, pc := 0x10000040#64 }
def parked : Path := { runs with st := .parked, jpc := (usr (.join false)).pc }

/-- A state whose predicate register 3 holds a value. -/
def p3 (m : Mask) (s : State) : State := grp (fun g => { g with preg := tset 0#64 g.preg 3 m }) s

/-- A stack of a path, with this many entries. -/
def stk (n : Nat) (s : State) : State := pth (fun p => { p with stack := List.replicate n ⟨0x10000080#64, 0xf#64, 0xff#64, none, false⟩ }) s

/-- DivergenceAndJoin, `brd`: every lane branches; none; some with the other slot free; with it taken; in the control group; with a full stack. -/
theorem wit_Divergence : let i : Instr := .brd false 3 (-7)
    let g (s : State) : Bool × Bool × Bool := (goes s i, s.am &&& ~~~(s.tick.rpm 3) == 0, s.am &&& s.tick.rpm 3 == 0)
    g (p3 (-1) (usr i)) = (true, true, false) ∧ g (p3 0 (usr i)) = (true, false, true)
    ∧ g (p3 5 (usr i)) = (true, false, false) ∧ ((p3 5 (usr i)).grp.path 1).st = .free ∧ (usr i).grp.ctl = false
    ∧ g (stk 7 (other runs (p3 5 (usr i)))) = (true, false, false) ∧ ((other runs (usr i)).grp.path 1).st ≠ .free
    ∧ (stk 7 (other runs (usr i))).pth.stack.length < 8
    ∧ g (p3 5 (ctl i)) = (true, false, false) ∧ (ctl i).grp.ctl = true
    ∧ g (stk 8 (other runs (p3 5 (usr i)))) = (true, false, false) ∧ 8 ≤ (stk 8 (usr i)).pth.stack.length := by decide +kernel

/-- DivergenceAndJoin, `join`: a first and a second arrival at an entry; an empty stack alone, with a parked path, with a running path. -/
theorem wit_Join : let i : Instr := .join false
    let top (e : StackEnt) (s : State) : State := pth (fun p => { p with stack := [e] }) s
    goes (top ⟨0x10000080#64, 0xf#64, 0xff#64, none, false⟩ (usr i)) i = true
    ∧ goes (top ⟨0x10000080#64, 0xf#64, 0xff#64, none, true⟩ (usr i)) i = true
    ∧ goes (top ⟨0x10000080#64, 0xf#64, 0xff#64, some (usr i).pc, true⟩ (usr i)) i = true
    ∧ goes (usr i) i = true ∧ (usr i).pth.stack = [] ∧ ((usr i).grp.path 1).st = .free
    ∧ goes (other parked (usr i)) i = true ∧ ((other parked (usr i)).grp.path 1).st = .parked ∧ (other parked (usr i)).pc = ((other parked (usr i)).grp.path 1).jpc
    ∧ goes (other runs (usr i)) i = true ∧ ((other runs (usr i)).grp.path 1).st = .ready := by decide +kernel

/-- ExitAndReturn. -/
theorem wit_ExitAndReturn :
    goes (grp (fun g => { g with rsd := 1 }) (usr (.exit false))) (.exit false) = true
    ∧ goes (other runs (usr (.exit false))) (.exit false) = true ∧ goes (other parked (usr (.exit false))) (.exit false) = true
    ∧ (let s := other runs (usr (.exit false)); s.grp.rsd = 0 ∧ s.grp.uhc = 0 ∧ s.pth.stack = [] ∧ (s.grp.path (1 - s.fpath)).st ≠ .free)
    ∧ goes (hpc (.brk false 7)) (.brk false 7) = true ∧ (hpc (.brk false 7)).grp.hpc ≠ 0 ∧ (hpc (.brk false 7)).grp.uhc = 0
    ∧ goes (grp (fun g => { g with uhc := 4 }) (hpc (.tret false))) (.tret false) = true ∧ goes (usr (.tret false)) (.tret false) = true
    ∧ (usr (.tret false)).grp.uhc = 0 := by decide +kernel

/-- VectorInteger, VectorWholeWords, ComparisonsAndPredicates: the words issue; with `wit_quiet`, no flag is enabled. -/
theorem wit_Vector : ∀ i ∈ [Instr.vadd H .b 255 4 (.reg 5), .vsub H .w 3 4 (.imm 0x80), .vmul H .w 3 4 (.reg 5), .vmulh H .h 3 4 (.reg 5),
      .vmulhu H .b 3 4 (.reg 5), .vshl H .w 3 4 (.reg 5), .vshr H .b 3 4 (.imm 255), .vsra H .h 3 4 (.reg 5), .vmin H .w 3 4 (.reg 5), .vmax H .w 3 4 (.reg 5),
      .vminu H .w 3 4 (.reg 5), .vmaxu H .w 3 4 (.reg 5), .vclz H .b 3 4, .vpopc H .w 3 4, .vbrev H .h 3 4, .vmad H 3 4 5 6, .vand H 3 4 (.reg 5),
      .vor H 3 4 (.reg 5), .vxor H 3 4 (.reg 5), .vandn H 3 4 (.reg 5), .vsel H 3 4 5 11, .vbfx H true 3 4 5, .vbfi H 3 4 5, .vfsh H 3 4 5 6, .vmov H 3 4,
      .vli H 3 0xffffffff, .vadds H .b true 3 4 (.reg 5), .vsubs H .h false 3 4 (.reg 5), .vabs H .w true 3 4, .vdp4 H true true 3 4 5 6,
      .vcmp H 11 4 5 .geu, .fcmp H 0 4 5 .un, .pand H 3 4 5, .por H 3 4 5, .pxor H 3 4 5, .pnot H 3 4, .pmov H 3 4, .pset H 3 4, .psetImm H 3 true],
    (u2 i).Issues i := issues_all (by decide +kernel)

/-- EnabledFlagTraps: each of the three words raises an enabled flag in the lanes of one path, and there is a handler. -/
theorem wit_EnabledFlagTraps : ∀ x ∈ [(Instr.fadd H false .rne 3 4 4, 0x7f7fffff#32), (.vadds H .w true 3 4 (.reg 4), 0x7fffffff#32),
      (.q8mul H false .rne true 3 4 4, 0x7b7b7b7b#32)],
    let s := grp (fun g => { g with fps := 0x3f00#64, vreg := tset 0#32 (tset 0#32 g.vreg (4 * 64) x.2) (4 * 64 + 1) x.2 }) (hpc x.1)
    goes s x.1 = true ∧ s.grp.hpc ≠ 0 ∧ s.grp.uhc = 0
      ∧ (match exec x.1 s with | .next t => tget 0#64 t.grp.sreg 121 == 3#64 && (t.grp.fps != s.grp.fps) | _ => false) = true := by decide +kernel

/-- FloatArithmetic, PackedAndTranscendental, CrossLane. -/
theorem wit_Float : ∀ i ∈ [Instr.fadd H true .rne 3 4 5, .fsub H false .rz 3 4 5, .fmul H false .ru 3 4 5, .ffma H true .rd 3 4 5 6, .fmin H 3 4 5, .fmax H 3 4 5,
      .fcvt H true .rne .bf16 .f32 3 4, .fcvt H false .rz .e4m3 .f32 3 4, .fcvt H false .ru .i8 .f32 3 4, .fpk H true .rne .bf16 1 3 4 5, .funpk H .e5m2 3 3 4,
      .hadd2 H true .rne 3 4 5, .hmul2 H false .rne 3 4 5, .hfma2 H false .rne 3 4 5 6, .q8add H true .rne true 3 4 5, .q8mul H true .rd false 3 4 5,
      .frcp H 3 4, .frsq H 3 4, .fex2 H 3 4, .flg2 H 3 4, .vhad H true 64 32, .vhad H false 64 32, .vperm H 3 4 5, .vpush H 3 4 5, .vshfx H 3 4 63,
      .vshfu H 3 4 0, .vshfd H 3 4 63, .vbcast H 3 4 63, .vbcastScalar H 3 4, .vballot H 3 4, .vfirst H 3 4, .vred H 3 4 .fadd, .vredVector H 3 4 .min,
      .vscan H 3 4 .add, .vscanExcl H 3 4 .fmax], (u2 i).Issues i := issues_all (by decide +kernel)

/-- The X subfields of an access. -/
def mm (wd : Width) (am : AMode) (o : Order) : Mem := ⟨wd, true, am, .gp, o, 0⟩

/-- s4, and v4 with v5 in lanes 0 and 1, hold addresses. -/
def at4 (a b : Nat) (s : State) : State :=
  grp (fun g => { g with sreg := tset 0#64 g.sreg 4 (BitVec.ofNat 64 a),
                         vreg := tset 0#32 (tset 0#32 (tset 0#32 (tset 0#32 g.vreg 256 (BitVec.ofNat 32 a)) 320 (BitVec.ofNat 32 (a / 2 ^ 32)))
                           257 (BitVec.ofNat 32 b)) 321 (BitVec.ofNat 32 (b / 2 ^ 32)) }) s

/-- The check of a load or store of the witnesses. -/
def chk (s : State) (glob : Bool) (k : AKind) (m : Mem) : State × Checked :=
  s.tick.check s.focus glob false k (s.tick.accs glob m.am 4 (m.off.signExtend 64) (wbytes m.wd) (s.tick.em H))

/-- LoadsAndStores: loads and stores of both spaces issue and pass their checks, in every address mode; no byte that they read is poisoned. -/
theorem wit_LoadsAndStores : ∀ x ∈ [(Instr.lds H (mm .w .lane .rlx) 6 4, false, AKind.read, mm .w .lane .rlx), (.ldg H (mm .d .contig .acq) 6 4, true, .read, mm .d .contig .acq),
      (.ldc H (mm .b .uniform .rlx) 6 4, true, .read, mm .b .uniform .rlx), (.ldr H (mm .w .uniform .rlx) 6 4, true, .read, mm .w .uniform .rlx),
      (.sts H (mm .h .lane .rlx) 6 4, false, .write, mm .h .lane .rlx), (.stg H (mm .d .lane .rel) 6 4, true, .write, mm .d .lane .rel),
      (.stc H (mm .w .contig .rlx) 6 4, true, .write, mm .w .contig .rlx)],
    let s := at4 (if x.2.1 then 2 ^ 28 else 512) (if x.2.1 then 2 ^ 28 + 9 else 521) (u2 x.1)
    goes s x.1 = true ∧ okB (chk s x.2.1 x.2.2.1 x.2.2.2) = true ∧ s.poison = [] ∧ s.grp.lostRemote = none := by decide +kernel

/-- LoadsAndStores: a check that ends in a trap: a scratchpad address at its limit, a virtual address that no page maps. -/
theorem wit_LoadsAndStores_trap : ∀ x ∈ [(Instr.lds H (mm .w .lane .rlx) 6 4, false, AKind.read, mm .w .lane .rlx, 2 ^ 19 - 3),
      (.ldg H (mm .w .lane .rlx) 6 4, true, .read, mm .w .lane .rlx, 2 ^ 30 - 3), (.stg H (mm .w .lane .rlx) 6 4, true, .write, mm .w .lane .rlx, 2 ^ 57 - 1)],
    let s := at4 (if x.2.1 then 2 ^ 28 else 512) x.2.2.2.2 (u2 x.1)
    goes s x.1 = true ∧ (match (chk s x.2.1 x.2.2.1 x.2.2.2.1).2 with | .trap t => t.lane == 1 | _ => false) = true := by decide +kernel

/-- LoadsAndStores, `ldr`: a line that the core holds, and one that it does not. -/
theorem wit_ReadOnlyLine : let s : State := (usr (.nop false)).setCore 0 { Core.init with ro := [⟨5, 0, []⟩] }
    (s.core s.grp.core).ro.find? (fun e => e.line == 640 / 128) = some ⟨640 / 128, 0, []⟩ ∧ (s.core s.grp.core).ro.find? (fun e => e.line == 768 / 128) = none := by
  decide +kernel

/-- A group with two pending stores. -/
def pend2 (rel : Bool) : State :=
  ((usr (.nop false)).pushStore 1#64 [(.gpa 0x2000000, 3#8)]).pushStores [⟨rel, if rel then [.dev] else [], 2#64, [(.gpa 0x2000001, 5#8)]⟩]

/-- AccessPerformed: the later store may be performed before the earlier one; a release may not. -/
theorem wit_AccessPerformed : (tfind? (pend2 false).groups 0).isSome = true ∧ mayPerform ((pend2 false).group 0).sbuf 1 = true
    ∧ ((pend2 false).group 0).sbuf[1]? = some ⟨false, [], 2#64, [(.gpa 0x2000001, 5#8)]⟩
    ∧ (((pend2 true).group 0).sbuf[1]?.map fun a => a.rel) = some true ∧ mayPerform ((pend2 true).group 0).sbuf 1 = false
    ∧ (((pend2 true).perform 0 0).group 0).sbuf.map (·.scps) = [[.dev]] ∧ mayPerform (((pend2 true).perform 0 0).group 0).sbuf 0 = true := by decide +kernel

/-- Atomics: each form issues and passes its check, with two lanes at one address. -/
theorem wit_Atomics : ∀ x ∈ [(Instr.atom H ⟨.w, .lane, .dev, .rlx⟩ .add 6 4 8, true, Width.w), (.atom H ⟨.d, .lane, .sys, .ar⟩ .cas 6 4 8, true, .d),
      (.atoms H ⟨.w, .lane, .gp, .ar⟩ .exch 6 4 8, false, .w), (.red H ⟨.w, .lane, .dev, .rlx⟩ .fadd 4 8, true, .w)],
    let s := at4 (if x.2.1 then 2 ^ 28 else 512) (if x.2.1 then 2 ^ 28 else 512) (u2 x.1)
    goes s x.1 = true ∧ s.grp.lostRemote = none
      ∧ okB (s.tick.check s.focus x.2.1 true .rmw (s.tick.accs x.2.1 .lane 4 0 (wbytes x.2.2) (s.tick.em H))) = true := by decide +kernel

/-- FencesAndPrefetch. -/
theorem wit_Fences : ∀ i ∈ [Instr.fence false .sys .ar, .fence false .gp .rel, .fenceAsync false, .wcnt false .ld 63, .pf H .w .lane true 0 4, .rinv false .tm],
    (u2 i).Issues i := issues_all (by decide +kernel)

/-- Registers s4 and s5 hold two values. -/
def s45 (a b : W64) (s : State) : State := sregs [(4, a), (5, b)] s

/-- A handle, where it is found: the check of a phaser word. -/
def found (s : State) (hd : W64) (k : AKind) : Bool :=
  s.tick.em H != 0#64 && handleReason hd == none
    && (match (s.tick.check s.focus (!hd.getLsbD 63) true k [⟨0, bits hd.toNat 0 57, 32⟩]).2 with | .ok [(_, .gpa _ :: _)] => true | _ => false)

theorem found_of {s : State} {hd : W64} {k : AKind} (h : found s hd k = true) : s.tick.em H ≠ 0#64 ∧ handleReason hd = none
    ∧ ∃ u acc x r, s.tick.check s.focus (!hd.getLsbD 63) true k [⟨0, bits hd.toNat 0 57, 32⟩] = (u, .ok [(acc, x :: r)]) ∧ ∃ pa, x = .gpa pa := by
  simp only [found, Bool.and_eq_true, bne_iff_ne, beq_iff_eq, ne_eq] at h
  refine ⟨h.1.1, h.1.2, ?_⟩
  have h2 := h.2
  split at h2
  · rename_i acc pa r e
    exact ⟨_, acc, .gpa pa, r, Prod.ext rfl e, pa, rfl⟩
  · simp at h2

/-- A group whose registration slot 1 is as given, s4 the handle 0x10000100, and whose phaser has the given fields. -/
def ph (i : Instr) (e : RegSlot) (p : Ph) : State :=
  ((grp (fun g => g.setSlot 1 e) (s45 0x10000100 65535 (u2 i))).setPhaser (.gpa 0x10000100) p)

/-- The phaser of a token of slot 1. -/
def tok (n : Nat) (s : State) : State := s45 (phToken n 1) 0 s

def hnd : W64 := 0x10000100#64
def p0 : Ph := ⟨5, 4, 0, 0, 2, 3, [1, 0, 0, 0, 0, 0, 7]⟩
def free1 : RegSlot := ⟨0, .sig, true, false, 0⟩
def reg1 (m : PhMode) (mp : Nat) : RegSlot := ⟨hnd, m, false, true, mp⟩

/-- PhaserWords, the arithmetic: an arrival, a flip, arrivals one and seven phases ahead, one that is held, one that is too late. -/
theorem wit_PhaserArithmetic : let ok (p : Ph) (mp : Nat) : Bool := decide (p.phase < 2 ^ 32 ∧ mp < 2 ^ 32 ∧ p.nsig < 2 ^ 16 ∧ p.count < 2 ^ 48 ∧ p.ah.length = 7
      ∧ p.nadd = 0 ∧ p.ndrop = 0)
    ok p0 5 = true ∧ p0.ahead 5 = 0 ∧ 1 < p0.count
    ∧ (let p := { p0 with phase := 2 ^ 32 - 1, count := 1 }; ok p (2 ^ 32 - 1) = true ∧ p.ahead (2 ^ 32 - 1) = 0 ∧ p.count = 1 ∧ p.ah.getD 0 0 < p.nsig)
    ∧ p0.ahead 6 = 1 ∧ p0.ahead 12 = 7 ∧ p0.limit 13 = true ∧ p0.limit 4 = false := by decide +kernel

/-- PhaserWords: every case of every word. -/
theorem wit_PhaserWords :
    goes (ph (.phinit H 4 5) free1 p0) (.phinit H 4 5) = true ∧ found (ph (.phinit H 4 5) free1 p0) hnd .write = true
      ∧ ((ph (.phinit H 4 5) free1 p0).tick.rs 5).toNat ≤ 65535
    ∧ (∀ x ∈ [(PhMode.wait, p0), (.sigwait, p0), (.sig, { p0 with nfree := 0 })], let i : Instr := .phreg H 1 4 x.1
        goes (ph i free1 x.2) i = true ∧ found (ph i free1 x.2) hnd .rmw = true)
    ∧ goes (ph (.phreg H 1 4 .sig) (reg1 .sig 5) p0) (.phreg H 1 4 .sig) = true
    ∧ (∀ x ∈ [(Instr.phdrop H 1, PhMode.wait, 0), (.phdrop H 1, .sig, 5), (.pharr H .gp 6 1, .wait, 0), (.pharr H .gp 6 1, .sigwait, 5), (.pharr H .gp 6 1, .sigwait, 13),
          (.pharw H .gp 127 1, .sigwait, 5), (.pharw H .gp 6 1, .sig, 12)],
        goes (ph x.1 (reg1 x.2.1 x.2.2) p0) x.1 = true ∧ found (ph x.1 (reg1 x.2.1 x.2.2) p0) hnd .rmw = true
          ∧ (ph x.1 (reg1 x.2.1 x.2.2) p0).grp.lostRemote = none)
    ∧ (∀ n ∈ [4, 5], let s := tok n (ph (.phwait H .gp 4) { reg1 .wait 0 with free := true } p0)
        goes s (.phwait H .gp 4) = true ∧ found s hnd .read = true ∧ (s.tick.rs 4).getLsbD 63 = true ∧ bits (s.tick.rs 4).toNat 35 28 = 0
          ∧ p0.ended (s.tick.rs 4).toNat = decide (n = 4)) := by decide +kernel

/-- Core 0's gather engine slot 3 with a status, its token of sequence 7. -/
def slot3 (st : Nat) (s : State) : State :=
  s.setEng (slotKey 0 1 3) { s.eng (slotKey 0 1 3) with seq := 7, used := true, held := true, status := st }

/-- TokenWords: a token that runs, one that ended, one whose slot went on, one that was never given. -/
theorem wit_TokenWords : ∀ i ∈ [Instr.ttest H .gp 6 4, .twait H .cl 127 4, .twaitY H .gp 6 4 0x1fff],
    (∀ st ∈ [0, 1, 4], let s := s45 (mkToken 0 1 3 7) 0 (slot3 st (u2 i))
      (goes s i = true ∨ (st = 0 ∧ i = .twait H .cl 127 4)) ∧ s.tick.em H ≠ 0#64 ∧ s.tick.token (s.tick.rs 4) = some (slotKey 0 1 3, true)
        ∧ s.tick.tokenStatus (slotKey 0 1 3) true = st)
    ∧ (let s := s45 (mkToken 0 1 3 6) 0 (slot3 0 (u2 i)); goes s i = true ∧ s.tick.token (s.tick.rs 4) = some (slotKey 0 1 3, false))
    ∧ (let s := s45 (mkToken 0 1 3 8) 0 (slot3 0 (u2 i)); goes s i = true ∧ s.tick.token (s.tick.rs 4) = none) := by decide +kernel

/-- A change of partition 0. -/
def pt (f : Part → Part) (s : State) : State := s.setPart 0 (f (s.part 0))

/-- A pool of kind 1 in entry 3 of partition 0's table: 100 blocks of 64 bytes at 0x11000000. -/
def pool3 (s : State) : State :=
  ((((((pt (fun p => { p with pta := 0x20000000, npool := 8, dfqc := 16 }) s).wnum 0x200000c0 8 1).wnum 0x200000c8 8 0x11000000).wnum 0x200000d0 4 100).wnum
    0x200000d4 4 64).wnum 0x200000d8 8 0x12000000)

/-- SectionsAndGrace: the words at section depths 0, 1, 2 and 15; the sweeps. -/
theorem wit_Sections : (let d (n : Nat) (i : Instr) : Bool := goes (grp (fun g => { g with rsd := n }) (usr i)) i
      d 0 (.rsb false) = true ∧ d 14 (.rsb false) = true ∧ d 15 (.rsb false) = true ∧ d 0 (.rse false) = true ∧ d 1 (.rse false) = true ∧ d 2 (.rse false) = true
        ∧ d 0 (.gsync false 6) = true ∧ d 1 (.gsync false 6) = true)
    ∧ (let s := usr (.rse false); s.grp.sbuf = [] ∧ s.grp.ends = [] ∧ s.secCore s.grp.sec = none)
    ∧ (let s := s45 0x11000040 0x50003 (pool3 (u2 (.dfree H 4 5))); goes s (.dfree H 4 5) = true ∧ s.tick.em H ≠ 0#64
        ∧ s.tick.dfreeReason (s.tick.rs 4) (s.tick.rs 5) = 0 ∧ (s.part s.grp.part).dfqFull = false) := by decide +kernel

theorem wit_Grace : let s := usr (.nop false)
    let st (s : State) : Part × Bool :=
      let r := (s.setPart 0 { s.part 0 with gtick := 0 }).readPcb 0
      let x := r.part 0
      (x, x.drain && (r.partCores x).all (fun c => (r.core c).colour == x.cc) && r.openCount 0 x.old == 0)
    let old (d pe : Bool) (n : Nat) : State := pt (fun p => { p with gtick := 64, drain := d, pend := pe, cc := false, old := true, oc := tset 0 p.oc 1 n }) s
    (tfind? s.parts 0).isSome = true ∧ (s.part 0).gtick < (s.part 0).gri
      ∧ (s.part 0).gri ≤ ((old true false 1).part 0).gtick ∧ (st (old true false 1)).1.drain = true ∧ (st (old true false 1)).2 = false
      ∧ (st (old true false 0)).2 = true ∧ (st (old true false 0)).1.dfq = [] ∧ (st (old true false 0)).1.pend = false
      ∧ (st (old false true 0)).1.drain = false ∧ (st (old false true 0)).1.pend = true ∧ (st (old false true 0)).1.dfq = []
      ∧ (tfind? s.cores 0).isSome = true ∧ (s.die (dieOf 0)).part = some 0 := by decide +kernel

/-- Tile queue 5 of a partition, four entries at 0x13000040. -/
def tq5 (part : Nat) (x : TQueue) (i : Instr) : State :=
  s45 5 0 ((((u2 i).wnum (2 ^ 20 + 320) 8 (part + 2 ^ 8 + 4 * 2 ^ 16)).wnum (2 ^ 20 + 328) 8 0x13000040).setTq 5 x)

/-- TileQueueWords: a queue with room, a full one, an empty one with and without a waiting pop, a closed one, another partition's. -/
theorem wit_TileQueueWords : (∀ i ∈ [Instr.tqpush H .cl 6 4 8 9, .tqpop H .cl 6 4 9, .tqclose H .cl 4, .tqcloseOpen H .cl 4],
      ∀ x ∈ [TQueue.mk true false 3 5 [] [] none, ⟨true, false, 3, 7, [], [], none⟩, ⟨true, false, 3, 3, [], [], none⟩, ⟨true, false, 3, 3, [⟨0, 0, 0, 1⟩], [], none⟩, ⟨true, true, 3, 3, [], [], none⟩],
        let s := tq5 0 x i
        goes s i = true ∧ s.tick.em H ≠ 0#64 ∧ s.grp.lostRemote = none ∧ s.tick.ownQueue (s.tick.rs 4) = some (4, 0x13000040) ∧ s.tick.tq 5 = x)
    ∧ (let i : Instr := .tqpush H .cl 6 4 8 9
       goes (tq5 1 ⟨true, false, 3, 5, [], [], none⟩ i) i = true ∧ (tq5 1 ⟨true, false, 3, 5, [], [], none⟩ i).tick.ownQueue 5 = none) := by decide +kernel

/-- CommandWords: the block at 512 of the team's allocation passes its checks, slot 0 is free; the last block of the allocation passes too. -/
theorem wit_CommandWords : ∀ x ∈ [(Instr.cpy H 6 4, 0), (.cpym H 6 4, 0), (.gath H 6 4, 1), (.scat H 6 4, 1), (.xsect H 6 4, 1), (.kvld H 6 4, 1), (.kvapp H 6 4, 1),
      (.kvwr H 6 4, 1), (.kvtrim H 6 4, 1), (.kvsplice H 6 4, 1), (.kvshift H 127 4, 1)], ∀ a ∈ [512, 2 ^ 19 - 64],
    let s := s45 (BitVec.ofNat 64 a) 0 (u2 x.1)
    goes s x.1 = true ∧ s.tick.em H ≠ 0#64 ∧ s.tick.cmdReason (s.tick.rs 4) = 0 ∧ s.grp.lostRemote = none ∧ s.tick.slotRule x.2 = .take 0 := by decide +kernel

/-- A direct stream of 100 halfwords from 0x10000000. -/
def strmDesc : List Byte := leBytes 64 (6 + 2 ^ 8 + 2 ^ 11 + 2 ^ 12 + 2 ^ 28 * 2 ^ 64 + 100 * 2 ^ 192 + 2 * 2 ^ 224)

/-- A configured stream of 100 halfwords from 0x10000000 with one round fetched. -/
def strm (rs : List StreamRound) (i : Instr) : State :=
  let x : Machine.Stream := { Stream.init with cfg := true, rounds := rs, desc := strmDesc }
  s45 512 0 (grp (fun g => { g with streams := tset Stream.init g.streams 2 x }) (u2 i))

/-- Streams. -/
theorem wit_Streams : (let i : Instr := .sstr H 2 4
      let s := (strm [] i).wlnum (.sp 0 512) 64 (6 + 100 * 2 ^ 192)
      goes s i = true ∧ s.tick.em H ≠ 0#64 ∧ (s.tick.rs 4).toNat % 64 = 0 ∧ (s.tick.rs 4).toNat + 64 ≤ (s.team s.grp.team).spb ∧ (s.tick.rs 4).toNat < 2 ^ 22
        ∧ streamOk (s.tick.cmdBlock (s.tick.rs 4).toNat) = true)
    ∧ goes (strm [] (.sdrop H 2)) (.sdrop H 2) = true
    ∧ (∀ i ∈ [Instr.spop H 6 2, .spopPred H 6 2 11], let s := strm [⟨[(0, 7)], []⟩] i
        goes s i = true ∧ (s.grp.stream 2).cfg = true ∧ (s.grp.stream 2).rounds = [⟨[(0, 7)], []⟩] ∧ (s.grp.stream 2).fld 8 2 ≠ 3)
    ∧ goes (usr (.spop H 6 2)) (.spop H 6 2) = true ∧ ((usr (.spop H 6 2)).grp.stream 2).cfg = false
    ∧ (let s := strm [] (.nop false); (tfind? s.groups 0).isSome = true ∧ ((s.group 0).stream 2).nextRound (s.group 0).w = some 0) := by decide +kernel

theorem wit_StreamRound : (match ((strm [] (.nop false)).streamLanes 0 (((strm [] (.nop false)).group 0).stream 2) 0 ⟨[], []⟩ (List.range 64)).2 with
    | .ok r => r.vals.length == 64 | _ => false) = true := by decide +kernel

/-- PairedWords: without a memory half, with a load, with a store; every half opcode that the statement names. -/
theorem wit_PairedWords : (∀ x ∈ [(⟨.vadd, 12, 8, 9, 0⟩, ⟨.sadd, 12, 8, 9, 0⟩), (⟨.ssub, 12, 8, 9, 0⟩, ⟨.vmov, 3, 8, 9, 0⟩), (⟨.saddi, 12, 8, 9, 15⟩, ⟨.pand, 12, 3, 4, 0⟩),
      ((⟨.smov, 12, 8, 9, 0⟩, ⟨.fmul, 12, 8, 9, 0⟩) : Half × Half)],
      goes (u2 (.pairedWord false x.1 x.2)) (.pairedWord false x.1 x.2) = true ∧ [x.1, x.2].find? halfIsMem = none ∧ WellFormed (.pairedWord false x.1 x.2))
    ∧ (∀ x ∈ [(⟨.lds, 12, 8, 4, 1⟩, AKind.read), ((⟨.sts, 12, 8, 4, 1⟩ : Half), .write)],
      let i : Instr := .pairedWord true ⟨.vadd, 12, 6, 7, 0⟩ x.1
      let s := at4 512 521 (u2 i)
      goes s i = true ∧ [⟨.vadd, 12, 6, 7, 0⟩, x.1].find? halfIsMem = some x.1 ∧ WellFormed i
        ∧ okB (s.tick.check s.focus false false x.2 (s.tick.halfAccs x.1)) = true) := by decide +kernel

/-- TileRegisterWords, TileZeroAndStatus: the words issue, on a valid tile and on an invalid one; `fm` accepts a value and refuses one. -/
theorem wit_TileRegisterWords : (∀ i ∈ [Instr.sfmt H 4, .sfmtSwap H 6 4, .tscl H 1 4, .tmovToTile H 1 64, .tmov H false 64 1, .tmov H true 64 1, .tzero H 15, .tstat H true 6 1,
      .tstat H false 6 1], ∀ b ∈ [0, 0x35], let s := grp (fun g => { g with tstat := tset 0#32 g.tstat 1 (BitVec.ofNat 32 b) }) (u2 i)
      goes s i = true ∧ s.tick.em H ≠ 0#64 ∧ s.grp.inv 1 = decide (b ≠ 0))
    ∧ fmOk 0x0000802140800000#64 = true ∧ fmOk 0x0000000700000000#64 = false
    ∧ (let i : Instr := .tzero ⟨12, true, false⟩ 15; goes (u2 i) i = true ∧ (u2 i).tick.em ⟨12, true, false⟩ = 0#64) := by decide +kernel

/-- TileMemoryWords: `tld`, `tst` and `rset` pass their checks. -/
theorem wit_TileMemoryWords : (∀ x ∈ [(Instr.tld H true true 1 4, true, true, AKind.read), (.tld H false false 1 4, false, false, .read), (.tst H false true true 1 4, true, true, .write),
      (.tst H true false false 1 4, false, false, .write)],
      let s := s45 (if x.2.2.1 then 2 ^ 28 else 512) 0 (u2 x.1)
      let as := rowAccs (s.tick.rs 4) (moveRows x.2.1 (s.tick.em H))
      goes s x.1 = true ∧ s.tick.em H ≠ 0#64 ∧ (as.all fun y => (s.tick.invalid x.2.2.1 y).isNone) = true ∧ (s.tick.rs 4).toNat % 128 = 0
        ∧ okB (s.tick.check s.focus x.2.2.1 false x.2.2.2 as) = true)
    ∧ (let i : Instr := .rset H 4
       let s := s45 512 0 (u2 i)
       goes s i = true ∧ s.tick.invalid false ⟨0, 512, 512⟩ = none ∧ okB (s.tick.check s.focus false false .read [⟨0, 512, 512⟩]) = true) := by decide +kernel

/-- A group whose format mode is as given, s4 a source at 1024 of its scratchpad and s5 a destination at 4096. -/
def fmt (fm : W64) (i : Instr) : State := s45 1024 4096 (grp (fun g => { g with fm := fm }) (hpc i))

/-- A source at 1024: 16.0 in its first `n` values, all else 0. -/
def eights (n : Nat) (s : State) : State := old <| (List.range n).foldl (fun s k => s.wlnum (.sp 0 (1024 + 4 * k)) 4 0x41800000) s

/-- The block of the source, after the transform. -/
def srcBlock (s : State) : Elems :=
  match s.tick.check s.focus false false .read (lineAccs 1024 1024) with
  | (u, .ok l) => encElems (encTransform (fmEhs s.grp.fm) (encSource false 16 ((l.flatMap fun y => y.2).map (u.gb u.focus)))) 0
  | _ => []

/-- TileMemoryWords, `enc`: two outliers, which the capacity takes; three, of which one is above the spill bound and has no slot. -/
theorem wit_Encode : let i : Instr := .enc H false false 5 4
    ∀ x ∈ [(2, true), (3, false)], let s := eights x.1 (fmt 0x0000802140800000#64 i)
    goes s i = true ∧ (lineAccs 1024 1024).all (fun y => (s.tick.invalid false y).isNone) = true
      ∧ okB (s.tick.check s.focus false false .read (lineAccs 1024 1024)) = true ∧ (overs s.grp.fm (srcBlock s)).isEmpty = x.2
      ∧ okB (s.tick.check s.focus false false .write [⟨0, 4096, 128⟩]) = true := by decide +kernel

/-- A split block of format 1 at 4096 of the scratchpad, all zero, its header as given. -/
def blk (hd : Nat) (s : State) : State := old (s.wlnum (.sp 0 4096) 4 hd)

/-- The line at 4096. -/
def line0 (s : State) : Line :=
  match s.tick.check s.focus false false .read [⟨0, 4096, 128⟩] with
  | (u, .ok l) => ((l.map fun y => y.2.map (u.gb u.focus)).getD 0 [])
  | _ => []

/-- TileMemoryWords, `dec`: a well-formed block, and one that holds more outliers than it has slots. -/
theorem wit_Decode : let i : Instr := .dec H false false 5 4
    ∀ x ∈ [(0x20081, true), (0x2c881, false)], let s := s45 4096 8192 (blk x.1 (hpc i))
    goes s i = true ∧ lineZeroOk (line0 s) = true ∧ blockLines (lineHdr (line0 s)).bf (lineHdr (line0 s)).cap = 1
      ∧ (judgeBlock .free [line0 s]).isNone = x.2 ∧ fmIlt s.grp.fm = false ∧ ((lineAccs 8192 1024).all fun y => (s.tick.invalid false y).isNone) = true
      ∧ okB (s.tick.check s.focus false false .write (lineAccs 8192 1024)) = true := by decide +kernel

/-! ### Products -/

/-- The lines at an address, where every access goes ahead. -/
def linesOf (s : State) (glob : Bool) (a : W64) (n : Nat) : Option (State × List Line) :=
  match s.check s.focus glob false .read ((List.range n).map fun i => ⟨0, (a + BitVec.ofNat 64 (128 * i)).toNat, 128⟩) with
  | (u, .ok l) => if u.noAnswer u.focus (l.map fun x => x.2).flatten = none then some (u.readRanges u.focus (l.map fun x => x.2)) else none
  | _ => none

theorem linesOf_spec {s : State} {glob : Bool} {a : W64} {n : Nat} {r : State × List Line} (h : linesOf s glob a n = some r)
    (k : State → List Line → Eff) : withLines s glob a n k = k r.1 r.2 := by
  unfold linesOf at h
  split at h
  · rename_i u l e
    split at h
    · rename_i hn
      simp only [withLines, withAccess, withAnswer, e, hn]
      cases h
      rfl
    · cases h
  · cases h

/-- The blocks of a run, where every access of it goes ahead. -/
def runOf (glob : Bool) : Nat → W64 → State → List (W64 × List Line) → Option (State × List (W64 × List Line))
  | 0, _, s, acc => some (s, acc.reverse)
  | n + 1, a, s, acc =>
    (linesOf s glob a 1).bind fun x =>
      let h := lineHdr (x.2.getD 0 [])
      if lineZeroOk (x.2.getD 0 []) then
        (linesOf x.1 glob (a + 128) (blockLines h.bf h.cap - 1)).bind fun y =>
          runOf glob n (a + BitVec.ofNat 64 (128 * blockLines h.bf h.cap)) y.1 ((a, x.2 ++ y.2) :: acc)
      else some (x.1, ((a, x.2) :: acc).reverse)

theorem runOf_spec (glob : Bool) (u : State) (bs : List (W64 × List Line)) : ∀ (n : Nat) (a : W64) (s : State) (acc : List (W64 × List Line)),
    runOf glob n a s acc = some (u, bs) → ∀ k, fetchRun glob n a s acc k = k u bs := by
  intro n
  induction n with
  | zero => intro a s acc h k; simp [runOf] at h; simp [fetchRun, h]
  | succ n ih =>
    intro a s acc h k
    simp only [runOf, Option.bind_eq_some_iff] at h
    obtain ⟨x, hx, h⟩ := h
    simp only [fetchRun, linesOf_spec hx]
    by_cases hz : lineZeroOk (x.2.getD 0 []) = true
    · rw [if_pos hz] at h ⊢
      simp only [Option.bind_eq_some_iff] at h
      obtain ⟨y, hy, h⟩ := h
      simp only [linesOf_spec hy]
      exact ih _ _ _ h k
    · rw [if_neg hz] at h ⊢
      cases h
      rfl

/-- Products, the run: for the states of `wit_Products` the run of one block at 4096 is fetched, whatever goes on with it. -/
theorem wit_ProductRun (s : State) (h : (runOf false 1 4096 s.tick []).isSome = true) :
    ∃ u bs, ∀ k, fetchRun false 1 4096 s.tick [] k = k u bs := by
  obtain ⟨⟨u, bs⟩, e⟩ := Option.isSome_iff_exists.mp h
  exact ⟨u, bs, runOf_spec false u bs 1 _ _ _ e⟩

/-- The body of a block of format 4 at 4096: in each column the rows 0 and 1, with the value 0. -/
def body4 (b : Bool) (s : State) : State := if b then old (s.wlnum (.sp 0 4116) 32 ((2 ^ 256 - 1) / (2 ^ 16 - 1) * 0x100)) else s

/-- Products: each word on a block of its format, and on one of another format with ILT clear and with ILT set and a handler. -/
theorem wit_Products : ∀ x ∈ [(Instr.smm H .bf16 false 1 1 64 6, 0x81, 1, 3, 0x84), (.smms H .e4m3 false 1 1 64 6, 0x84, 4, 6, 0x81), (.pmm H .f32 false 1 1 64 6, 0x80, 0, 0, 0x81)],
    let s (hd fm : Nat) : State := sregs [(6, 4096#64)] (blk hd (body4 (hd == 0x84) (grp (fun g => { g with fm := BitVec.ofNat 64 fm }) (hpc x.1))))
    let bad (s : State) : Option (Nat × Nat × Nat) := match runOf false 1 4096 s.tick [] with
      | some (_, bs) => firstBad (fun bf => decide (x.2.2.1 ≤ bf) && decide (bf ≤ x.2.2.2.1)) bs
      | none => some (9, 9, 9)
    goes (s x.2.1 0) x.1 = true ∧ (s x.2.1 0).tick.em H ≠ 0#64 ∧ (s x.2.1 0).tick.rs 6 &&& ~~~127#64 = 4096#64
      ∧ (runOf false 1 4096 (s x.2.1 0).tick []).isSome = true ∧ bad (s x.2.1 0) = none
      ∧ (runOf false 1 4096 (s x.2.2.2.2 0).tick []).isSome = true ∧ (bad (s x.2.2.2.2 0)).isSome = true ∧ fmIlt (s x.2.2.2.2 0).grp.fm = false
      ∧ fmIlt (s x.2.2.2.2 (2 ^ 50)).grp.fm = true ∧ (s x.2.2.2.2 0).grp.hpc ≠ 0 ∧ (s x.2.2.2.2 0).grp.uhc = 0 := by decide +kernel

theorem wit_DenseProduct : let i : Instr := .dmm H .bf16 .bf16 true false 1 1 64 6
    let s := sregs [(6, 4096#64)] (u2 i)
    goes s i = true ∧ okB (s.tick.check s.focus false false .read ((List.range (2 * bSize .bf16 * 1)).map fun i => ⟨0, 4096 + 128 * i, 128⟩)) = true := by decide +kernel

/-- A team of four, its three other members waiting at the rendezvous with a tag. -/
def quad (tag : Nat) (i : Instr) : State :=
  let s := u2 i
  let t := s.setTeam 0 { s.team 0 with tg := 4 }
  let q (k : Nat) : QArr := { g := k, gk := k, path := 0, tag := if k = 1 then tag else 7, tb := .bf16, ta := .bf16, st := false, d := 1, em := 3, pk := false,
                              quarter := [], aregs := [], word := 0, void := false }
  [1, 2, 3].foldl (fun t k => (t.setGroup k { s.group 0 with gid := k }).setTeam 0 { t.team 0 with quads := (t.team 0).quads ++ [q k] }) t

/-- QuadProduct: the fourth arrival with the same tag, one whose quad is not complete, one in a team of one; a member of an update. -/
theorem wit_QuadProduct : let i : Instr := .qmm H .bf16 .bf16 false 7 1 64 6
    let arr (s : State) : QArr := { g := s.grp.gid, gk := s.focus, path := s.fpath, tag := 7, tb := .bf16, ta := .bf16, st := false, d := 1, em := s.tick.em H, pk := H.pk,
                                    quarter := s.tick.quarter 6, aregs := (lanesOf (s.tick.em H)).map fun l => (l, s.tick.aRegs .bf16 1 64 l), word := BitVec.ofNat 64 (encode i), void := false }
    let met (s : State) : Option Bool := (rendezvous ((s.team 0).quads ++ [arr s]) 0).map fun qs => qs.all fun y => y.tag == 7 && y.tb == .bf16 && y.st == false
    goes (quad 7 i) i = true ∧ (quad 7 i).tick.em H ≠ 0#64 ∧ (quad 7 i).grp.gid / 4 * 4 + 3 < ((quad 7 i).team 0).tg ∧ met (quad 7 i) = some true
      ∧ met ((quad 7 i).setTeam 0 { (quad 7 i).team 0 with quads := [] }) = none
      ∧ goes (u2 i) i = true ∧ ((u2 i).team 0).tg ≤ (u2 i).grp.gid / 4 * 4 + 3 := by decide +kernel

/-- AttentionWords. -/
theorem wit_AttentionWords : goes (u2 (.rot H 64 32 8 16)) (.rot H 64 32 8 16) = true ∧ (u2 (.rot H 64 32 8 16)).tick.em H ≠ 0#64
    ∧ goes (u2 (.smaxSoftmax H 1 64)) (.smaxSoftmax H 1 64) = true
    ∧ (let i : Instr := .cred H 1 1 64 4
       let s := s45 0 0 (u2 i)
       goes s i = true ∧ (s.tick.invalid false ⟨0, 2 ^ 22, 4608⟩).isNone = true ∧ okB (s.tick.check s.focus false false .read [⟨0, 2 ^ 22, 4608⟩]) = true)
    ∧ (∀ a ∈ [0, 0x40, 2 ^ 57 - 64], let i : Instr := .btinv H .tm 4
       goes (s45 (BitVec.ofNat 64 a) 0 (u2 i)) i = true) := by decide +kernel

/-! ### The control group -/

/-- Core 0's control group in focus at a word, beside a user group in slot 3 with `f` applied to it, in partition 0. -/
def cu (f : Group → Group) (i : Instr) : State :=
  let u := usr i
  let v := { u with groups := [(3, f { u.group 0 with nv := 16, nt := 0, w := 16 })], teams := tput u.teams 0 { u.team 0 with spb := 1024 } }
  let w := v.startCtl 0 (2 ^ 16)
  { w with focus := 64, chosen := [64] }

/-- Stopped, held for the control group. -/
def stopped (g : Group) : Group := { g with stopped := true, hold := .ctl }

/-- ControlRegisters. -/
theorem wit_ControlRegisters : goes (cu id (.csrr H 6 5)) (.csrr H 6 5) = true ∧ (cu id (.csrr H 6 5)).tick.em H ≠ 0#64
    ∧ goes (s45 0xff 0 (cu id (.csrw H 5 4))) (.csrw H 5 4) = true := by decide +kernel

/-- DebugWindow: a stopped slot at the first and the last offset, one that runs, one that is empty, and each bad operand. -/
theorem wit_DebugWindow : ∀ i ∈ [Instr.dbgr H 6 4 5, .dbgw H 6 4 5],
    let bad (s : State) : Bool :=
      let k := (s.tick.rs 4).toNat
      let o := (s.tick.rs 5).toNat
      let g := s.group k
      decide (64 ≤ k) || decide (o % 8 ≠ 0) || ((tfind? s.groups k).isSome && decide (4096 + 4 * g.w * g.nv + 4096 * g.nt ≤ o))
    (∀ o ∈ [0, 5112], let s := s45 3 (BitVec.ofNat 64 o) (cu stopped i)
      goes s i = true ∧ bad s = false ∧ (tfind? s.groups 3).isSome = true ∧ (s.group 3).stopped = true ∧ 3 ≠ s.focus)
    ∧ (let s := s45 3 8 (cu id i); goes s i = true ∧ bad s = false ∧ (s.group 3).stopped = false)
    ∧ (let s := s45 9 8 (cu id i); goes s i = true ∧ bad s = false ∧ (tfind? s.groups 9).isSome = false)
    ∧ (∀ x ∈ [(64, 0), (3, 12), (3, 5120)], let s := s45 (BitVec.ofNat 64 x.1) (BitVec.ofNat 64 x.2) (cu stopped i)
      goes s i = true ∧ bad s = true) := by decide +kernel

/-- SystemCall: with lanes in the mask and without. -/
theorem wit_SystemCall : goes (u2 (.sysc H 7)) (.sysc H 7) = true ∧ (u2 (.sysc H 7)).grp.ctl = false ∧ (u2 (.sysc H 7)).tick.em H ≠ 0#64
    ∧ goes (u2 (.sysc ⟨12, true, false⟩ 7)) (.sysc ⟨12, true, false⟩ 7) = true ∧ (u2 (.sysc ⟨12, true, false⟩ 7)).tick.em ⟨12, true, false⟩ = 0#64 := by decide +kernel

/-- StoppingAndResuming, the words: a stopped slot, one that runs; an event of each kind that is ready, and none. -/
theorem wit_StoppingWords : (∀ i ∈ [Instr.rtiResume H 4, .rtiEnd H 4, .rtiAbort H 4],
      (let s := s45 3 0 (cu stopped i); goes s i = true ∧ s.tick.em H ≠ 0#64 ∧ s.stoppedAt 3 = true ∧ s.slotKey 3 ≠ s.focus)
      ∧ (let s := s45 3 0 (cu id i); goes s i = true ∧ s.stoppedAt 3 = false))
    ∧ (let i : Instr := .halt H 6
       let ev (k : Nat) : State := (cu stopped i).setCore 0 { (cu stopped i).core 0 with events := [⟨0, 3, k, 0⟩] }
       goes (ev 1) i = true ∧ ((ev 1).core 0).events.findIdx? (ev 1).tick.evReady = some 0
         ∧ goes (ev 2) i = true ∧ ((ev 2).core 0).events.findIdx? (ev 2).tick.evReady = some 0
         ∧ (cu stopped i).canIssue = true ∧ (cu stopped i).dynReason i = 0 ∧ ((cu stopped i).core 0).events.findIdx? (cu stopped i).tick.evReady = none) := by decide +kernel

/-- StoppingAndResuming, the events: a group with a stop requested, one named in PREQ, one of an aborted launch, one whose section is too old. -/
theorem wit_StoppingEvents : let s0 := usr (.nop false)
    let g (f : Group → Group) : State := s0.setGroup 0 (f (s0.group 0))
    let pre := g fun x => { x with preempt := true }
    (tfind? pre.groups 0).isSome = true ∧ (pre.group 0).ctl = false ∧ pre.aborting 0 = false ∧ (pre.group 0).stopped = false ∧ (pre.group 0).preempt = true
    ∧ ((s0.setCore 0 { s0.core 0 with preq := 1 }).core 0).preq.testBit 0 = true ∧ (s0.group 0).preempt = false
    ∧ ({ s0 with launches := s0.launches.map fun (e : Nat × Launch) => (e.1, { e.2 with abort := some 1 }) } : State).aborting 0 = true
    ∧ (let s := pt (fun p => { p with swd := 100 }) (g fun x => { x with rsd := 1, wdt := 101 })
       0 < (s.group 0).rsd ∧ (s.part 0).swd ≠ 0 ∧ (s.part 0).swd < (s.group 0).wdt) := by decide +kernel

/-- SaveAndRestore, `ctxsv`: a stopped slot alone and with its team, at an aligned place of the partition; a misaligned place. -/
theorem wit_ContextSave : (∀ t ∈ [false, true], let i : Instr := .ctxsv H t 4 5
      let s := s45 3 0x20000000 (cu stopped i)
      goes s i = true ∧ s.tick.em H ≠ 0#64 ∧ s.stoppedAt 3 = true ∧ s.tick.lastResident 3 = true ∧ s.tick.frameBad 0x20000000 (s.group 3).frameLen = 0
        ∧ s.tick.frameBad 0x20000000 (8192 + (s.team 0).frameLen) = 0)
    ∧ (let i : Instr := .ctxsv H false 4 5
       goes (s45 3 0x20000800 (cu stopped i)) i = true ∧ 0x20000800 % 4096 ≠ 0) := by decide +kernel

/-- Slot 3's group and its team saved: the frames at 0x20000000 and 0x20002000, of the group's the header and the paths. -/
def saved : State :=
  let s := cu stopped (.ctxld H true 6 4)
  let t := s.team 0
  let g := s.group 3
  let u := [0, 1, 2, 16, 17, 18, 20, 64, 68].foldl (fun (u : State) k => u.wnum (0x20000000 + 8 * k) 8 (g.frameWord 0 0x20002000 k)) s
  old ({ u with groups := s.groups.filter (fun e => e.1 ≠ 3), teams := tput s.teams 0 { t with saved := true, tfa := 0x20002000 },
                saved := [⟨0x20000000, 5120, true, 0, g⟩] }.wnum 0x20002004 4 1024)

/-- The control group with the frame's address in s4, at a `ctxld`. -/
def ldAt (f : Nat) : State := s45 (BitVec.ofNat 64 f) 0 saved

/-- GroupRestore: the frame that a save wrote, loaded with its team; without it, where it may not stand; a place without one; a place outside. -/
theorem wit_ContextLoad : let f := 0x20000000
    let w := (ldAt f).tick.performAll 64
    let o := match saved.saved with | v :: _ => v.grp.ofFrame (w.frameRd f) | [] => Group.empty
    (ldAt f).focus = 64 ∧ goes (ldAt f) (.ctxld H true 6 4) = true ∧ goes (ldAt f) (.ctxld H false 6 4) = true ∧ w.physOk 0 f 4096 .read = none
      ∧ bits (w.frameRd f 0) 0 16 = 1 ∧ some (bits (w.frameRd f 0) 40 8) = (w.die 0).part
      ∧ (w.frameOwner f true 0).map (·.addr) = some f ∧ ((w.frameOwner f true 0).map fun v => w.loadable v f 0 true) = some true
      ∧ w.freeSlot 0 (bits (w.frameRd f 0) 27 4 % 4) = some 0 ∧ o.p0.wait = none ∧ o.p1.wait = none ∧ w.saved.map (·.addr) = [f]
      ∧ ((w.frameOwner f false 0).map fun v => w.loadable v f 0 false) = some false := by decide +kernel

theorem wit_ContextLoad_stops : goes (ldAt 0x21000000) (.ctxld H true 6 4) = true ∧ (ldAt 0x21000000).tick.physOk 0 0x21000000 4096 .read = none
    ∧ bits ((ldAt 0x21000000).tick.frameRd 0x21000000 0) 0 16 ≠ 1 ∧ goes (ldAt (2 ^ 60)) (.ctxld H true 6 4) = true
    ∧ ((ldAt (2 ^ 60)).tick.physOk 0 (2 ^ 60) 4096 .read).isSome = true := by decide +kernel

/-- A page-table entry of the loaded partition's one page. -/
def pte (v : Nat) (i : Instr) : State := s45 0 0x12345000 ((cu id i).wnum (loadTables + 12288) 8 v)

/-- PageWords: `bflip` on a page with its bias already, unshared, shared towards the host and the device, and with an answered recall; `pgcopy`. -/
theorem wit_PageWords : goes (s45 0 0 (cu id (.tlbinv H 2 true 4 5))) (.tlbinv H 2 true 4 5) = true
    ∧ (∀ x ∈ [(true, 0x3f), (false, 0x1f), (true, 0x1f), (false, 0x3f), (false, 0x7f), (true, 0x5f)], let i : Instr := .bflip H x.1 2 4 5
        let s := pte x.2 i
        goes s i = true ∧ s.tick.em H ≠ 0#64 ∧ s.recalls.any (fun r => r.gk == s.focus) = false
          ∧ (match (s.tick.performAll s.focus).walk (s.part 0) 0 0x12345000 with | .leaf p b n a => (p, b, n, a) == (x.2, 0, 2 ^ 30, loadTables + 12288) | _ => false) = true)
    ∧ (let i : Instr := .bflip H true 2 4 5
       let s := { pte 0x5f i with recalls := [⟨0, 64, 0, true, 0x12345000, 4096⟩] }
       goes s i = true ∧ s.recalls.any (fun r => r.gk == s.focus) = true)
    ∧ (let i : Instr := .pgcopy H 0 6 4 5
       let s := s45 0x10000000 0x20010000 (cu id i)
       goes s i = true ∧ s.tick.physOk 0 0x10000000 65536 .read = none ∧ s.tick.physOk 0 0x20010000 65536 .write = none ∧ s.tick.poison = []) := by decide +kernel

/-! ### Sweeps, the time between words, engines -/

/-- The sweep words, each of `n` iterations of d = s3, a = s4, b = s5. -/
def sweeps (n : Nat) : List Instr :=
  [.vaddSweep H 3 4 5 n, .vsubSweep H 3 4 5 n, .vaddsSweep H true 3 4 5 n, .vsubsSweep H false 3 4 5 n, .vmulSweep H 3 4 5 n, .vmulhSweep H 3 4 5 n,
   .vmulhuSweep H 3 4 5 n, .vmadSweep H 3 4 5 n, .vandSweep H 3 4 5 n, .vorSweep H 3 4 5 n, .vxorSweep H 3 4 5 n, .vandnSweep H 3 4 5 n,
   .vshlSweep H 3 4 5 n, .vshrSweep H 3 4 5 n, .vsraSweep H 3 4 5 n, .vminSweep H 3 4 5 n, .vmaxSweep H 3 4 5 n, .vminuSweep H 3 4 5 n,
   .vmaxuSweep H 3 4 5 n, .vabsSweep H 3 4 5 n] ++
  [.vselSweep H 3 4 5 n, .vbfxSweep H 3 4 5 n, .vbfiSweep H 3 4 5 n, .vfshSweep H 3 4 5 n, .vclzSweep H 3 4 5 n, .vpopcSweep H 3 4 5 n,
   .vbrevSweep H 3 4 5 n, .vmovSweep H 3 4 5 n, .faddSweep H 3 4 5 n, .fsubSweep H 3 4 5 n, .fmulSweep H 3 4 5 n, .ffmaSweep H 3 4 5 n,
   .fminSweep H 3 4 5 n, .fmaxSweep H 3 4 5 n, .hadd2Sweep H 3 4 5 n, .hmul2Sweep H 3 4 5 n, .hfma2Sweep H 3 4 5 n, .q8addSweep H 3 4 5 n,
   .q8mulSweep H 3 4 5 n]

/-- The setting of a sweep word in a state. -/
def swOf (s : State) (i : Instr) (n : Nat) : Sweep :=
  { i := i, em := s.tick.em H, sc := s.grp.sc, pr := s.tick.rpm (bits s.grp.sc.toNat 56 4), ad := (s.tick.rs 3).toNat, aa := (s.tick.rs 4).toNat,
    ab := (s.tick.rs 5).toNat, n := n, at_ := s.tick.fresh, flags := [] }

/-- Whether a sweep word begins. -/
def beginsB (s : State) (i : Instr) (n : Nat) : Bool :=
  let x := swOf s i n
  goes s i && (sweepOp s.grp.sc x.pr i).isSome && x.em != 0#64 && (s.tick.sweepBad x).isNone && x.bases.all (fun y => y.1 % 4 == 0)
    && (s.tick.sweepStall x).isNone

/-- Sweeps, a word that begins: every sweep word at its greatest count of small words, and `vadd` at two. -/
theorem wit_SweepBegins : (sweeps 1).all (fun i => beginsB (sregs [(3, 4096), (4, 8192), (5, 16384)] (u2 i)) i 1) = true
    ∧ (let i : Instr := .vaddSweep H 3 4 5 2; beginsB (sregs [(3, 4096), (4, 8192), (5, 16384)] (u2 i)) i 2 = true) := by decide +kernel

/-- Sweeps, an empty mask, and a word outside the scratchpad; a setting (ST) that 29 of the 39 words forbid. -/
theorem wit_SweepStops : (sweeps 1).all (fun i =>
      let e := pth (fun p => { p with mask := 0#64 }) (u2 i)
      let o := sregs [(3, 0x7fffc)] (u2 i)
      goes e i && (sweepOp e.grp.sc (swOf e i 1).pr i).isSome && (swOf e i 1).em == 0#64 && goes o i && (swOf o i 1).em != 0#64
        && (o.tick.sweepBad (swOf o i 1)).isSome) = true
    ∧ (let f (i : Instr) : State := grp (fun g => { g with sc := 0x40000000000000#64 }) (u2 i)
       (sweeps 1).countP (fun i => goes (f i) i && (sweepOp (f i).grp.sc (swOf (f i) i 1).pr i).isNone) = 29) := by decide +kernel

/-- The state in which a `vadd` sweep of three iterations stands before iteration `k`. -/
def sweepAt (k : Nat) : State :=
  let i : Instr := .vaddSweep H 3 4 5 3
  let s := sregs [(3, 4096), (4, 8192), (5, 16384)] (u2 i)
  pth (fun p => { p with sweep := some (swOf s i 3), swi := k }) s

/-- SweepIterations: one with others to come, and the last; its reads are those of the lanes. -/
theorem wit_SweepIteration : ∀ k ∈ [0, 2], let s0 := ((sweepAt k).performAll 0).at_ 0 0
    (match s0.pth.sweep with
      | some x => (match (s0.sweepReads 0 x s0.pth.swi).2 with
        | some rs => rs.length == 2 && s0.grp.enabled (orFlags (rs.map fun r => r.2.2.2)) == 0#6
        | none => false) && (sweepOp x.sc x.pr x.i).isSome && decide (s0.pth.swi = k) && decide (x.n = 3) && x.flags.isEmpty
      | none => false) = true ∧ s0.canIssue = true ∧ s0.hist = [] ∧ (s0.grp.path 1).sweep = none := by decide +kernel

/-- A result that waits for register `r`. -/
def pend (c : RCls) (r : PRes) : Pend := ⟨c, r, 0, 0, [], 0⟩

/-- BetweenWords: outstanding results of each class, a tile's behind none of its class, and one of a path that has ended. -/
theorem wit_BetweenWords : let s := pth (fun p => { p with pend := [pend .ld (.s 5 7), pend .tile (.t 3), pend .x (.v 3 [(2, 99)])] }) (usr (.nop false))
    (tfind? s.groups 0).isSome = true
      ∧ ((s.group 0).pendOf 0).map (·.cls) = [.ld, .tile, .x] ∧ (((s.group 0).pendOf 0).take 1).all (fun x => x.cls != .tile) = true
      ∧ (let u := grp (fun g => { g with orph := [pend .ld (.s 126 7)] }) s; ((u.group 0).pendOf 2).length = 1)
      ∧ s.eligible 64 = false ∧ s.countsClk 0 0 = true ∧ s.countsClk 0 1 = false ∧ (ctl (.nop false)).eligible 64 = true := by decide +kernel

/-- The fields of a word of storage, each at its bit. -/
def fields (fs : List (Nat × Nat)) : Nat := fs.foldl (fun (a : Nat) (f : Nat × Nat) => a + f.2 * 2 ^ f.1) 0

/-- A copy of two rows of 24 bytes from 0x10000100 to 2048 of the scratchpad, its error record at 1024. -/
def cpyBlk : Nat :=
  fields [(0, 1), (32, 1024), (128, 0x10000100), (192, 2048), (256, 24), (288, 2), (304, 1), (320, 32), (352, 24)]

/-- The state after the `cpy` word that queues a command block. -/
def queued (b : Nat) : State :=
  match exec (.cpy H 5 4) (sregs [(4, 512)] (old ((usr (.cpy H 5 4)).wlnum (.sp 0 512) 64 b))) with | .next t => t | _ => State.reset

/-- A change of the queued command. -/
def cmdWith (f : Cmd → Cmd) (s : State) : State := { s with engs := s.engs.map fun (e : Nat × Machine.EngSlot) => (e.1, { e.2 with cmd := e.2.cmd.map f }) }

/-- The queued command with its slot. -/
def qcmd (s : State) : Option (Nat × Cmd) := s.engs.findSome? fun (e : Nat × Machine.EngSlot) => e.2.cmd.map fun c => (e.1, c)

/-- What an acceptance answers: 1 a start, 2 a stop. -/
def acceptB (s : State) : Nat :=
  match qcmd s with
  | some (k, c) => if ((s.team 0).queue 0).cmds == [k] && c.susp.isNone then (match acceptTests s c with | .ok _ _ => 1 | .stop _ _ => 2 | _ => 3) else 0
  | none => 0

/-- The state after the queued copy's acceptance. -/
def active : State := match exec (.engineAccept 0 0) (queued cpyBlk) with | .next t => t | _ => State.reset

/-- EngineEvents, acceptance: a good command, a malformed header and body, a halted queue with and without WAK. -/
theorem wit_EngineAccept : acceptB (queued cpyBlk) = 1 ∧ acceptB (queued (cpyBlk + 2 ^ 500)) = 2
    ∧ (match qcmd (queued (cpyBlk + 2 ^ 500)) with | some (_, c) => (queued cpyBlk).headerBad c | none => false) = true
    ∧ (match qcmd (queued (cpyBlk - 2 * 2 ^ 288)) with | some (_, c) => !(queued cpyBlk).headerBad c && c.bodyBad.1 != 0 | none => false) = true
    ∧ (match qcmd (queued cpyBlk), qcmd (queued (cpyBlk + 2 ^ 14)) with
       | some (_, c), some (_, w) => c.fld 14 1 == 0 && w.fld 14 1 == 1 && c.counted == [] && c.rsn == 0 && c.fld 20 1 == 0 | _, _ => false) = true := by
  decide +kernel

/-- The cases of an active, ended or waiting command, which the word's number and the state of the command tell. -/
def inState (st : CmdSt) (word n : Nat) (s : State) : Bool :=
  match qcmd s with | some (_, c) => decide (c.st = st) && c.susp.isNone && c.word == word && c.waited == n | none => false

/-- EngineEvents, the others: an active copy, an active key-cache command, an ended one, one that waits for a lock in time and too long. -/
theorem wit_EngineDelivery : inState .active 1 0 active = true
    ∧ inState .active 18 0 (cmdWith (fun c => { c with word := 18 }) active) = true
    ∧ inState .done 1 0 (cmdWith (fun c => { c with st := .done }) active) = true
    ∧ inState .lockWait 18 1025 (pt (fun p => { p with lkt := 1 }) (cmdWith (fun c => { c with word := 18, st := .lockWait, waited := 1025 }) active)) = true := by
  decide +kernel

/-- CopiedBytes: ten bytes of the first row and the two that fill the destination's last word, which both ends hold; the row's end. -/
theorem wit_CopyUnit : (match qcmd active with
    | some (_, c) => [10, 65536].all fun n =>
      let len := c.fld 256 32
      let at_ (base lo : Nat) : Nat := modInt 64 ((base : Int) + (c.pos / len) * sxInt 32 (c.fld lo 32) + (c.pos % len : Nat))
      let src := at_ (c.fld 128 64) 320
      let dst := at_ (c.fld 192 64) 352
      let m := min (n + (4 - (dst + n) % 4) % 4) (len - c.pos % len)
      let want := min ((src + m + 3) / 4 * 4 - src) (len - c.pos % len)
      let r := active.eSegs c (c.fld 304 1 == 1) (src + c.ahead.length) (want - c.ahead.length) .read
      let w := r.1.eSegs c (c.fld 305 1 == 1) dst m .write
      c.fld 13 1 == 0 && c.counted == [] && decide (0 < m) && decide (m = if n = 10 then 12 else 24) && decide (c.ahead.length ≤ want)
        && r.2.2.isNone && w.2.2.isNone && (segLocs r.2.1).length == want && (segLocs w.2.1).length == m && r.1.hist.isEmpty
        && decide (segLocs w.2.1).Nodup && (segLocs w.2.1).all (fun l => match l with | .gpa a => decide (a < 2 ^ 51) | _ => true)
        && segLocs w.2.1 == (List.range m).map (fun i => Loc.sp 0 (2048 + i))
    | none => false) = true := by decide +kernel

/-! ### The host's queues, the scheduler, the module -/

/-- A live session of endpoint 9, and queue 2 of partition 0 configured at 0x20000000. -/
def live (s : State) : State :=
  let s1 := { s with tp := { s.tp with live := true, sid := 77, endpoint := 9, rxNext := 5, acked := 3, rseq := 6, kept := [(4, [1, 2]), (5, [3])], unacked := 3 } }
  s1.setLq 2 { s1.lq 2 with part := some 0, base := 0x20000000, size := 65536, tst := 7 }

/-- A record (16 R465): its header, and its body filled up with zeros. -/
def record (code lq size rseq : Nat) (mgt : Bool) (body : List Byte) : List Byte :=
  let l := leBytes 8 (code + lq * 2 ^ 8 + b2n mgt * 2 ^ 16 + size * 2 ^ 32) ++ leBytes 8 rseq ++ body
  l ++ List.replicate (16 * size - l.length) 0

/-- A frame of the session. -/
def fr (typ sseq aseq : Nat) (p : List Byte) : Frame := ⟨9, 1, typ, 0, p.length, sseq, aseq, 77, p⟩

/-- Whether a frame is the session's. -/
def mineB (s : State) (f : Frame) : Bool := s.tp.live && f.sid == s.tp.sid && f.src == s.tp.endpoint

/-- A state of a loaded program with a live session. -/
def lv : State := live (usr (.nop false))

/-- A MARKER record of queue 2. -/
def marker : List Byte := record 5 2 2 0 false (leBytes 8 0x1234)

/-- TransportFrames: a frame in sequence whose records find room, or do not; one ahead, one behind; the other frames of a session; a strange
frame; the timers; a HELLO without and within a session. -/
theorem wit_TransportFrames : (let place (s : State) (f : Frame) : Option State :=
         { s with tp := { s.tp with acked := if seqAfter f.aseq s.tp.acked then f.aseq else s.tp.acked } }.placeAll (splitRecords 571 f.payload)
       let f := fr 1 5 4 marker
       frameOk f 1 = true ∧ mineB lv f = true ∧ (place lv f).isSome = true
         ∧ (let s := { usr (.nop false) with tp := lv.tp }; frameOk (fr 1 5 4 (marker ++ marker)) 1 = true ∧ (place s (fr 1 5 4 (marker ++ marker))).isNone = true)
         ∧ (frameOk (fr 1 7 4 marker) 1 = true ∧ seqAfter 7 lv.tp.rxNext = true) ∧ (frameOk (fr 1 4 4 marker) 1 = true ∧ seqAfter 4 lv.tp.rxNext = false))
    ∧ (frameOk (fr 2 0 6 []) 2 = true ∧ mineB lv (fr 2 0 6 []) = true) ∧ frameOk { fr 3 0 4 [] with flags := 1 } 3 = true
    ∧ frameOk (fr 4 0 4 []) 4 = true ∧ frameOk (fr 7 0 4 []) 7 = true ∧ mineB lv { fr 1 0 4 [] with sid := 3 } = false
    ∧ lv.tp.live = true ∧ 0 < lv.tp.unacked
    ∧ (let f : Frame := { fr 6 0 4 [] with src := 3, sid := 8 }
       frameOk f 6 = true ∧ f.len = 0 ∧ lv.up = true ∧ lv.tp.live = true ∧ f.src ≠ lv.tp.endpoint ∧ (usr (.nop false)).up = true ∧ (usr (.nop false)).tp.live = false) := by
  decide +kernel

/-- A launch of one team of one group of 16 lanes, and further fields. -/
def launchBody (ex : List (Nat × Nat)) : List Byte :=
  leBytes 256 (fields ([(0, 0x10000000), (128, 1), (144, 1), (160, 1), (176, 1), (180, 1), (184, 1), (192, 3), (224, 1024)] ++ ex))

/-- The state with a record placed in queue 2's ring. -/
def placed (r : List Byte) (s : State) : State := match s.placeAll [r] with | some t => t | none => State.reset

/-- The reason with which the next record of queue 2 is judged: (0, 0) for a good one of the given code. -/
def judged (code : Nat) (s : State) : Option (Nat × Nat) :=
  match s.headRecord 2 with
  | some (r, off) => let x := s.lq 2
    if !x.halt && x.head.isNone && x.gap == 0 && (recHdr r).code == code && decide (0 < r.length) && decide (r.length ≤ x.used)
        && x.hold == [] && !x.bad then some (s.recordReason 2 r off) else none
  | none => none

/-- QueueRecords: a good LAUNCH, WRITE, READ and MARKER, with their spans; malformed ones. -/
theorem wit_QueueRecords : judged 1 (placed (record 1 2 17 0 false (launchBody [])) lv) = some (0, 0)
    ∧ judged 3 (placed (record 3 2 3 0 false (leBytes 8 0x10000800 ++ leBytes 8 7)) lv) = some (0, 0)
    ∧ judged 4 (placed (record 4 2 2 0 false (leBytes 8 0x10000800 ++ leBytes 8 16)) lv) = some (0, 0)
    ∧ judged 5 (placed marker lv) = some (0, 0)
    ∧ (match judged 1 (placed (record 1 2 17 0 false (launchBody [(200, 17)])) lv) with | some (n, _) => n != 0 | none => false) = true
    ∧ (match lv.hostSpan (lv.part 0) (lv.queueAsid (lv.part 0) 2) .write 3 0x10000800 24 [] with | .ok p => p.length == 24 | _ => false) = true
    ∧ (match lv.hostSpan (lv.part 0) (lv.queueAsid (lv.part 0) 2) .read 3 0x10000800 16 [] with | .ok p => p.length == 16 | _ => false) = true := by
  decide +kernel

/-- A state with queue 2's LAUNCH at its head. -/
def atHead : State := match execLaunch 2 (placed (record 1 2 17 0 false (launchBody [])) lv) with | .next t => t | _ => State.reset

/-- LaunchAdmit's hypotheses, but for the address space. -/
def headB (s : State) : Bool :=
  let x := s.lq 2
  match x.head with
  | some (n, r, _) => x.part == some 0 && !x.halt && !x.cancels.contains n && r.deps.all (s.depMet (s.part 0) (s.queueAsid (s.part 0) 2)) && decide (s.nadm 2 < 16)
  | none => false

/-- Scheduling, admission: into an address space, and without one. -/
theorem wit_LaunchAdmit : headB atHead = true ∧ (atHead.asRoot (atHead.part 0) (atHead.queueAsid (atHead.part 0) 2)).isSome = true
    ∧ (let s := pt (fun p => { p with nas := 0 }) atHead; headB s = true ∧ (s.asRoot (s.part 0) (s.queueAsid (s.part 0) 2)).isNone = true) := by
  decide +kernel

/-- The launch admitted, and a second core that has room for its team. -/
def admitted (twoCores : Bool) : State := match execLaunchAdmit 2 atHead with
  | .next s => if twoCores then { s with dies := tput s.dies 0 { s.die 0 with cen := 3 }, cores := tput s.cores 1 Core.init } else s
  | _ => State.reset

/-- Scheduling, a team that starts on the core where it is next. -/
theorem wit_TeamPlace : let s := admitted true
    (match s.cands.find? (fun c => c.lid == 1 && c.idx == 0 && c.rank == 0 && c.saved.isNone), tfind? s.launches 1 with
      | some c, some l => s.isNext c 1 && l.lr.tg == 1 && octetOk l.lr.w 0 | _, _ => false) = true := by decide +kernel

/-- Scheduling, a team that finds no room: for 256 clk where a team waits, and of class 3 for PTH clk. -/
theorem wit_NoRoom :
    let asked (s : State) (may : Cand → Bool) (ok : Group → Bool) : Bool :=
      s.cands.any fun c => c.lid == 1 && c.idx == 0 && may c && !s.hasRoom c && (s.teamsAt [0]).all (s.mayLeave c ok) && s.poolRoom (s.candPart c) (s.teamsAt [0])
    let s : State := { admitted false with roomless := [⟨1, 0, 0, 256⟩], cores := (admitted false).cores.take 1 }
    (let u := pth (fun p => { p with st := .waiting }) s; asked u u.mayClear Group.inWait = true ∧ u.teamsAt [0] = [0])
      ∧ (let u := pt (fun p => { p with pth := 100 }) { s with launches := s.launches.map fun (e : Nat × Launch) => (e.1, { e.2 with lr := { e.2.lr with pri := 3 } }) }
         asked u u.mayPreempt (fun g => g.pri == 0) = true) := by
  decide +kernel

/-- Scheduling, a group that the scheduler saves: one it stopped, and one stopped for a page whose fault records are all sent. -/
theorem wit_SaveComplete : (∀ h ∈ [Hold.saved, Hold.page], let s := grp (fun g => { g with stopped := true, hold := h }) (usr (.nop false))
      (tfind? s.groups 0).isSome = true ∧ (s.group 0).stopped = true ∧ (s.group 0).hold = h ∧ s.faultsSent (s.group 0) = true ∧ s.maySave 0 = true) := by
  decide +kernel

/-- The loaded program's team and group as saved ones (16 lanes, 16 vector registers): its frame's first word, and a path that is ready. -/
def savedTeam (team : Bool) : State :=
  let s := usr (.nop false)
  { s with groups := [], teams := tput s.teams 0 { s.team 0 with saved := team, spb := 1024 },
           saved := [⟨0x20000000, 16384, false, 0, { s.group 0 with fltBad := true }⟩] }.wnum 0x20000000 8 (1 + 2 ^ 16) |>.wnum 0x200000a0 8 1

/-- Scheduling, a saved team and a saved group that are restored; a member of a cluster whose core has faulted. -/
theorem wit_Restore : (let s := savedTeam true
       (s.team 0).saved = true ∧ (s.cluster (s.team 0).cluster).cores.length ≤ 1 ∧ (s.teamSaved 0).length = 1
         ∧ (match s.cands.find? (fun c => c.saved == some 0) with | some c => s.isNext c 0 | none => false) = true
         ∧ (s.teamSaved 0).all (fun v => octetOk (s.savedGroup v).w 0) = true
         ∧ (let u := { s with clusters := s.clusters.map fun (e : Nat × Cluster) => (e.1, { e.2 with cores := [0, 1] }),
                              cores := tput s.cores 0 { s.core 0 with faulted := true } }
            1 < (u.cluster (u.team 0).cluster).cores.length ∧ (u.core (u.team 0).core).faulted = true))
    ∧ (let s := savedTeam false
       (match s.saved with
         | [v] => s.wouldRun v && !(s.team v.team).saved && (s.team v.team).core == 0 && !(s.core 0).faulted && s.quadRoom 0 [(s.savedGroup v).ask]
             && octetOk (s.savedGroup v).w 0
         | _ => false) = true) := by decide +kernel

/-- The state after a load of lane 0 from a page that is not there. -/
def faulted : State :=
  let i : Instr := .ldg H ⟨.w, false, .lane, .gp, .rlx, 0⟩ 3 4
  match exec i (at4 0x40000000 0x40000008 (u2 i)) with | .next t => t | _ => State.reset

/-- FaultService: a record to be sent with room in the ring, and none; a reply to a sent record, to none, and none. -/
theorem wit_FaultService : (tfind? faulted.parts 0).isSome = true
    ∧ ((faulted.part 0).faults.map fun f => (f.fid, f.va, f.sent)) = [(0, 0x40000000, false)]
    ∧ (let p := faulted.part 0; (faulted.rnum p.fra 8 + 2 ^ 64 - faulted.rnum (p.fra + 8) 8) % 2 ^ 64 < p.frc
        ∧ (let s := faulted.wnum p.fra 8 p.frc; p.frc ≤ (s.rnum p.fra 8 + 2 ^ 64 - s.rnum (p.fra + 8) 8) % 2 ^ 64)
        ∧ faulted.rnum p.rra 8 = faulted.rnum (p.rra + 8) 8)
    ∧ (let s := pt (fun p => { p with faults := p.faults.map fun f => { f with sent := true } }) faulted
       let p := s.part 0
       let reply (fid act : Nat) : State := ((s.wnum p.rra 8 1).wnum (p.rra + 64) 4 fid).wnum (p.rra + 68) 4 act
       let named (s : State) : Bool := ((s.part 0).faults.find? fun f => f.fid == s.rnum (p.rra + 64) 4 && f.sent).isSome
       ∀ x ∈ [(0, 1), (0, 2), (9, 1)], let u := reply x.1 x.2
         u.rnum p.rra 8 ≠ u.rnum (p.rra + 8) 8 ∧ named u = decide (x.1 = 0) ∧ bits (u.rnum (p.rra + 68) 4) 0 2 = x.2) := by decide +kernel

/-- A management record of the session, next in sequence. -/
def mrec (code size : Nat) (body : List Byte) (s : State) : State :=
  let l := live s
  { l with tp := { l.tp with mgmt := [record code 0 size 6 true body] } }

/-- Whether the next management record fits its code, its size and its listed body. -/
def fitsB (s : State) (code size : Nat) (listed : List (Nat × Nat)) : Bool :=
  match s.tp.mgmt with
  | r :: _ => (recHdr r).code == code && (recHdr r).lq == 0 && !(recHdr r).res && (recHdr r).rseq == s.tp.rseq && bodyOk r size listed
  | [] => false

/-- A loaded program's module without the program. -/
def idle : State := { usr (.nop false) with groups := [], teams := [], launches := [], clusters := [] }

/-- A descriptor of partition 1 on die 1 with skein 1 at 0x30000000, its control block at 0x30001000. -/
def descriptor (s : State) : State :=
  (s.wnum 0x30000000 96 (fields [(0, 1), (8, 2), (16, 2), (48, 1), (64, 0x30001000), (128, 0x30002000), (192, 0x30003000), (256, 256), (320, 0x30004000),
    (384, 256), (448, 0x30005000), (512, 8)])).wnum 0x30001000 128 (fields [(0, 1), (16, 64), (128, 0x30006000), (192, 0x30007000), (256, 1024),
    (320, 0x30008000), (384, 0)])

/-- ManagementRecords, PCREATE: a descriptor that may be placed, and a misaligned address. -/
theorem wit_Pcreate : (let s := mrec 16 2 (leBytes 8 0x30000000) (descriptor (usr (.nop false)))
       fitsB s 16 2 [(0, 8)] = true ∧ s.present 0x30000000 128 = true ∧ s.descriptorOk 0x30000000 = true ∧ s.taken 0x30000000 = false
         ∧ s.dfld 0x30000000 64 64 = 0x30001000 ∧ s.present 0x30001000 128 = true ∧ s.pcbOk 0x30001000 = true)
    ∧ fitsB (mrec 16 2 (leBytes 8 5) lv) 16 2 [(0, 8)] = true := by decide +kernel

/-- ManagementRecords, the others. -/
theorem wit_Management : (let s := mrec 17 2 (leBytes 8 0) idle; fitsB s 17 2 [(0, 1)] = true ∧ (tfind? s.parts 0).isSome = true ∧ s.partBusy 0 = false)
    ∧ (let s := mrec 17 2 (leBytes 8 0) (usr (.nop false)); fitsB s 17 2 [(0, 1)] = true ∧ s.partBusy 0 = true)
    ∧ (let s := mrec 21 2 (leBytes 8 5) { lv with recalls := [⟨5, 64, 0, false, 0x12345000, 4096⟩] }
       fitsB s 21 2 [(0, 8)] = true ∧ s.recalls.any (fun y => y.id == 5 && !y.acked) = true)
    ∧ fitsB (mrec 22 3 (List.replicate 32 7) lv) 22 3 [(0, 32)] = true
    ∧ (let s := mrec 23 2 (leBytes 8 0) lv; fitsB s 23 2 [(0, 1)] = true ∧ (tfind? s.dies 0).isSome = true ∧ (s.die 0).resetting = false)
    ∧ fitsB (mrec 24 1 [] lv) 24 1 [] = true
    ∧ (∀ v ∈ [0, 1], let s := mrec 25 3 ([3#8, BitVec.ofNat 8 v, 5, 0, 0, 0, 0, 0] ++ leBytes 8 7 ++ leBytes 8 (2 ^ 30)) lv
       fitsB s 25 3 [(0, 3), (8, 2), (16, 8)] = true ∧ s.parts.any (fun y => y.2.rsk.testBit 3) = false)
    ∧ (let s := mrec 18 3 ([2, 0, 0, 0] ++ leBytes 4 7 ++ leBytes 8 0x20000000 ++ leBytes 8 65536) lv
       fitsB s 18 3 [(0, 1), (4, 4), (8, 8), (16, 8)] = true ∧ (s.lq 2).part = some 0 ∧ s.paIn (s.part 0) 0x20000000 = true
         ∧ s.paIn (s.part 0) 0x2000ffff = true ∧ s.present 0x20000000 65536 = true)
    ∧ fitsB (mrec 19 2 ([2, 0, 0, 0, 0, 0, 0, 0] ++ leBytes 8 7) lv) 19 2 [(0, 1), (8, 8)] = true := by decide +kernel

/-- ManagementRecords, CANCEL: of a launch under way, of one that has gone by, of one to come. -/
theorem wit_Cancel : (let s := mrec 20 2 (leBytes 8 0 ++ leBytes 8 0) (usr (.nop false))
       fitsB s 20 2 [(0, 1), (8, 8)] = true ∧ (s.launches.find? fun e => e.2.lq == 0 && e.2.rseq == 0).isSome = true)
    ∧ (let s := mrec 20 2 (leBytes 8 2 ++ leBytes 8 0) lv
       let t := s.setLq 2 { s.lq 2 with next := 3 }
       fitsB t 20 2 [(0, 1), (8, 8)] = true ∧ (t.launches.find? fun e => e.2.lq == 2 && e.2.rseq == 0).isNone = true ∧ 0 < (t.lq 2).next)
    ∧ (let s := mrec 20 2 (leBytes 8 2 ++ leBytes 8 9) lv
       fitsB s 20 2 [(0, 1), (8, 8)] = true ∧ (s.launches.find? fun e => e.2.lq == 2 && e.2.rseq == 9).isNone = true ∧ (s.lq 2).next ≤ 9
         ∧ (s.lq 2).cancels.contains 9 = false) := by decide +kernel

/-- ModuleEvents, the dies and the lost requests: a die without groups to be reset, one with an engine's command; an outstanding remote load and
store; answers of the generation and of an older one. -/
theorem wit_ModuleEvents : State.reset.up = false ∧ (usr (.nop false)).up = true
    ∧ (let s := { idle with dies := tput idle.dies 0 { idle.die 0 with resetting := true } }
       (s.die 0).resetting = true ∧ s.dieGroups 0 = [] ∧ s.dieBusy 0 = false
         ∧ (let u := { s with engs := active.engs }; u.dieGroups 0 = [] ∧ u.dieBusy 0 = true))
    ∧ (let s := pth (fun p => { p with pend := [⟨.ld, .s 4 5, 0, 0, [(2, 2 ^ 51 + 8)], 0⟩] }) (usr (.nop false))
       ((s.group 0).pendOf 0).map (·.remote) = [[(2, 2 ^ 51 + 8)]] ∧ (s.group 0).stopped = false ∧ (s.group 0).ctl = false)
    ∧ (let s := grp (fun g => { g with sbuf := [⟨false, [], 1, [(.gpa (2 ^ 47 * 16 + 5), 3)]⟩] }) (usr (.nop false))
       (s.group 0).sbuf.map (fun a => a.cells.map fun c => c.1) = [[.gpa (2 ^ 51 + 5)]])
    ∧ (let s := usr (.nop false); (tfind? s.dies 0).map (·.rgen) = some 0 ∧ firmwareBytes ≤ 0x10000000 ∧ s.present 0x10000000 8 = true) := by decide +kernel

/-- SHA-512 of "abc", as FIPS 180-4's example gives it. -/
theorem test_sha512 : sha512 (leBytes 3 0x636261) = leBytes 64
    0x9fa44ca54fc99a2a0ee83c6423444d45bdebfea3233cba36a8c14f272a9992219ad3554be6ee9e0aa27ea9894efae612314120ae497341ccba7a6193a135afdd := by decide +kernel

/-- A board with a firmware image of four bytes, signed with the key of RFC 8032's first test. -/
def board : Board :=
  let key := leBytes 32 0x1a5107f7681a02af2523a6daf372e10e3a0764c9d3fe4bd5b70ab18201985ad7
  let body := leBytes 4 0x04030201
  { cen := List.replicate 8 (2 ^ 88 - 1), sen := List.replicate 8 (2 ^ 64 - 1), keyHash := [sha512 key], revoked := 0, rollback := 0,
    image := ⟨4, 0, 0, key, sha512 body, leBytes 64
      0x01d773e3842778ba383e58f681fa69f8bc10b7674340ddf63d1346fc4690f38df7abe06a636a437c100ea7b90309f484cacc6fa9485570e575d7c7da65497f04, body⟩,
    rom := [], skcap := List.replicate 8 (2 ^ 36) ++ List.replicate 8 (2 ^ 38), serial := 1, fwver := 1, qta := 8192, mra := 4096, ok := true }

/-- The signature that RFC 8032's equations give, in either form of its test; with one bit changed it is refused. -/
theorem test_signature : boardAccepts board 0 = true
    ∧ boardAccepts { board with image := { board.image with sig := leBytes 64 (leNat board.image.sig + 2 ^ 300) } } 0 = false := by
  unfold boardAccepts ed25519Verify
  cases Config.edCofactor <;> decide +kernel

/-- ModuleEvents, POWER_GOOD: a board that is accepted, sound and passes its tests. -/
theorem wit_PowerGood : State.reset.up = false ∧ boardAccepts board State.reset.rollback = true ∧ boardSound board = true ∧ board.ok = true :=
  ⟨by decide +kernel, test_signature.1, by decide +kernel, rfl⟩

/-! ## Results, worked out in the spec's examples or by hand from its rules -/

/-- The vector registers from lane 0 up hold values. -/
def vals (l : List (Nat × List Nat)) (s : State) : State :=
  grp (fun g => { g with vreg := l.foldl (fun t e => ((List.range e.2.length).zip e.2).foldl (fun t x => tset 0#32 t (e.1 * 64 + x.1) (BitVec.ofNat 32 x.2)) t) g.vreg }) s

/-- An 8-lane group whose active lanes are the bits of `m`. -/
def eight (m : Nat) (i : Instr) : State := pth (fun p => { p with mask := BitVec.ofNat 64 m }) (grp (fun g => { g with w := 8 }) (usr i))

/-- A vector register's first lanes. -/
def lanes (t : State) (r n : Nat) : List Nat := (List.range n).map fun l => (t.grp.lane r l).toNat

/-- `sadd` wraps modulo 2^64 (06 R172). -/
theorem test_sadd_wraps : after (exec (.sadd false 6 4 (.reg 5)) (s45 (BitVec.ofNat 64 (2 ^ 64 - 1)) 2 (usr (.sadd false 6 4 (.reg 5)))))
    (fun t => t.grp.sreg.any fun e => e == (6, 1#64)) = true := by decide +kernel

/-- `smulh` of -1 and 1 is the high half of -1 (06 R172). -/
theorem test_smulh_sign : after (exec (.smulh false 6 4 (.reg 5)) (s45 (BitVec.ofNat 64 (2 ^ 64 - 1)) 1 (usr (.smulh false 6 4 (.reg 5)))))
    (fun t => t.grp.sreg.any fun e => e == (6, BitVec.ofNat 64 (2 ^ 64 - 1))) = true := by decide +kernel

/-- `bnz` with offset -5 (06, the example after R183): 40 bytes back where s3 is not 0, the next word where it is 0. -/
theorem test_bnz : (let s := usr (.bnz false 3 (BitVec.ofInt 23 (-5)))
       after (exec (.bnz false 3 (BitVec.ofInt 23 (-5))) (sregs [(3, 1)] s)) (fun t => t.pc == s.pc - 40) = true
         ∧ after (exec (.bnz false 3 (BitVec.ofInt 23 (-5))) s) (fun t => t.pc == s.pc + 8) = true) := by decide +kernel

/-- `vpush` (06, the example after R216). -/
theorem test_vpush : after (exec (.vpush H 9 1 2) (vals [(1, [10, 11, 12, 13, 14, 15, 16, 17]), (2, [3, 3, 4, 0, 3, 7, 7, 6]),
      (9, [100, 101, 102, 103, 104, 105, 106, 107])] (eight 0xef (.vpush H 9 1 2))))
    (fun t => t.pth.pend.map (·.res) == [.v 9 [(0, 13), (3, 11), (6, 17), (7, 16)]]) = true := by decide +kernel

/-- `vred` of FP32 sums as a balanced tree (06, the second example after R216): 16,777,218 and NX. -/
theorem test_vred_tree : after (exec (.vred H 2 1 .fadd) (vals [(1, [0x4b800000, 0x3f800000, 0x3f800000, 0x3f800000])] (eight 0xff (.vred H 2 1 .fadd))))
    (fun t => t.pth.pend.map (·.res) == [.s 2 0x4b800001] && bits t.grp.fps.toNat 0 6 == 2 ^ 4) = true := by decide +kernel

/-- `vclz` of a word, and of four bytes each on its own (06 R186). -/
theorem test_vclz : after (exec (.vclz H .w 3 1) (vals [(1, [0x00010000])] (u2 (.vclz H .w 3 1)))) (fun t => lanes t 3 2 == [15, 32]) = true
    ∧ after (exec (.vclz H .b 3 1) (vals [(1, [0x00010480])] (u2 (.vclz H .b 3 1)))) (fun t => lanes t 3 1 == [0x08070500]) = true := by decide +kernel

/-- FP32 470.0 to E4M3 (03, the example after R90): beyond 448 after rounding. -/
theorem test_fcvt_470 : (∀ x ∈ [(false, 0x7f, 0x14), (true, 0x7e, 0x30)], let i : Instr := .fcvt H x.1 .rne .e4m3 .f32 3 1
      after (exec i (vals [(1, [0x43eb0000])] (pth (fun p => { p with mask := 1#64 }) (usr i)))) (fun t => lanes t 3 1 == [x.2.1]) = true) := by decide +kernel

/-- `atom add` on one location by four lanes (07, the example after R235). -/
theorem test_atom_lanes : let i : Instr := .atom H ⟨.w, .lane, .gp, .rlx⟩ .add 5 12 8
    let s := pth (fun p => { p with mask := 0xf#64 }) ((usr i).wnum 0x10000800 4 10)
    after (exec i (vals [(12, List.replicate 4 0x10000800), (8, [1, 1, 1, 1])] s))
      (fun t => t.rnum 0x10000800 4 == 14 && t.pth.pend.map (·.res) == [.v 5 [(0, 10), (1, 11), (2, 12), (3, 13)]]) = true := by decide +kernel

/-- A sweep adds a bias to a row (06, the example after R207): lane 5 of iteration 2 writes 3,205 at 0x2214. -/
theorem test_sweep_row : let i : Instr := .vaddSweep H 4 5 6 3
    let s := sregs [(4, 0x2000), (5, 0x1000), (6, 0x3000)] (grp (fun g => { g with sc := 0x0002000401000100 }) (pth (fun p => { p with mask := 0x20#64 }) (usr i)))
    let s := old ((s.wlnum (.sp 0 0x1214) 4 205).wlnum (.sp 0 0x3008) 4 3000)
    after (exec i s) (fun t => after (exec (.sweepIteration 0 0) (pth (fun p => { p with swi := 2 }) t)) fun u => u.lnum (.sp 0 0x2214) 4 == 3205) = true := by
  decide +kernel

/-- `enc` (08, the example after R275): the first and the second outlier kept, the third clamped. -/
theorem test_enc : let i : Instr := .enc H false false 5 4
    let src := [(0, 0x3f800000), (1, 0x41180000), (2, 0xc0c00000), (3, 0x40a00000), (4, 0xbf400000)]
    let s := old <| src.foldl (fun (s : State) (x : Nat × Nat) => s.wlnum (.sp 0 (1024 + 4 * x.1)) 4 x.2) (fmt 0x0000802140800000#64 i)
    after (exec i s) (fun t => (List.range 32).map (fun k => leNat ((List.range 4).map fun j => t.gb 0 (.sp 0 (4096 + 4 * k + j))))
      == [0x00020281, 0x7d] ++ List.replicate 3 0 ++ [0x00007603] ++ List.replicate 23 0 ++ [0x20411810, 0x0000c0c0, 0]) = true := by decide +kernel

/-- `ecall`-like traps: `brk 7` with no handler stops the group with CAUSE 7, REASON 1, and INFO0 7 (13, the example after R398). -/
theorem test_brk : let i : Instr := .brk false 7
    after (exec i (usr i)) (fun t => (t.grp.trap.map fun r => (r.cause, r.reason, r.tpc.toNat, r.info0.toNat)) == some (7, 1, (usr i).pc.toNat, 7) && t.grp.stopped
      && t.grp.p0.pc == (usr i).pc + 8) = true := by decide +kernel

/-- `smm` on the block of the `enc` example (08, the example after R277): 4.5 in column 0 of the rows of active lanes, +0 in
column 1. -/
theorem test_smm : let i : Instr := .smm H .e4m3 false 1 2 16 9
    let block := [(0, 0x00020281), (1, 0x7d), (5, 0x00007603), (29, 0x20411810), (30, 0x0000c0c0)]
    let s := old <| block.foldl (fun (s : State) (x : Nat × Nat) => s.wlnum (.sp 0 (4096 + 4 * x.1)) 4 x.2) (sregs [(9, 4096)] (u2 i))
    let s := vals ([16, 17, 18, 19].map fun r => (r, List.replicate 2 0x38383838)) s
    after (exec i s) (fun t => [0, 1, 2].map (fun r => (t.grp.elem 2 r 0, t.grp.elem 2 r 1)) == [(0x40900000, 0), (0x40900000, 0), (0, 0)]) = true := by
  decide +kernel

/-! ### Words that are refused, traps, control -/

/-- What path 0 of group 0 fetches at its PC. -/
def fetch0 (s : State) : State × Except AFail (List Loc) :=
  ((({ s with chosen := [] } : State).at_ 0 0).setGrp { s.group 0 with lastPath := 0, idle := 0 }).gaccess 0 (((s.group 0).path 0).pc.toNat) 8 .fetch

/-- Group 0's path 0 is to issue in a step of the state. -/
def next0 (s : State) : Bool := s.agenda == [] && s.todo == [] && s.chosen == [0] && ({ s with chosen := [] } : State).choosePath 0 == some 0

/-- How a fetch ends: 0 with an instruction, 1 with a reason of the decoder and the reason in the group, 2 with no answer, 3 with a missing page, 4 with
a protection reason. -/
def fetchEnds (s : State) : Nat × Nat × Nat :=
  let f := fetch0 s
  match f.2 with
  | .ok ls =>
    if f.1.noAnswer 0 ls ≠ none then (2, 0, 0)
    else match decode (leNat (ls.map fun l => f.1.gb 0 l)) with
      | .ok _ => (0, 0, 0)
      | .bad r j => (1, r, f.1.badReason r j)
  | .error (.fail _ (.page _ _)) => (3, 0, 0)
  | .error (.fail _ (.prot r)) => (4, r, 0)
  | .error _ => (5, 0, 0)

/-- A sweep of a path, as another path meets it. -/
def sweeping : Sweep := { i := .vmovSweep H 3 4 5 1, em := 1#64, sc := 0, pr := 0, ad := 0, aa := 0, ab := 0, n := 1, at_ := 0, flags := [] }

/-- The other path of the group in focus is in a sweep. -/
def besideSweep (s : State) : State := other { runs with sweep := some sweeping } s

/-- RefusedWordTraps: an unassigned opcode; a bad run count in a group of 64 registers, where A lies beyond them; a fetch from a page that is not
there, from beyond the address space, without an answer; a refused word beside a sweep. -/
theorem wit_RefusedWordTraps : (let s := usrWord 0x3fec000000000000; next0 s = true ∧ fetchEnds s = (1, 1, 1) ∧ (s.group 0).sweeps = false)
    ∧ (let s := besideSweep (usrWord 0x3fec000000000000); next0 s = true ∧ fetchEnds s = (1, 1, 1) ∧ (s.group 0).sweeps = true)
    ∧ (let s := grp (fun g => { g with nv := 64 }) (usr (.smm H .bf16 false 0 1 200 6)); next0 s = true ∧ fetchEnds s = (1, 12, 11))
    ∧ (let s := pth (fun p => { p with pc := 0x40000000#64 }) (usr (.nop false)); next0 s = true ∧ fetchEnds s = (3, 0, 0))
    ∧ (let s := pth (fun p => { p with pc := BitVec.ofNat 64 (2 ^ 57) }) (usr (.nop false)); next0 s = true ∧ fetchEnds s = (4, 1, 0))
    ∧ (let s := grp (fun g => { g with deaf := some true }) (pt (fun p => { p with dies := 3 }) (usr (.nop false))); next0 s = true ∧ fetchEnds s = (2, 0, 0)) := by
  decide +kernel

/-- StepOrder is met by StepRunsDecodedWord's witnesses. WordsNotAvailable: a word of class 6 in the control group within its registers; `phreg` and
`pharr` on a scratchpad phaser and on one in global memory. -/
theorem wit_ControlGroupWords : (let i : Instr := .tzero H 0
      let s := grp (fun g => { g with nv := 16, nt := 16 }) (ctl i)
      s.grp.ctl = true ∧ isClass6 i = true ∧ qmmB s.grp.w i < 256 ∧ qmmB s.grp.w i < s.grp.nv ∧ (i.uses.r ++ i.uses.w).all (fun r => !s.grp.beyond r) = true)
    ∧ (∀ x ∈ [((2 ^ 63 + 256 : Nat), true), (256, false)], let h := BitVec.ofNat 64 x.1
        ((s45 h 0 (ctl (.phreg H 1 4 .sig))).rs 4).getLsbD 63 = x.2
          ∧ ((grp (fun g => g.setSlot 1 ⟨h, .sig, false, true, 0⟩) (ctl (.pharr H .gp 6 1))).grp.slot 1).h.getLsbD 63 = x.2) := by decide +kernel

/-- IllegalWordTraps: beside a sweep of the other path. SystemTraps: the control group of a core with a running user group whose team the pool has room
for. -/
theorem wit_TrapsBesideOthers : (let i : Instr := .vmov H 200 2
      let s := grp (fun g => { g with nv := 64 }) (besideSweep (usr i))
      s.canIssue = true ∧ s.tick.dynReason i ≠ 0 ∧ s.grp.ctl = false ∧ s.grp.sweeps = true)
    ∧ (let s := cu id (.nop false)
       let u := s.sysTrap 64 0 0 { cause := 1, reason := 12 }
       (s.group 64).ctl = true ∧ (tfind? u.groups 3).isSome = true ∧ (u.group 3).ctl = false ∧ (u.group 3).stopped = false
         ∧ u.poolRoom (u.group 3).part [(u.group 3).team] = true) := by decide +kernel

/-- UserTraps: own results outstanding at the word's address, of lanes alone; the control group, which has no handler. -/
theorem wit_UserTraps_own : (let g := (pth (fun p => { p with pend := [⟨.x, .v 3 [(0, 7), (1, 8)], p.pc, 0, [], 0⟩, ⟨.ld, .s 4 1, 0, 0, [], 0⟩] }) (usr (.nop false))).grp
      (g.path 0).pend.all (fun q => decide (q.tpc ≠ (g.path 0).pc) || (match q.res with | .s _ _ => false | _ => true)) = true
        ∧ (g.path 0).pend.filter (fun q => decide (q.tpc = (g.path 0).pc)) = [⟨.x, .v 3 [(0, 7), (1, 8)], (g.path 0).pc, 0, [], 0⟩])
    ∧ (ctl (.nop false)).grp.ctl = true ∧ (ctl (.nop false)).grp.hpc = 0 := by decide +kernel

/-- SpecialRegisters: each index whose value is listed, to a scalar register and to lanes. -/
theorem wit_SpecialRegisters : ([1, 2, 3, 4, 5, 6, 7, 9, 10, 11].all fun n => goes (usr (.srd false 5 n)) (.srd false 5 n)
    && goes (usr (.srdVector false 5 n)) (.srdVector false 5 n)) = true := by decide +kernel

/-- Join: a PC other than the one noted, at an entry and at a parked path; a parked path that runs the handler. -/
theorem wit_JoinTraps : let i : Instr := .join false
    let top (e : StackEnt) (s : State) : State := pth (fun p => { p with stack := [e] }) s
    goes (top ⟨0x10000080#64, 0xf#64, 0xff#64, some 8#64, true⟩ (usr i)) i = true
    ∧ (let s := other { parked with jpc := 8#64 } (usr i); goes s i = true ∧ s.pth.stack = [] ∧ (s.grp.path 1).st = .parked ∧ s.pc ≠ (s.grp.path 1).jpc)
    ∧ (let s := grp (fun g => { g with hpath := 1, uhc := 2 }) (other parked (usr i)); goes s i = true ∧ s.pc = (s.grp.path 1).jpc) := by decide +kernel

/-- Exit: an entry whose other lanes have not run, one with lanes left past a `join`, one passed over on the way to another; no entry left, where
the handler's path ends, where the group ends, in a team of two and of one. -/
theorem wit_ExitStack : let i : Instr := .exit false
    let ent (full : Mask) (j : Option W64) (b : Bool) : StackEnt := ⟨0x10000080#64, full, full, j, b⟩
    let at_ (l : List StackEnt) : State := pth (fun p => { p with stack := l, mask := 3#64 }) (usr i)
    let gone (s : State) : Mask := s.pth.mask ||| ~~~s.pth.owned
    (let s := at_ [ent 0xc#64 none false]; goes s i = true ∧ s.grp.rsd = 0)
    ∧ (let s := at_ [ent 0xf#64 (some 8#64) true]; goes s i = true ∧ 0xf#64 &&& ~~~gone s ≠ 0#64)
    ∧ (let s := at_ [ent 3#64 none true, ent 0xc#64 none false]
       goes s i = true ∧ (exitUnwind (gone s ||| (3#64 &&& ~~~gone s)) [ent 0xc#64 none false]).isSome = true)
    ∧ (let s := at_ [ent 3#64 none true]; goes s i = true ∧ exitUnwind (gone s) s.pth.stack = none ∧ (s.grp.path 1).st = .free ∧ s.grp.pends = [])
    ∧ (let s := grp (fun g => { g with uhc := 1, hpath := 0 }) (other runs (usr i))
       goes s i = true ∧ exitUnwind (gone s) s.pth.stack = none ∧ (s.grp.path 1).st ≠ .free ∧ s.grp.uhc ≠ 0 ∧ s.grp.hpath = s.fpath)
    ∧ (let s := pth (fun p => { p with pend := [⟨.ld, .v 4 [(0, 1)], 0, 0, [], 0⟩] }) (usr i)
       goes s i = true ∧ exitUnwind (gone s) s.pth.stack = none ∧ s.grp.pends ≠ [])
    ∧ (let s := (usr i).setTeam 0 { (usr i).team 0 with tg := 2 }
       goes s i = true ∧ exitUnwind (gone s) s.pth.stack = none ∧ s.grp.ctl = false ∧ (tfind? s.teams s.grp.team).isSome = true
         ∧ (s.team s.grp.team).ended.length + 1 < (s.team s.grp.team).tg) := by decide +kernel

/-- BreakAndReturn: `brk` without a handler and inside one; own results outstanding. -/
theorem wit_BreakWithout : goes (usr (.brk false 7)) (.brk false 7) = true ∧ (usr (.brk false 7)).grp.hpc = 0
    ∧ (let s := grp (fun g => { g with uhc := 2 }) (hpc (.brk false 7)); goes s (.brk false 7) = true ∧ s.grp.uhc ≠ 0) := by decide +kernel

/-! ### Vector flags and memory -/

/-- EnabledFlagTraps: `frcp` of 0 and a sum that overflows, with a handler; an overflow without one. -/
theorem wit_EnabledFlagTraps_more : (∀ x ∈ [(Instr.frcp H 3 4, 0#32), (.vred H 3 4 .fadd, 0x7f7fffff#32)],
      let s := grp (fun g => { g with fps := 0x3f00#64, vreg := tset 0#32 (tset 0#32 g.vreg 256 x.2) 257 x.2 }) (hpc x.1)
      goes s x.1 = true ∧ s.grp.hpc ≠ 0 ∧ s.grp.uhc = 0 ∧ s.pth.pend = [] ∧ after (exec x.1 s) (fun t => tget 0#64 t.grp.sreg 121 == 3#64) = true)
    ∧ (let i : Instr := .fadd H false .rne 3 4 4
       let s := grp (fun g => { g with fps := 0x3f00#64, vreg := tset 0#32 g.vreg 256 0x7f7fffff#32 }) (u2 i)
       goes s i = true ∧ s.grp.hpc = 0 ∧ s.grp.ctl = false ∧ s.grp.sweeps = false ∧ after (exec i s) (fun t => t.grp.stopped) = true) := by decide +kernel

/-- A release of another group at a byte of memory, and the value that it replaced. -/
def released (s : State) : State :=
  let l := Loc.gpa 0x10000800
  { s with hist := [⟨l, 0, 3⟩], now := 5, rels := [⟨l, { s.who s.grp with gid := 9 }, .dev, 3, none, false⟩] }

/-- ReadValues: a byte that nothing has written lately, one whose older value is still readable, one of the group's own; an acquire of a release. -/
theorem wit_ReadValues : let s := released (usr (.nop false))
    let l := [Loc.gpa 0x10000800]
    (s.group 0).drainsFor (fun _ => true) true l = false
      ∧ (∀ x ∈ [0x10000800, 0x10000900], ((s.hist.filter fun h => h.loc = .gpa x).all fun h => decide (h.till ≤ (s.group 0).obs.from_ [.gpa x])) = decide (x ≠ 0x10000800))
      ∧ (let g := { (s.group 0) with obs := (s.group 0).obs.saw l 3 }
         (s.hist.all fun h => decide (h.till ≤ g.obs.from_ l)) = true)
      ∧ (s.rels.all fun q => l.contains q.loc && decide (q.start ≤ s.now) && q.till.isNone && covers q.scp q.who (s.who (s.group 0))
          && covers .dev (s.who (s.group 0)) q.who) = true
      ∧ (∀ b ∈ [true, false], ((pend2 b).group 0).drainsFor (fun _ => true) false [.gpa 0x2000000] = false) := by decide +kernel

/-- AtomicValue: an acquiring atomic that meets that release. -/
theorem wit_AtomicValue : let s := released (usr (.nop false))
    (tfind? s.groups s.focus).isSome = true ∧ (s.rels.all fun q => ((List.range 4).map fun i => Loc.gpa (0x10000800 + i)).contains q.loc
      && decide (q.start ≤ s.now) && q.till.isNone && covers q.scp q.who (s.who s.grp) && covers .dev (s.who s.grp) q.who) = true := by decide +kernel

/-- The loaded team's cluster has a second member, which has not started. -/
def twoMembers (s : State) : State := { s with clusters := tput s.clusters 0 { s.cluster 0 with cores := [0, 1] } }

/-- An address of that member's scratchpad, through the window. -/
def win1 (a : Nat) : Nat := a + 2 ^ 22 + 2 ^ 23

/-- Loads: data that memory reports as uncorrectable; a member's scratchpad that has not started. LoadsAndStores: a lost remote write that a store
does not wait for. -/
theorem wit_Loads_more : (let i : Instr := .ldg H (mm .w .lane .rlx) 6 4
      let s := { at4 (2 ^ 28) (2 ^ 28 + 4) (u2 i) with poison := [2 ^ 28 / 128] }
      goes s i = true ∧ okB (chk s true .read (mm .w .lane .rlx)) = true ∧ s.grp.ctl = false ∧ s.grp.sweeps = false
        ∧ (match (chk s true .read (mm .w .lane .rlx)) with | (u, .ok l) => l.any fun x => x.2.any u.poisoned | _ => false) = true)
    ∧ (∀ x ∈ [(Instr.lds H (mm .w .lane .rlx) 6 4, AKind.read), (.sts H (mm .w .lane .rlx) 6 4, .write)],
       let s := twoMembers (at4 (win1 512) (win1 516) (u2 x.1))
       goes s x.1 = true ∧ (match (chk s false x.2 (mm .w .lane .rlx)).2 with | .stall _ r => r == 1 | _ => false) = true) := by decide +kernel

/-- ReadOnlyLoads: a line that is new enough, one filled before the group's last `rinv` and acquire, none; a host-biased page and another. -/
theorem wit_ReadOnlyLines : let at_ (n : Nat) (s : State) : State := s.setCore 0 { Core.init with ro := [⟨5, n, List.replicate 128 0⟩] }
    let s := grp (fun g => { g with obs := { g.obs with rofloor := 3 } }) (usr (.nop false))
    (((at_ 3 s).core 0).ro.find? fun x => x.line == 5).map (fun e => decide ((at_ 3 s).grp.obs.rofloor ≤ e.at_)) = some true
      ∧ (((at_ 2 s).core 0).ro.find? fun x => x.line == 5).map (fun e => decide ((at_ 2 s).grp.obs.rofloor ≤ e.at_)) = some false
      ∧ ((s.core 0).ro.find? fun x => x.line == 5) = none ∧ s.hist = []
      ∧ (let b (pte : W64) : State := s.setDie 0 { s.die 0 with tlb := [⟨0, 0, 0x10000000, 65536, pte⟩] }
         (b 0x5f#64).hostBiased 0 0x10000000 = true ∧ (b 0x7f#64).hostBiased 0 0x10000000 = false ∧ s.hostBiased 0 0x10000000 = false) := by decide +kernel

/-- Atomics: a reduction that gets no answer. -/
theorem wit_LostReduction : let i : Instr := .red H ⟨.w, .lane, .dev, .rlx⟩ .add 4 8
    let s := grp (fun g => { g with deaf := some true }) (pt (fun p => { p with dies := 3 }) (at4 (2 ^ 28) (2 ^ 28) (u2 i)))
    goes s i = true ∧ s.grp.lostRemote = none
      ∧ (match s.tick.check s.focus true true .rmw (s.tick.accs true .lane 4 0 4 (s.tick.em H)) with
          | (u, .ok l) => !l.isEmpty && l.all fun x => (match x.2 with | .gpa _ :: _ => true | _ => false) && (u.noAnswer s.focus x.2).isSome
          | _ => false) = true := by decide +kernel

/-- FencesAndPrefetch: a fence of the group's pending accesses, a lost remote write, outstanding loads, releases that its reads returned and full fences
of others. -/
theorem wit_Fences_more : (let s := (usr (.fence false .dev .rel)).pushStore 1#64 [(.gpa 0x10000800, 1)]
      s.canIssue = true ∧ s.tick.dynReason (.fence false .dev .rel) = 0 ∧ (s.grp.sbuf.any fun x => x.unseen .dev) = true)
    ∧ (let i : Instr := .fence false .sys .ar
       let s := grp (fun g => { g with lostRemote := some 5 }) (usr i)
       goes s i = true ∧ s.grp.ctl = false ∧ s.grp.sweeps = false)
    ∧ (let s := pth (fun p => { p with pend := [⟨.ld, .v 4 [(0, 1)], 0, 0, [], 0⟩] }) (usr (.wcnt false .ld 0))
       s.canIssue = true ∧ s.tick.dynReason (.wcnt false .ld 0) = 0 ∧ 0 < s.pth.count .ld)
    ∧ (let s := released (usr (.fence false .dev .ar))
       let u := { grp (fun g => { g with obs := { g.obs with heard := s.rels } }) s with fences := [⟨{ s.who s.grp with gid := 9 }, .dev, 4⟩] }
       goes u (.fence false .dev .ar) = true ∧ (u.grp.obs.heard.all fun r => covers .dev (u.who u.grp) r.who) = true
         ∧ (u.fences.all fun f => covers f.scp f.who (u.who u.grp) && covers .dev (u.who u.grp) f.who) = true) := by decide +kernel

/-! ### Phasers, sections, queues, streams -/

/-- PhaserArithmetic: delivered bytes that leave COUNT, that flip and go on, and none. -/
theorem wit_PhaserBytes : 0 < 1 ∧ 1 < p0.count ∧ p0.ah.getD 0 0 < p0.nsig
    ∧ (let p := { p0 with count := 2, nsig := 4 }; 0 < p.count ∧ p.ah.getD 0 0 < p.nsig ∧ 1 < p.nsig - p.ah.getD 0 0) := by decide +kernel

/-- PhaserWords, the stops: a malformed handle, one that no page maps, one of a member that has not started; a phaser that is full, a core that holds 128;
slots in use, free, never used; malformed tokens; a member phase that is not the phaser's. -/
theorem wit_PhaserStops : (let i : Instr := .phinit H 4 5
      let at_ (hd : Nat) (b : Nat) : State := s45 (BitVec.ofNat 64 hd) (BitVec.ofNat 64 b) (twoMembers (u2 i))
      let place (s : State) : Checked := (s.tick.check s.focus (!(s.tick.rs 4).getLsbD 63) true .write [⟨0, bits (s.tick.rs 4).toNat 0 57, 32⟩]).2
      goes (at_ (2 ^ 58) 2) i = true ∧ (handleReason ((at_ (2 ^ 58) 2).tick.rs 4)).isSome = true
        ∧ goes (at_ 0x40000000 2) i = true ∧ handleReason ((at_ 0x40000000 2).tick.rs 4) = none
        ∧ (match place (at_ 0x40000000 2) with | .trap _ => true | _ => false) = true
        ∧ goes (at_ (2 ^ 63 + win1 256) 2) i = true ∧ handleReason ((at_ (2 ^ 63 + win1 256) 2).tick.rs 4) = none
        ∧ (match place (at_ (2 ^ 63 + win1 256) 2) with | .stall _ _ => true | _ => false) = true
        ∧ goes (at_ 0x10000100 65536) i = true ∧ 65535 < ((at_ 0x10000100 65536).tick.rs 5).toNat)
    ∧ (let i : Instr := .phinit H 4 5
       let s (n : Nat) : State := let z := s45 (BitVec.ofNat 64 (2 ^ 63 + 256)) 2 (u2 i); z.setTeam 0 { z.team 0 with phasers := (List.range n).map fun k => 512 + 32 * k }
       ∀ n ∈ [0, 127, 128], goes (s n) i = true ∧ (s n).phaserSlots ((s n).team 0).core = n ∧ 256 ∉ ((s n).team 0).phasers)
    ∧ (let s := ph (.phreg H 1 4 .sig) free1 { p0 with nfree := 0, nsig := 65535 }
       goes s (.phreg H 1 4 .sig) = true ∧ found s hnd .rmw = true ∧ (s.phaser (.gpa 0x10000100)).nfree = 0
         ∧ (s.phaser (.gpa 0x10000100)).nsig + (s.phaser (.gpa 0x10000100)).nadd = 65535 + (s.phaser (.gpa 0x10000100)).ndrop)
    ∧ goes (ph (.phreg H 1 4 .sig) (reg1 .sig 5) p0) (.phreg H 1 4 .sig) = true
    ∧ ([Instr.phdrop H 1, .pharr H .gp 6 1, .pharw H .gp 6 1].all fun i => goes (ph i free1 p0) i) = true
    ∧ (let s := ph (.phdrop H 1) (reg1 .sig 6) p0; goes s (.phdrop H 1) = true ∧ found s hnd .rmw = true ∧ (s.grp.slot 1).mp ≠ (s.phaser (.gpa 0x10000100)).phase)
    ∧ (let i : Instr := .phwait H .gp 4
       (∀ v ∈ [5, 2 ^ 63 + 2 ^ 35 + 5], goes (s45 (BitVec.ofNat 64 v) 0 (ph i free1 p0)) i = true)
         ∧ goes (tok 5 (ph i free1 p0)) i = true ∧ ((tok 5 (ph i free1 p0)).grp.slot (bits ((tok 5 (ph i free1 p0)).tick.rs 4).toNat 32 3)).ever = false) := by
  decide +kernel

/-- PhaserWords: `pharw` of a slot that only waits, and of one whose arrival ends its phase; PhaserArrivals: a waiter that goes on. -/
theorem wit_PhaserWaits : (let i : Instr := .pharw H .gp 6 1
      let told (s : State) : State × W64 := let v := s.tick.performAll 0; let r := v.arriveSlot 0 1 (.gpa 0x10000100) .gp; ((r.1.ws 6 r.2).wakeAt (.gpa 0x10000100), r.2)
      (let s := ph i (reg1 .wait 5) p0
       goes s i = true ∧ found s hnd .rmw = true ∧ ((told s).1.phaser (.gpa 0x10000100)).ended (told s).2.toNat = false)
      ∧ (let s := ph i (reg1 .sigwait 5) { p0 with count := 1 }
         goes s i = true ∧ found s hnd .rmw = true ∧ ((told s).1.phaser (.gpa 0x10000100)).ended (told s).2.toNat = true))
    ∧ (let w : Wait := ⟨1, phToken 4 1, 0, 0, 0, some (.gpa 0x10000100), .gp, 0⟩
       let s := pth (fun p => { p with st := .waiting, wait := some w }) (ph (.nop false) (reg1 .sigwait 5) p0)
       s.waiters = [(0, 0)] ∧ ((s.group 0).path 0).wait = some w ∧ s.phWakes (.gpa 0x10000100) 0 0 = true ∧ s.phWakes (.gpa 0x20000000) 0 0 = false) := by decide +kernel

/-- TokenWords: `twait.y` of a token that runs. ReadSections: the stops of `dfree`, and a full queue outside a section and in one; the end of a section
with a store pending, and one that a key-cache command keeps. -/
theorem wit_Sections_more : (let s := s45 (mkToken 0 1 3 7) 0 (slot3 0 (u2 (.twaitY H .gp 6 4 5))); goes s (.twaitY H .gp 6 4 5) = true)
    ∧ (let i : Instr := .dfree H 4 5
       let full (n : Nat) : State := grp (fun g => { g with rsd := n }) (pt (fun p => { p with dfqc := 1, dfq := [⟨0, 0, 0, 0, 0⟩] }) (s45 0x11000040 0x50003 (pool3 (u2 i))))
       goes (s45 0x12345678 0x50003 (pool3 (u2 i))) i = true ∧ (s45 0x12345678 0x50003 (pool3 (u2 i))).tick.dfreeReason 0x12345678 0x50003 ≠ 0
         ∧ goes (full 1) i = true ∧ ((full 1).part 0).dfqFull = true ∧ (full 1).tick.dfreeReason ((full 1).tick.rs 4) ((full 1).tick.rs 5) = 0
         ∧ (full 0).canIssue = true ∧ (full 0).tick.dynReason i = 0 ∧ ((full 0).part 0).dfqFull = true
         ∧ (full 0).tick.dfreeReason ((full 0).tick.rs 4) ((full 0).tick.rs 5) = 0
         ∧ (let e := u2 (.dfree ⟨12, true, false⟩ 4 5); goes e (.dfree ⟨12, true, false⟩ 4 5) = true ∧ e.tick.em ⟨12, true, false⟩ = 0#64))
    ∧ (let s := grp (fun g => { g with rsd := 1 }) ((usr (.rse false)).pushStore 1#64 [(.gpa 0x10000800, 1)])
       goes s (.rse false) = true ∧ s.grp.ends = [] ∧ s.grp.sbuf ≠ [])
    ∧ (let s := grp (fun g => { g with rsd := 1, sec := 4 }) (cmdWith (fun c => { c with sec := some (4, false) }) active)
       (s.secCore s.grp.sec).isSome = true ∧ s.grp.ends = [] ∧ s.grp.sbuf = [] ∧ s.grp.liveStreams = []) := by decide +kernel

/-- WaitingPops: a waiting pop of the loaded group. -/
theorem wit_WaitingPops : let x : Wait := ⟨5, 5, 0, 6, 9, none, .cl, 0⟩
    let s := pth (fun p => { p with st := .waiting, wait := some x }) (usr (.nop false))
    s.findGroup s.grp.lid s.grp.team s.grp.gid = some 0 ∧ ((s.group 0).path 0).wait = some x := by decide +kernel

/-- TileQueueWords: pop and the two closes of another partition's queue. CommandWords: a block outside the allocation; no slot left, in either way. -/
theorem wit_Queues_more : (∀ i ∈ [Instr.tqpop H .cl 6 4 9, .tqclose H .cl 4, .tqcloseOpen H .cl 4],
      goes (tq5 1 ⟨true, false, 3, 5, [], [], none⟩ i) i = true ∧ (tq5 1 ⟨true, false, 3, 5, [], [], none⟩ i).tick.ownQueue ((tq5 1 ⟨true, false, 3, 5, [], [], none⟩ i).tick.rs 4) = none)
    ∧ (let i : Instr := .gath H 6 4
       let s := s45 (BitVec.ofNat 64 (2 ^ 19 - 63)) 0 (u2 i)
       goes s i = true ∧ s.tick.cmdReason (s.tick.rs 4) ≠ 0)
    ∧ (let i : Instr := .gath H 6 4
       let s (st : Nat) : State := (List.range 64).foldl (fun (t : State) n => t.setEng (slotKey 0 1 n) { t.eng (slotKey 0 1 n) with used := true, held := true, status := st })
         (s45 512 0 (u2 i))
       goes (s 1) i = true ∧ (s 1).tick.cmdReason ((s 1).tick.rs 4) = 0 ∧ (s 1).tick.slotRule 1 = .exhausted
         ∧ (s 0).canIssue = true ∧ (s 0).tick.dynReason i = 0 ∧ (s 0).tick.cmdReason ((s 0).tick.rs 4) = 0 ∧ (s 0).tick.slotRule 1 = .hold) := by decide +kernel

/-- Streams: elements of 8 bytes into an even, an odd and a last register; a fault that a popped element carries; a descriptor outside, misaligned and
malformed. -/
theorem wit_Streams_more : (∀ d ∈ [6, 7, 255], let i : Instr := .spop H d 2
      let s := grp (fun g => { g with streams := tset Stream.init g.streams 2 { (g.stream 2) with desc := leBytes 64 (6 + 2 ^ 8 * 3 + 2 ^ 28 * 2 ^ 64 + 100 * 2 ^ 192) } })
        (strm [⟨[(0, 7)], []⟩] i)
      goes s i = true ∧ (s.grp.stream 2).cfg = true ∧ (s.grp.stream 2).fld 8 2 = 3)
    ∧ (let s := strm [⟨[(0, 7)], [⟨1, 0x40000000⟩]⟩] (.spop H 6 2)
       goes s (.spop H 6 2) = true ∧ (lanesOf (s.tick.em H)).contains 1 = true)
    ∧ (let at_ (a : Nat) : State := s45 (BitVec.ofNat 64 a) 0 (strm [] (.sstr H 2 4))
       goes (at_ (2 ^ 19)) (.sstr H 2 4) = true ∧ (at_ (2 ^ 19)).tick.rs 4 = 0x80000#64 ∧ ((at_ 0).team 0).spb < 2 ^ 19 + 64 ∧ goes (at_ 520) (.sstr H 2 4) = true
         ∧ goes (at_ 512) (.sstr H 2 4) = true ∧ streamOk ((at_ 512).tick.cmdBlock 512) = false) := by decide +kernel

/-- StreamFetches: a round whose page is not there, and a stream that is complete. -/
theorem wit_StreamFetches : (let s := grp (fun g => { g with streams := tset Stream.init g.streams 2 { (g.stream 2) with
          desc := leBytes 64 (6 + 2 ^ 8 + 2 ^ 11 + 2 ^ 12 + 2 ^ 30 * 2 ^ 64 + 100 * 2 ^ 192 + 2 * 2 ^ 224) } }) (strm [] (.nop false))
      let x := (s.group 0).stream 2
      (tfind? s.groups 0).isSome = true ∧ x.nextRound (s.group 0).w = some 0
        ∧ (match (s.streamLanes 0 x 0 ⟨[], []⟩ ((List.range 64).filter fun l => decide (l < x.fld 192 32))).2 with | .error (.page _ _ _) => true | _ => false) = true)
    ∧ (let x := ((strm [⟨[], []⟩] (.nop false)).group 0).stream 2
       x.cfg = true ∧ x.susp = none ∧ x.rounds.length < 32 ∧ x.rnd + x.rounds.length < x.nRounds 64 ∧ ({ x with rnd := 1 } : Machine.Stream).nextRound 64 = none) := by
  decide +kernel

/-! ### Pairs, tiles, quads -/

/-- PairedWords: a memory half that leaves the scratchpad, and one of a member that has not started, as load and as store; two flags, with a handler. -/
theorem wit_PairedWords_more : (∀ x ∈ [((⟨.lds, 12, 8, 4, 1⟩ : Half), AKind.read), (⟨.sts, 12, 4, 8, 1⟩, .write)],
      let i : Instr := .pairedWord false ⟨.vadd, 12, 6, 7, 0⟩ x.1
      let out := at4 512 (2 ^ 19 - 4) (u2 i)
      let far := twoMembers (at4 (win1 512) (win1 516) (u2 i))
      goes out i = true ∧ (match (out.tick.check 0 false false x.2 (out.tick.halfAccs x.1)).2 with | .trap t => t.lane == 1 | _ => false) = true
        ∧ goes far i = true ∧ (match (far.tick.check 0 false false x.2 (far.tick.halfAccs x.1)).2 with | .stall _ _ => true | _ => false) = true)
    ∧ (let h0 : Half := ⟨.fadd, 12, 4, 4, 0⟩
       let h1 : Half := ⟨.sadd, 12, 3, 5, 0⟩
       let i : Instr := .pairedWord false h0 h1
       let s := grp (fun g => { g with fps := 0x3f00#64, vreg := tset 0#32 g.vreg 256 0x7f7fffff#32 }) (hpc i)
       goes s i = true ∧ s.grp.enabled (orFlags (((s.tick.half h0).flags ++ (s.tick.half h1).flags).map (·.2))) ≠ 0#6 ∧ s.grp.hpc ≠ 0 ∧ s.grp.uhc = 0
         ∧ s.pth.pend = [] ∧ WellFormed i) := by decide +kernel

/-- TileMemoryWords: a read that gets no answer; an ill-formed block with ILT set. -/
theorem wit_TileMemory_more : (let i : Instr := .tld H true true 1 4
      let s := grp (fun g => { g with deaf := some true }) (pt (fun p => { p with dies := 3 }) (s45 0x10000000 0 (u2 i)))
      let as := rowAccs (s.tick.rs 4) (moveRows true (s.tick.em H))
      goes s i = true ∧ (as.all fun y => (s.tick.invalid true y).isNone) = true
        ∧ (match s.tick.check s.focus true false .read as with | (u, .ok l) => (u.noAnswer s.focus (l.flatMap fun y => y.2)).isSome | _ => false) = true)
    ∧ (let i : Instr := .dec H false false 5 4
       let s := grp (fun g => { g with fm := 2 ^ 50 }) (s45 4096 8192 (blk 0x2c881 (hpc i)))
       goes s i = true ∧ (judgeBlock .free [line0 s]).isSome = true ∧ fmIlt s.grp.fm = true ∧ s.grp.hpc ≠ 0 ∧ s.grp.uhc = 0
         ∧ (runOf false 1 4096 s.tick []).isSome = true) := by decide +kernel

/-- QuadProduct: an arrival that meets another tag, beside a sweep of one member and without; a member reissued in its place; members that are missing or
stopped. -/
theorem wit_QuadMismatch : let i : Instr := .qmm H .bf16 .bf16 false 7 1 64 6
    let me (s : State) : QArr := { g := s.grp.gid, gk := s.focus, path := s.fpath, tag := 7, tb := .bf16, ta := .bf16, st := false, d := 1, em := s.tick.em H, pk := H.pk,
                                   quarter := s.tick.quarter 6, aregs := (lanesOf (s.tick.em H)).map fun l => (l, s.tick.aRegs .bf16 1 64 l), word := BitVec.ofNat 64 (encode i),
                                   void := false }
    let qs (s : State) : Option (List QArr) := rendezvous ((s.team 0).quads ++ [me s]) 0
    let odd (s : State) : Bool := match qs s with
      | some l => l.contains (me s) && l.any (fun y => y.tag != 7) && decide (l.map (·.gk)).Nodup
      | none => false
    let swept (s : State) : State := s.setGroup 2 { s.group 2 with p1 := { runs with sweep := some sweeping } }
    goes (quad 8 i) i = true ∧ odd (quad 8 i) = true ∧ ([0, 1, 2, 3].all fun k => !((quad 8 i).group k).sweeps && !((quad 8 i).group k).ctl) = true
      ∧ goes (swept (quad 8 i)) i = true ∧ odd (swept (quad 8 i)) = true ∧ ((swept (quad 8 i)).group 2).sweeps = true
      ∧ (let s := (quad 7 i).setTeam 0 { (quad 7 i).team 0 with quads := ((quad 7 i).team 0).quads ++ [{ me (quad 7 i) with void := true }] }
         goes s i = true ∧ ((s.team 0).quads.any fun y => y.void && y.gk == s.focus && y.path == s.fpath) = true
           ∧ (rendezvous ((s.team 0).quads.map fun y => if y.void && y.gk == s.focus && y.path == s.fpath then me s else y) 0).isSome = true
           ∧ (rendezvous (s.team 0).quads 0).isNone = true) := by decide +kernel

/-! ### The control group -/

/-- ControlRegisters: queues of a team that are halted, at the lowest slot of the team; tables whose keys rise. -/
theorem wit_HaltedQueues : let s0 := cu stopped (.csrr H 6 4)
    let s := s0.setTeam 0 { s0.team 0 with cq := { (s0.team 0).cq with halted := true } }
    goes s (.csrr H 6 4) = true ∧ goes s (.csrr H 6 5) = true ∧ tsorted s.groups = true ∧ s.lowSlot (s.group 3).team = some 3
      ∧ (s.creg 4).testBit 3 = true ∧ (s.creg 5).testBit 3 = false
      ∧ (s.groups.all fun e => decide (e.2.team ≠ (s.group 3).team) || coreOf e.1 == s.grp.core) = true := by decide +kernel

/-- DebugWindow: a write of a PC of a path that waits at a `qmm`. -/
theorem wit_DebugPc : let i : Instr := .dbgw H 6 4 5
    let w (g : Group) : Group := { stopped g with p0 := { g.p0 with st := .waiting, wait := some ⟨6, 0, 0, 0, 0, none, .ln, 0⟩ } }
    (∀ o ∈ [128, 512], let s := s45 3 (BitVec.ofNat 64 o) (cu w i); goes s i = true ∧ (s.group 3).stopped = true ∧ 3 ≠ s.focus)
      ∧ (let s := s45 3 128 (cu w i); ((s.group 3).p0.wait.map (·.wk)) = some 6) := by decide +kernel

/-- SystemCall: beside a sweep of the other path. -/
theorem wit_SystemCall_sweep : let s := besideSweep (usr (.sysc H 7))
    goes s (.sysc H 7) = true ∧ s.grp.ctl = false ∧ s.tick.em H ≠ 0#64 ∧ s.grp.sweeps = true := by decide +kernel

/-- GroupSave: a slot that is not stopped; a place outside; a team with another resident group; the hypotheses on the frames' places. -/
theorem wit_ContextSave_more : (∀ t ∈ [false, true], let i : Instr := .ctxsv H t 4 5
      let s := s45 3 0x20000000 (cu id i)
      goes s i = true ∧ s.stoppedAt 3 = false ∧ s.tick.frameBad 0x20000000 4096 = 0)
    ∧ (∀ t ∈ [false, true], let i : Instr := .ctxsv H t 4 5
      let s := s45 3 0x20000800 (cu stopped i)
      goes s i = true ∧ s.stoppedAt 3 = true ∧ s.tick.frameBad 0x20000800 (s.group 3).frameLen = 3)
    ∧ (let i : Instr := .ctxsv H true 4 5
       let s0 := s45 3 0x20000000 (cu stopped i)
       let s := s0.setGroup 5 (s0.group 3)
       goes s i = true ∧ s.stoppedAt 3 = true ∧ s.tick.lastResident 3 = false ∧ s.tick.frameBad 0x20000000 (8192 + (s.team 0).frameLen) = 0)
    ∧ (let s := s45 3 0x20000000 (cu stopped (.ctxsv H true 4 5))
       s.slotKey 3 ≠ s.focus ∧ (s.groups.all fun e => e.2.sbuf.isEmpty) = true ∧ s.saved = [] ∧ (s.group 3).ends = []
         ∧ (let u := { s with dies := tput s.dies 0 { s.die 0 with part := none } }; (u.die 0).part = none)) := by decide +kernel

/-- PageWords: the recall that is answered; a page that is not there, and a die without a partition; a copy whose source holds a bad line, and each place that
is none. -/
theorem wit_PageWords_more : (let i : Instr := .bflip H true 2 4 5
      let s := pte 0x1e i
      goes s i = true ∧ s.recalls = [] ∧ (match (s.tick.performAll 64).walk (s.part 0) 0 0x12345000 with | .bad _ _ => true | _ => false) = true
        ∧ (let u := { s with dies := tput s.dies 0 { s.die 0 with part := none } }; goes u i = true ∧ (u.die 0).part = none)
        ∧ (let u := { s with recalls := [⟨0, 64, 0, true, 0x12345000, 4096⟩] }; (u.recalls.find? fun r => r.gk == u.focus).isSome = true))
    ∧ (let i : Instr := .pgcopy H 0 6 4 5
       let at_ (a b : Nat) : State := s45 (BitVec.ofNat 64 a) (BitVec.ofNat 64 b) (cu id i)
       let bad := { at_ 0x10000000 0x20010000 with poison := [0x10000000 / 128 + 3] }
       goes bad i = true ∧ (bad.poison.any fun l => decide (0x10000000 ≤ l * 128) && decide (l * 128 < 0x10000000 + pageBytes 0)) = true
         ∧ goes (at_ (2 ^ 60) 0x20010000) i = true ∧ ((at_ (2 ^ 60) 0x20010000).tick.physOk 0 (2 ^ 60) 65536 .read).isSome = true
         ∧ goes (at_ 0x10000000 (2 ^ 60)) i = true ∧ ((at_ 0x10000000 (2 ^ 60)).tick.physOk 0 (2 ^ 60) 65536 .write).isSome = true
         ∧ goes (at_ 0x10000800 0x20010000) i = true ∧ 0x10000800 % pageBytes 0 ≠ 0 ∧ goes (at_ 0x10000000 0x20010800) i = true) := by decide +kernel

/-- SweepWords: a misaligned source and a misaligned destination; a member that has not started; what the other path and the tables hold. -/
theorem wit_SweepMisaligned : (∀ x ∈ [(4096, 8194, 16384), (4098, 8192, 16384)], let i : Instr := .vaddSweep H 3 4 5 1
      let s := sregs [(3, BitVec.ofNat 64 x.1), (4, BitVec.ofNat 64 x.2.1), (5, BitVec.ofNat 64 x.2.2)] (u2 i)
      goes s i = true ∧ (s.tick.sweepBad (swOf s i 1)).isNone = true ∧ ((swOf s i 1).bases.find? fun y => y.1 % 4 ≠ 0).isSome = true)
    ∧ (let i : Instr := .vaddSweep H 3 4 5 1
       let s := twoMembers (sregs [(3, 4096), (4, BitVec.ofNat 64 (win1 8192)), (5, 16384)] (u2 i))
       goes s i = true ∧ (s.tick.sweepBad (swOf s i 1)).isNone = true ∧ s.tick.sweepStall (swOf s i 1) = some (7, 1))
    ∧ (let s := u2 (.vaddSweep H 3 4 5 2); s.pth.swi = 0 ∧ bits s.grp.fps.toNat 8 6 = 0 ∧ (s.grp.path 1).sweep = none ∧ tsorted s.teams = true) := by decide +kernel

/-- SweepIterations: the last iteration of the later of two sweeps; one that raises an enabled flag; one without its member; a path without a sweep. -/
theorem wit_SweepEnds : (let u := pth (fun p => { p with sweep := p.sweep.map fun x => { x with at_ := 5 } }) (sweepAt 2)
      let s := grp (fun g => { g with p1 := { runs with sweep := some sweeping } }) u
      (match s.pth.sweep, (s.grp.path 1).sweep with | some x, some y => decide (y.at_ < x.at_) | _, _ => false) = true)
    ∧ (let i : Instr := .fmulSweep H 3 4 5 1
       let s0 := old (((sregs [(3, 4096), (4, 8192), (5, 16384)] (hpc i)).wlnum (.sp 0 8192) 4 0x7f000000).wlnum (.sp 0 16384) 4 0x7f000000)
       let s1 := grp (fun g => { g with fps := 0x3f00#64 }) s0
       let s := pth (fun p => { p with sweep := some (swOf s1 i 1) }) s1
       (match (s.sweepReads 0 (swOf s1 i 1) 0).2 with | some rs => s.grp.enabled (orFlags (rs.map fun r => r.2.2.2)) != 0#6 | none => false) = true
         ∧ s.grp.hpc ≠ 0 ∧ s.grp.uhc = 0 ∧ s.canIssue = true)
    ∧ (let s0 := sweepAt 0
       let s := twoMembers (pth (fun p => { p with sweep := p.sweep.map fun x => { x with aa := win1 8192 } }) s0)
       (match s.pth.sweep with | some x => (s.sweepReads 0 x 0).2.isNone | none => false) = true)
    ∧ (usr (.nop false)).pth.sweep = none := by decide +kernel

/-! ### Engines, grace periods, the scheduler -/

/-- How the acceptance of a state's queued command ends: 1 a start, 2 a stop, 3 a wait, 4 a missing page. -/
def acceptCode (s : State) : Nat :=
  match qcmd s with
  | some (_, c) => (match acceptTests s c with | .ok _ _ => 1 | .stop _ _ => 2 | .hold => 3 | .page _ _ _ _ _ _ => 4)
  | none => 0

/-- EngineAcceptance: a good copy, one into the scratchpad of a member that has not started, one into a page that is not there; the tests of the
whole-command clause; a halted queue. -/
theorem wit_EngineAcceptance : acceptCode (queued cpyBlk) = 1
    ∧ acceptCode (twoMembers (queued (cpyBlk - 2048 * 2 ^ 192 + win1 2048 * 2 ^ 192))) = 3
    ∧ acceptCode (queued (cpyBlk - 2048 * 2 ^ 192 + 0x40000000 * 2 ^ 192 + 2 ^ 305)) = 4
    ∧ (match qcmd (queued cpyBlk) with
       | some (_, c) =>
         let s := queued cpyBlk
         !s.headerBad c && c.bodyBad.1 == 0 && decide (c.word < 16) && c.word != 2 && c.fld 15 1 == 0
           && (match checkRanges c (fun s => .ok s c) (c.dests 0) s with | .ok s2 d => d == c && !s2.namesAbsent c | _ => false)
       | none => false) = true
    ∧ (let s := (queued cpyBlk).setTeam 0 { (queued cpyBlk).team 0 with cq := { ((queued cpyBlk).team 0).cq with halted := true } }
       ((s.team 0).queue 0).halted = true ∧ (s.team 0).saved = false ∧ ((s.team 0).queue 0).cmds.length = 1) := by decide +kernel

/-- A lock word that is free, in a descriptor at 0x10000100 that a command of address space 0 may use: pools 3 and 3, one block. -/
def lockDesc (held : Nat) : Nat :=
  fields [(0, 0x10000200), (63, held), (64, 16), (128, 1), (144, 3), (160, 3), (177, 1), (184, 1)]

/-- A key-cache command that waits for the lock of that descriptor. -/
def lockState (held : Nat) : State :=
  let s := cmdWith (fun c => { c with word := 18, st := .lockWait, blk := leBytes 64 (0x10000100 * 2 ^ 128) }) active
  old (((pool3 s).wnum 0x200000d4 4 65536).wlnum (.gpa 0x10000100) 64 (lockDesc held))

/-- EngineEvents: units that go on and that stop, a command that ended after an error, a phaser that waits for a delivery, a descriptor's lock that is free
and one that is held. -/
theorem wit_EngineUnits : (match qcmd active with
      | some (_, c) => (match deliverUnit active c 10 0 with | .ok _ _ => true | _ => false)
          && (let d := { c with blk := leBytes 64 (cpyBlk - 0x10000100 * 2 ^ 128 + 2 ^ 58 * 2 ^ 128) }
              match deliverUnit active d 10 0 with | .stop _ e => decide (e.word ≤ 16) | _ => false)
          && (let d := { c with rsn := 3, st := .done }
              let s := cmdWith (fun _ => d) active
              d.counted.isEmpty && (s.waitersOf 3).isEmpty && (s.endCmd (slotKey 0 0 0) d).teams.any (fun e => e.1 == c.team) && !((s.endCmd (slotKey 0 0 0) d).team c.team).past
                && (s.eng (slotKey 0 0 0)).team == c.team && d.record.length == 32)
          && (match active.eSegs c true 0x10000100 32 .rmw with | (_, _ :: _, none) => true | _ => false)
      | none => false) = true
    ∧ ([0, 1].all fun held => match qcmd (lockState held) with
        | some (_, c) => (match (lockState held).eSegs c true (c.fld 128 64) 64 .rmw with
          | (s1, [(.gpa pa, _)], none) => bit (s1.rnum pa 64) 63 == (held == 1) && s1.descOk c (s1.rnum pa 64)
          | _ => false)
        | none => false) = true := by decide +kernel

/-- A deferred entry of a pool's block 1, its target reached. -/
def dfEnt (pool : Nat) : DfEnt := ⟨0x11000040, 5, pool, 0, 0⟩

/-- Partition 0 with one deferred entry, its sweep due. -/
def sweepDue (s : State) (e : DfEnt) : State := pt (fun p => { p with gtick := 64, gri := 64, dfq := [e] }) s

/-- A pool of kind 2 in entry 3: two records at 0x11000000, `n` of them in use. -/
def queuePool (n : Nat) : State :=
  ((((pt (fun p => { p with pta := 0x20000000, npool := 8 }) (usr (.nop false))).wnum 0x200000c0 8 2).wnum 0x200000c8 8 0x11000000).wnum 0x200000d0 4 2).wnum 0x11000000 8 n

/-- GraceTracker: entries of a counted pool, of a queued pool with room and without, of no pool; a `gsync` that waits. -/
theorem wit_GraceReleases : (let rd (s : State) : State := (s.setPart 0 { s.part 0 with gtick := 0 }).readPcb 0
      let counted := sweepDue (pool3 (usr (.nop false))) (dfEnt 3)
      let z (s : State) : Nat × Bool := match (rd s).poolEntry 0 3 with
        | some p => (p.kind, ((rd s).asRoot ((rd s).part 0) p.asid).isSome)
        | none => (0, false)
      (counted.part 0).gri ≤ (counted.part 0).gtick ∧ ((rd counted).release 0 (dfEnt 3)).isSome = true ∧ z counted = (1, true)
        ∧ ((rd counted).trackLocs 0 0 (0x12000000 + 4 * 1) 4).isSome = true
        ∧ (∀ n ∈ [0, 1, 2], z (sweepDue (queuePool n) (dfEnt 3)) = (2, true)
            ∧ (match (rd (sweepDue (queuePool n) (dfEnt 3))).trackLocs 0 0 0x11000000 16 with
               | some (u, hd) => leNat ((hd.take 8).map u.rb) == n && leNat ((hd.drop 8).map u.rb) == 0 | none => false) = true
            ∧ ((rd (sweepDue (queuePool n) (dfEnt 3))).release 0 (dfEnt 3)).isSome = decide (n < 2))
        ∧ (rd counted).poolEntry 0 7 = none ∧ ((rd counted).release 0 (dfEnt 7)).isNone = true ∧ (rd counted).waitersOf 4 = [])
    ∧ (let s := pth (fun p => { p with st := .waiting, wait := some ⟨4, 1, 0, 6, 0, none, .ln, 0⟩ }) (usr (.gsync false 6))
       ((s.group 0).path 0).wait.map (·.wk) = some 4 ∧ (s.group 0).sbuf = [])
    ∧ (tfind? (usr (.nop false)).cores 0).isSome = true ∧ ((usr (.nop false)).die (dieOf 0)).part = some 0 := by decide +kernel

/-- StopEvents: a group on a faulted core that can be saved. -/
theorem wit_EmptiedCore : let s := (usr (.nop false)).setCore 0 { Core.init with faulted := true }
    s.emptying 0 = true ∧ s.aborting (s.group 0).lid = false ∧ (s.group 0).preempt = false := by decide +kernel

/-- Admission: a launch that CANCEL marked, one that waits for another, one behind sixteen; a launch to abort. -/
theorem wit_Admission : (let s := atHead.setLq 2 { atHead.lq 2 with cancels := [0] }
      (match (s.lq 2).head with | some (n, _, _) => (s.lq 2).cancels.contains n | none => false) = true ∧ (s.lq 2).markers = [])
    ∧ (let s := atHead.setLq 2 { atHead.lq 2 with head := (atHead.lq 2).head.map fun h => (h.1, { h.2.1 with deps := [(5, 0, 2, 1)] }, h.2.2) }
       (match (s.lq 2).head with | some (n, r, _) => !(s.lq 2).cancels.contains n && !r.deps.all (s.depMet (s.part 0) (s.queueAsid (s.part 0) 2)) | none => false) = true)
    ∧ (match tfind? (admitted false).launches 1 with
        | some l =>
          let s := { atHead with launches := atHead.launches ++ (List.range 16).map fun k => (k + 1, l) }
          decide (16 ≤ s.nadm 2)
        | none => false) = true
    ∧ (tfind? (admitted false).launches 1).isSome = true := by decide +kernel

/-- Scheduling: what a placed team's core offers, and the groups that no path of waits. -/
theorem wit_PlacedTeam : let s := admitted true
    (match tfind? s.launches 1 with | some l => s.quadRoom 1 l.lr.asks && decide (0 < l.lr.tg) | none => false) = true
      ∧ (s.groups.all fun e => e.2.p0.wait.isNone && e.2.p1.wait.isNone) = true := by decide +kernel

/-- Scheduling, saving: the last of its team and not; a pool with room for the frames, and an empty one. -/
theorem wit_SavedByScheduler : let s := grp (fun g => { g with stopped := true, hold := .saved }) (usr (.nop false))
    let two := s.setGroup 5 (s.group 0)
    s.lastResident 0 = true ∧ two.lastResident 0 = false ∧ two.maySave 0 = true
      ∧ (match (s.part 0).takeFrame (s.group 0).frameLen with
          | some (p, a) => decide (a + (s.group 0).frameLen ≤ 2 ^ 51)
            && (match p.takeFrame (s.team 0).frameLen with | some (_, b) => decide (b + (s.team 0).frameLen ≤ 2 ^ 51) | none => false)
          | none => false) = true
      ∧ (s.groups.all fun e => e.2.sbuf.isEmpty) = true ∧ s.saved = []
      ∧ (let u := pt (fun p => { p with fpl := 0 }) s; ((u.part 0).takeFrame (u.group 0).frameLen).isNone = true ∧ u.maySave 0 = true) := by decide +kernel

/-- Scheduling, restoring one group: into the lowest free slot, with and without an unresolvable page. -/
theorem wit_RestoredGroup : ∀ b ∈ [true, false], let s0 := savedTeam false
    let s : State := { s0 with saved := s0.saved.map fun v => { v with grp := { v.grp with fltBad := b } } }
    (match s.saved with
      | [v] => s.returns v && (s.savedGroup v).p0.wait.isNone && (s.savedGroup v).p1.wait.isNone && v.grp.fltBad == b
          && s.freeSlot 0 ((s.savedGroup v).gid % 4) == some 0
      | _ => false) = true := by decide +kernel

/-- FaultService: replies with ACT 0 and 3; the group, the command, the stream and the host access that they let go on. -/
theorem wit_Answers : (let s := pt (fun p => { p with faults := p.faults.map fun f => { f with sent := true } }) faulted
      let p := s.part 0
      let reply (fid act : Nat) : State := ((s.wnum p.rra 8 1).wnum (p.rra + 64) 4 fid).wnum (p.rra + 68) 4 act
      (∀ act ∈ [0, 3], (reply 0 act).rnum p.rra 8 ≠ (reply 0 act).rnum (p.rra + 8) 8 ∧ bits ((reply 0 act).rnum (p.rra + 68) 4) 0 2 = act)
        ∧ (match p.faults with
            | [f] => s.findGroup (s.group 0).lid (s.group 0).team (s.group 0).gid == some 0 && (s.group 0).stopped && (s.group 0).hold == .page
                && (s.group 0).flt.all (· == f.fid) && !(s.group 0).fltBad
            | _ => false) = true)
    ∧ (match qcmd (cmdWith (fun c => { c with susp := some 4 }) active) with | some (_, c) => c.susp == some 4 | none => false) = true
    ∧ (let s := grp (fun g => { g with streams := tset Stream.init g.streams 2 { (g.stream 2) with susp := some 4 } }) (strm [] (.nop false))
       s.findGroup (s.group 0).lid (s.group 0).team (s.group 0).gid = some 0 ∧ ((s.group 0).stream 2).susp = some 4) := by decide +kernel

/-- TransportFrames: a HELLO of the session's endpoint, with another SID and with its own. QueueRecords: an access that is refused, that meets a page that is
not there, that waits for one, whose page is unresolvable; MARKERs with an earlier launch and without. -/
theorem wit_HostWaits : (∀ sid ∈ [8, 77], let f : Frame := { fr 6 0 4 [] with sid := sid }
      frameOk f 6 = true ∧ f.len = 0 ∧ lv.up = true ∧ lv.tp.live = true ∧ f.src = lv.tp.endpoint ∧ decide (f.sid = lv.tp.sid) = decide (sid = 77))
    ∧ (let w (a : Nat) : State := placed (record 3 2 3 0 false (leBytes 8 a ++ leBytes 8 7)) lv
       judged 3 (w 0x40000000) = some (0, 0) ∧ judged 3 (w (2 ^ 57)) = some (0, 0)
         ∧ (match (w 0x40000000).hostSpan (lv.part 0) (lv.queueAsid (lv.part 0) 2) .write 3 0x40000000 24 [] with | .page _ _ _ => true | _ => false) = true
         ∧ (match (w (2 ^ 57)).hostSpan (lv.part 0) (lv.queueAsid (lv.part 0) 2) .write 3 (2 ^ 57) 24 [] with | .refused => true | _ => false) = true
         ∧ (let s := (w 0x40000000).setLq 2 { (w 0x40000000).lq 2 with hold := [4] }; (s.lq 2).hold ≠ [])
         ∧ (let s := (w 0x40000000).setLq 2 { (w 0x40000000).lq 2 with bad := true }; (s.lq 2).hold = [] ∧ (s.lq 2).bad = true))
    ∧ (let s := lv.setLq 2 { lv.lq 2 with markers := [(3, 0x1234, 5)] }
       let e : Launch := { lr := loadRec, lq := 2, rseq := 0, asid := 0, next := 0, teams := 0, die := none, unpl := false, abort := none, began := 0 }
       (s.launches.all fun x => decide (x.2.lq ≠ 2) || decide (5 ≤ x.1)) = true
         ∧ (({ s with launches := s.launches ++ [(4, e)] } : State).launches.any fun x => decide (x.2.lq = 2) && decide (x.1 < 5)) = true)
    ∧ (let s := (placed marker lv).setLq 2 { (placed marker lv).lq 2 with halt := true }; (s.lq 2).halt = true) := by decide +kernel

/-- ModuleEvents: the groups of a die that all stand on faulted cores; requests that get no answer; a peer's write, and its atomic that changes the word
and that does not. -/
theorem wit_LostRequests : (let s0 := grp (fun g => { g with stopped := true, hold := .ctl }) (usr (.nop false))
      let s := { s0.setCore 0 { Core.init with faulted := true } with dies := tput s0.dies 0 { s0.die 0 with resetting := true } }
      (s.die 0).resetting = true ∧ (s.dieGroups 0).length = 1 ∧ (s.dieGroups 0).all (fun e => e.2.stopped && e.2.hold == .ctl && (s.core e.2.core).faulted) = true)
    ∧ (let s := pth (fun p => { p with pend := [⟨.ld, .v 4 [(1, 5)], 0, 0, [(1, 2 ^ 51 + 8)], 0⟩] }) (usr (.nop false))
       s.leaves false (s.partOf (s.group 0)) (2 ^ 51 + 8) = true ∧ (s.group 0).stopped = false)
    ∧ (let s := pt (fun p => { p with dies := 3 }) (usr (.nop false)); s.leaves true (s.partOf (s.group 0)) 0x10000800 = true)
    ∧ (match qcmd active with | some (_, c) => c.st == .active | none => false) = true
    ∧ (let s := usr (.nop false)
       firmwareBytes ≤ 0x10000800 ∧ s.present 0x10000800 4 = true ∧ (amoNew .add 4 (leNat ((List.range 4).map fun i => s.rb (.gpa (0x10000800 + i)))) 5 0).isSome = true
         ∧ (amoNew .cas 4 (leNat ((List.range 4).map fun i => s.rb (.gpa (0x10000800 + i)))) 5 1).isNone = true) := by decide +kernel

/-! ### The tile unit, what a group observes, and stops -/

/-- A user group whose other path waits at a `qmm` of its quad, in a team of four. -/
def busy (s : State) : State := other { runs with st := .waiting, wait := some ⟨6, 0, 0, 0, 0, none, .ln, 0⟩ } (s.setTeam 0 { s.team 0 with tg := 4 })

/-- Tile words behind a `qmm` that waits (TileRegisterWords, TileMemoryWords, Products, AttentionWords), by hand: `tzero` leaves tile 1 as it is and
waits in the tile unit, which then clears it; `tstat` has no value yet. -/
theorem wit_TileUnit : (∀ i ∈ [Instr.tscl H 1 4, .tmovToTile H 1 64, .tmov H false 64 1, .tzero H 15, .tstat H true 6 1, .dmm H .bf16 .bf16 true false 1 1 64 6, .smaxSoftmax H 1 64,
      .rot H 64 32 8 16], goes (busy (u2 i)) i = true ∧ (busy (u2 i)).grp.tileBusy = true ∧ (busy (u2 i)).grp.later = false)
    ∧ (∀ x ∈ [(Instr.tld H true true 1 4, AKind.read), (.tst H false true true 1 4, .write)], let s := busy (s45 (2 ^ 28) 0 (u2 x.1))
       goes s x.1 = true ∧ (s.tick.rs 4).toNat % 128 = 0 ∧ okB (s.tick.check s.focus true false x.2 (rowAccs (s.tick.rs 4) (moveRows true (s.tick.em H)))) = true)
    ∧ (let s := grp (fun g => { g with tile := tset 0#32 g.tile 1024 5#32 }) (busy (u2 (.tzero H 1)))
       after (exec (.tzero H 1) s) fun t => t.grp.elem 1 0 0 == 5#32 && t.grp.tileq.length == 1 && t.grp.drainTiles.elem 1 0 0 == 0#32) = true
    ∧ (after (exec (.tstat H true 6 1) (busy (u2 (.tstat H true 6 1)))) fun t => t.pth.pend.map (fun q => decide (q.res = .q 1 .s 6)) == [true]) = true := by
  decide +kernel

/-- TileMemoryWords: a misaligned image, and one that no page maps. QuadProduct: a tile unit with a step, and an empty one. -/
theorem wit_TileFails : (∀ x ∈ [(Instr.tld H true true 1 4, AKind.read), (.tst H false true true 1 4, .write)],
      (let s := s45 (2 ^ 28 + 64) 0 (u2 x.1)
       goes s x.1 = true ∧ (s.tick.rs 4).toNat % 128 ≠ 0 ∧ ((rowAccs (s.tick.rs 4) (moveRows true (s.tick.em H))).all fun y => (s.tick.invalid true y).isNone) = true)
        ∧ (let s := s45 (2 ^ 30) 0 (u2 x.1)
           goes s x.1 = true ∧ (match (s.tick.check s.focus true false x.2 (rowAccs (s.tick.rs 4) (moveRows true (s.tick.em H)))).2 with | .trap _ => true | _ => false) = true))
    ∧ (∀ x ∈ [(Instr.tld H true false 1 4, AKind.read), (.tst H false true false 1 4, .write)], let s := twoMembers (s45 (BitVec.ofNat 64 (win1 512)) 0 (u2 x.1))
       goes s x.1 = true ∧ (match (s.tick.check s.focus false false x.2 (rowAccs (s.tick.rs 4) (moveRows true (s.tick.em H)))).2 with | .stall .. => true | _ => false) = true)
    ∧ (usr (.nop false)).grp.tileq = [] := by decide +kernel

/-- BreakAndReturn, UserTraps: a `brk` with a store pending, and beside a sweep whose end may raise ARI; EnabledFlagTraps beside a sweep; PairedWords:
both halves, an enabled flag, a store, alone and beside a sweep. -/
theorem wit_TrapsPerform : (let s := (hpc (.brk false 3)).pushStore 1#64 [(.gpa 0x10000800, 7)]
      goes s (.brk false 3) = true ∧ s.grp.hpc ≠ 0 ∧ s.grp.uhc = 0 ∧ s.grp.later = false ∧ s.grp.sbuf ≠ []
        ∧ (after (exec (.brk false 3) s) fun t => t.grp.sbuf.isEmpty && t.rb (.gpa 0x10000800) == 7 && decide (t.pc = s.grp.hpc)) = true)
    ∧ (let s := grp (fun g => { g with fps := 0x100#64 }) (besideSweep (hpc (.brk false 3)))
       goes s (.brk false 3) = true ∧ s.grp.sweeps = true ∧ s.grp.later = true)
    ∧ (let i : Instr := .fadd H false .rne 3 4 5
       let s := vals [(4, [0x7f7fffff]), (5, [0x7f7fffff])] (grp (fun g => { g with fps := 0x3f00#64 }) (besideSweep (hpc i)))
       goes s i = true ∧ s.grp.sweeps = true ∧ s.grp.hpc ≠ 0 ∧ s.grp.uhc = 0) := by decide +kernel

/-- ReadValues, by hand: a `.rlx` read that returns a byte of a completion record acquires, one of an `.rlx` write does not; of scratchpad the present
byte is read though an older one is known. -/
theorem wit_ReadOrder : (let l := Loc.gpa 0x10000800
      let s0 := usr (.nop false)
      let s (p : Bool) : State := { s0 with now := 5, rels := [⟨l, Who.fixed 0, .dev, 3, none, p⟩] }
      let read (s : State) : State × Nat := let r := s.readAs 0 (fun _ => true) none 0 0 [l]; (r.1, (r.1.group 0).obs.floor)
      covers .dev (Who.fixed 0) (s0.who s0.grp) = true ∧ 3 ≤ (read (s true)).2 ∧ (read (s false)).2 = s0.grp.obs.floor)
    ∧ (let l := Loc.sp 0 512
       let s := { (usr (.nop false)).wlnum l 1 7 with hist := [⟨l, 3, 4⟩], now := 9 }
       (s.hist.all fun h => !h.loc.global) = true ∧ (s.readAs 0 (fun _ => true) none 0 0 [l]).2.bytes = [7]) := by decide +kernel

/-- ReadOnlyLoads: an access whose first byte lies in another kind of page than its last. -/
theorem wit_Straddle : let s0 := usr (.nop false)
    let s := s0.setDie 0 { s0.die 0 with tlb := [⟨0, 0, 0x10000000, 65536, 0x5f#64⟩, ⟨0, 0, 0x10010000, 65536, 0x1001007f#64⟩] }
    s.hostBiased 0 0x1000fffe = true ∧ s.hostBiased 0 (0x1000fffe + 4 - 1) = false := by decide +kernel

/-- Stores: a misaligned access of scratchpad is one access for each aligned word that it meets. -/
theorem wit_ScratchWords : let i : Instr := .sts H (mm .d .lane .rlx) 6 4
    let s := at4 516 1024 (u2 i)
    goes s i = true ∧ okB (chk s false .write (mm .d .lane .rlx)) = true
      ∧ (after (exec i s) fun t => t.grp.sbuf.map (fun a => a.cells.map (·.1)) ==
          [[.sp 0 516, .sp 0 517, .sp 0 518, .sp 0 519], [.sp 0 520, .sp 0 521, .sp 0 522, .sp 0 523]] ++ [(List.range 8).map fun k => .sp 0 (1024 + k)]) = true := by
  decide +kernel

/-! ### Units of the engines -/

/-- An active command of a kind with a block, its source at 0x10000100 the bytes 1, 2, 3, … 128, words at 512 as listed. -/
def unit (word b : Nat) (l : List Nat) (f : Cmd → Cmd) : Option (State × Cmd) :=
  let s := active.wlnum (.gpa 0x10000100) 128 (leNat ((List.range 128).map fun i => BitVec.ofNat 8 (i + 1)))
  (qcmd s).map fun x => (old (s.wlnum (.sp 0 512) (4 * l.length) (leNat (l.flatMap (leBytes 4)))), f { x.2 with word := word, blk := leBytes 64 b })

/-- How a unit of 8 bytes ends: 1 it goes on, 2 it is done, 3 it waits, 4 a missing page, or 16 + RSN; POS and the bytes delivered; some bytes. -/
def unitB (x : Option (State × Cmd)) (l : Loc) (k : Nat) : Nat × Nat × Nat × List Nat :=
  match x with
  | none => (0, 0, 0, [])
  | some (s, c) =>
    let at_ (u : State) : List Nat := (List.range k).map fun i => (u.rb (l.plus i)).toNat
    match deliverUnit s c 8 0 with
    | .ok u d => (if d.st = .done then 2 else 1, d.pos, d.delivered, at_ u)
    | .stop u d => (16 + d.rsn, d.epos, d.delivered, at_ u)
    | .hold => (3, 0, 0, [])
    | .page .. => (4, 0, 0, [])

/-- DeliveredBytes, by hand from the source bytes: `cpym` to one member, and with one that failed at acceptance; `gath` of a 4-byte element and of
three single bytes into one word; `scat`, where the later of two elements stays; a `cpy` whose rows share words. -/
theorem test_units_copy : (∀ m ∈ [1, 3], unitB (unit 2 (fields [(128, 0x10000100), (192, 2048), (256, 8), (288, m), (300, 1)]) [] fun c => { c with served := 1 })
      (.sp 0 2048) 9 = (if m = 1 then 2 else 19, 8, 8, [1, 2, 3, 4, 5, 6, 7, 8, 0]))
    ∧ unitB (unit 3 (fields [(128, 0x10000100), (192, 2048), (256, 512), (288, 2), (320, 8), (352, 2), (356, 1)]) [3, 1] id) (.sp 0 2048) 5
        = (1, 4, 4, [25, 26, 27, 28, 0])
    ∧ unitB (unit 3 (fields [(128, 0x10000100), (192, 2049), (256, 512), (288, 3), (320, 8), (352, 0), (356, 1)]) [3, 1, 2] id) (.sp 0 2048) 5
        = (2, 3, 3, [0, 25, 9, 17, 0])
    ∧ unitB (unit 4 (fields [(128, 2048), (192, 0x10000100), (256, 512), (288, 3), (320, 4), (352, 2), (357, 1)]) [3, 1, 1] id) (.sp 0 2052) 12
        = (2, 12, 12, [9, 10, 11, 12, 0, 0, 0, 0, 1, 2, 3, 4])
    ∧ (let x := unit 1 (fields [(128, 0x10000100), (192, 2049), (256, 3), (288, 3), (304, 1), (320, 8), (352, 3)]) [] id
       x.map (fun y => y.2.ragged) = some true ∧ unitB x (.sp 0 2048) 11 = (2, 9, 9, [0, 1, 2, 3, 9, 10, 11, 17, 18, 19, 0])) := by decide +kernel

/-- DeliveredBytes, `xsect` of the lists 1, 3, 5 and 3, 5, 9, by hand: both pairs and their number; with room for one, RSN 7 at POS 2; of 1, 3, 3, RSN 6
at POS 2 without the number. -/
theorem test_units_xsect : let b (m : Nat) : Nat := fields [(128, 512), (160, 3), (192, 524), (224, 3), (256, 2048), (288, m), (320, 2064)]
    unitB (unit 5 (b 8) [1, 3, 5, 3, 5, 9] id) (.sp 0 2048) 18 = (2, 0, 20, [1, 0, 0, 0, 0, 0, 0, 0, 2, 0, 0, 0, 1, 0, 0, 0, 2, 0])
      ∧ unitB (unit 5 (b 1) [1, 3, 5, 3, 5, 9] id) (.sp 0 2048) 18 = (23, 2, 12, [1, 0, 0, 0, 0, 0, 0, 0, 0, 0, 0, 0, 0, 0, 0, 0, 1, 0])
      ∧ unitB (unit 5 (b 8) [1, 3, 3, 3, 5, 9] id) (.sp 0 2048) 18 = (22, 2, 8, [1, 0, 0, 0, 0, 0, 0, 0, 0, 0, 0, 0, 0, 0, 0, 0, 0, 0]) := by decide +kernel

/-- Entry 0 of the table at 0x10000200: block 2, with a slot mask. -/
def ent0 (sm : Nat) : BEnt := { pbn := 2, posb := 0, sm := sm, v := true, tier := 0, topen := true, cw := false, rsv := 0 }

/-- A key-cache command that holds the lock of the descriptor of `lockDesc`, whose one entry names block 2 with reference count `rc`; the source rows at
2048 of the scratchpad and two rows of the block count up. -/
def kv (word b rc sm : Nat) (f : Cmd → Cmd) : Option (State × Cmd) :=
  let up (s : State) (l : Loc) (v : Nat) : State := s.wlnum l 64 (leNat ((List.range 64).map fun i => BitVec.ofNat 8 (v + i)))
  let s := ((lockState 0).wlnum (.gpa 0x10000200) 16 (ent0 sm).num).wlnum (.gpa 0x12000008) 4 (rc + 2 ^ 24)
  (qcmd s).map fun y => (old (up (up s (.sp 0 2048) 1) (.gpa 0x11020200) 5), f { y.2 with
    word := word, blk := leBytes 64 (b + 0x10000100 * 2 ^ 128), desc := lockDesc 0, st := .active, descPa := 0x10000100, len := 16, npos := 16 })

/-- A `kvld` of the value row of slot 0 to 4096 with its mask at 1024, and a `kvwr` of token 3 from 2048. -/
def kvLoad : Nat := fields [(192, 4096), (219, 1), (220, 1), (256, 2), (272, 1024), (299, 1)]

def kvWrite (tok : Nat) : Nat := fields [(192, 2048), (224, tok), (256, 1), (272, 3)]

/-- KeyCacheUnits, by hand: `kvld` of a value row, of a masked slot, and its mask. -/
theorem test_units_kvld : unitB (kv 16 kvLoad 1 2 id) (.sp 0 4096) 4 = (1, 1, 32, [5, 6, 7, 8])
    ∧ unitB (kv 16 kvLoad 1 2 fun c => { c with pos := 1, idxs := [1] }) (.sp 0 4128) 2 = (1, 2, 32, [0, 0])
    ∧ unitB (kv 16 kvLoad 1 2 fun c => { c with pos := 2, idxs := [1, 0] }) (.sp 0 1024) 2 = (2, 2, 1, [1, 0]) := by decide +kernel

/-- KeyCacheUnits, by hand: `kvwr` of token 3 into its own block. -/
theorem test_units_kvwr : unitB (kv 18 (kvWrite 3) 1 0 id) (.gpa (0x11020000 + 3 * 32)) 2 = (1, 1, 64, [1, 2])
    ∧ unitB (kv 18 (kvWrite 3) 1 0 id) (.gpa (0x11020000 + 19 * 32)) 2 = (1, 1, 64, [33, 34]) := by decide +kernel

/-- KeyCacheUnits, by hand: `kvapp` into the open block, and with a full table. -/
theorem test_units_kvapp : unitB (kv 17 (kvWrite 0) 1 0 fun c => { c with len := 15, npos := 15 }) (.gpa (0x11020000 + 15 * 32)) 2 = (1, 1, 64, [1, 2])
    ∧ unitB (kv 17 (kvWrite 0) 1 0 id) (.gpa 0x11020000) 1 = (28, 16, 0, [0]) := by decide +kernel

/-- KeyCacheUnits, by hand: `kvtrim` to 0 frees block 2 (ST 2) and clears V; `kvsplice` copies the entry as copy-on-write; `kvshift` adds 5 to POSB; the
descriptor's last write clears LOCK and gives LEN 9. -/
theorem test_units_kv_entries : unitB (kv 19 0 1 0 id) (.gpa 0x12000008) 4 = (1, 1, 0, [0, 0, 0, 2])
    ∧ unitB (kv 19 0 1 0 id) (.gpa 0x10000200) 11 = (1, 1, 0, [2, 0, 0, 0, 0, 0, 0, 0, 0, 0, 4])
    ∧ unitB (kv 20 (fields [(192, 0x10000300), (272, 1)]) 1 0 fun c => { c with pos := 1, len := 0, sdesc := lockDesc 0 }) (.gpa 0x10000200) 11
        = (1, 2, 0, [2, 0, 0, 0, 0, 0, 0, 0, 0, 0, 9])
    ∧ unitB (kv 20 (fields [(192, 0x10000300), (272, 1)]) 1 0 id) (.gpa 0x10000200) 1 = (30, 1, 0, [2])
    ∧ unitB (kv 21 (fields [(208, 1), (224, 5)]) 1 0 id) (.gpa 0x10000200) 11 = (1, 1, 0, [2, 0, 0, 0, 5, 0, 0, 0, 0, 0, 5])
    ∧ unitB (kv 21 (fields [(208, 1), (224, 5)]) 1 0 fun c => { c with pos := 1, len := 9 }) (.gpa 0x10000100) 17
        = (2, 1, 64, [0, 2, 0, 16, 0, 0, 0, 0, 9, 0, 0, 0, 16, 0, 0, 0, 1]) := by decide +kernel

/-- KeyCacheUnits: an entry that a core caches and one that it does not; a pool that is there and one that is not; a count that ends, and a full queue. -/
theorem wit_KeyCache : (match kv 18 0 1 0 id with
    | some (s, c) =>
      let h := s.setCore c.core { s.core c.core with btc := [⟨c.asid, 0x10000200, 0x10000100, leBytes 16 (ent0 0).num⟩] }
      (s.core c.core).btc.isEmpty && (match s.eSegs c true 0x10000200 16 .read with | (_, l, none) => (segLocs l).length == 16 | _ => false)
        && h.stands c 0x10000200 (leBytes 16 (ent0 0).num) && (s.blockPool c 3).isSome && (s.blockPool c 9).isNone && !(s.part c.part).dfqFull
        && (let f := s.setPart c.part { s.part c.part with dfqc := 0 }; (f.part c.part).dfqFull)
        && (match s.eSegs c true 0x12000008 4 .rmw with | (_, l, none) => (segLocs l).length == 4 | _ => false)
    | none => false) = true := by decide +kernel

/-! ### Waits, losses, the scheduler -/

/-- The group in focus beside a sweep of its other path, with every flag enabled. -/
def flagged (s : State) : State := grp (fun g => { g with fps := 0x3f00#64 }) (besideSweep s)

/-- PairedWords: an enabled flag beside a store, and beside a sweep of the other path too. TileMemoryWords, Products: a block that overflows and one that is
ill-formed with ILT set, beside a sweep. -/
theorem wit_TrapsBesideSweeps : (let h0 : Half := ⟨.fadd, 12, 4, 4, 0⟩
      let h1 : Half := ⟨.sts, 12, 4, 8, 1⟩
      let i : Instr := .pairedWord false h0 h1
      let s (f : State → State) : State := f (grp (fun g => { g with fps := 0x3f00#64, vreg := tset 0#32 (tset 0#32 g.vreg 256 0x7f7fffff#32) (8 * 64) 4#32 }) (hpc i))
      (∀ f ∈ [id, flagged], goes (s f) i = true ∧ (s f).grp.enabled (orFlags ((((s f).tick.half h0).flags ++ ((s f).tick.half h1).flags).map (·.2))) ≠ 0#6
          ∧ (s f).grp.hpc ≠ 0 ∧ (s f).grp.uhc = 0 ∧ (s f).pth.pend = []) ∧ (s id).grp.later = false ∧ (s flagged).grp.later = true)
    ∧ (let i : Instr := .enc H false false 5 4
       let s := flagged (eights 3 (fmt 0x0000802140800000#64 i))
       goes s i = true ∧ s.grp.hpc ≠ 0 ∧ s.grp.uhc = 0 ∧ s.grp.later = true ∧ okB (s.tick.check s.focus false false .read (lineAccs 1024 1024)) = true
         ∧ (overs s.grp.fm (srcBlock s)).isEmpty = false)
    ∧ (let i : Instr := .dec H false false 5 4
       let s := flagged (grp (fun g => { g with fm := 2 ^ 50 }) (s45 4096 8192 (blk 0x2c881 (hpc i))))
       goes s i = true ∧ (judgeBlock .free [line0 s]).isSome = true ∧ fmIlt s.grp.fm = true ∧ s.grp.later = true)
    ∧ (let i : Instr := .smm H .bf16 false 1 1 64 6
       let s := flagged (sregs [(6, 4096#64)] (blk 0x84 (grp (fun g => { g with fm := 2 ^ 50 }) (hpc i))))
       goes s i = true ∧ s.grp.later = true ∧ s.grp.tileBusy = false ∧ (runOf false 1 4096 s.tick []).isSome = true) := by decide +kernel

/-- PhaserArrivals: a member phase at most seven ahead; a `pharw` at `.sys` that waits for phase 0, which has ended, in a group that lost a write, and in one
that lost none. -/
theorem wit_WaitingArrival : let x := Loc.gpa 0x10000800
    let w : Wait := ⟨1, 2 ^ 63, 0, 0, 0, some x, .sys, 7⟩
    let s (l : Option Nat) : State := grp (fun g => { g with lostRemote := l }) (pth (fun p => { p with st := .waiting, wait := some w })
      ((usr (.nop false)).setPhaser x { Ph.new 1 with phase := 1 }))
    (((s none).phaser x).ahead 3 ≤ 7) ∧ (∀ l ∈ [none, some 5], (s l).phWakes x 0 0 = true ∧ (s l).waiters = [(0, 0)] ∧ (s l).grp.ctl = false)
      ∧ (((s none).group 0).path 0).wait = some w ∧ w.word ≠ 0 := by decide +kernel

/-- TokenWords: a token whose command's completion is a release at `.dev` and wrote one byte. -/
theorem wit_TokenSync : ∀ i ∈ [Instr.ttest H .dev 6 4, .twait H .dev 6 4, .twaitY H .dev 6 4 5],
    let s0 := s45 (mkToken 0 1 3 7) 0 (slot3 1 (u2 i))
    let y : Sync := ⟨[(s0.who s0.grp, .dev)], [.gpa 0x10000800], 3⟩
    let s := s0.setEng (slotKey 0 1 3) { s0.eng (slotKey 0 1 3) with past := [(7, y)] }
    goes s i = true ∧ s.tick.tokenSync (s.tick.rs 4) = [y] ∧ covers .dev (s.who s.grp) (s.who s.grp) = true := by decide +kernel

/-- Streams: a round that waits for a member which has not started. StreamFetches: its lanes wait for that member. -/
theorem wit_StreamStall : (let i : Instr := .spop H 6 2
      let s := twoMembers (grp (fun g => { g with streams := tset Stream.init g.streams 2 { (g.stream 2) with stall := some 1 } }) (strm [] i))
      goes s i = true ∧ (s.grp.stream 2).cfg = true ∧ s.tick.streamStall (s.grp.stream 2) = some (7, 1))
    ∧ (let s := twoMembers (grp (fun g => { g with streams := tset Stream.init g.streams 2 { (g.stream 2) with
          desc := leBytes 64 (6 + 2 ^ 8 + 2 ^ 12 + win1 512 * 2 ^ 64 + 100 * 2 ^ 192 + 2 * 2 ^ 224) } }) (strm [] (.nop false)))
       let x := (s.group 0).stream 2
       x.nextRound (s.group 0).w = some 0
         ∧ (match (s.streamLanes 0 x 0 ⟨[], []⟩ ((List.range 64).filter fun l => decide (l < x.fld 192 32))).2 with | .error (.stall r) => r == 1 | _ => false) = true) := by
  decide +kernel

/-- SweepIterations: an enabled flag at the end without a handler; a member that waits; a word outside; a path that another's user trap stopped. -/
theorem wit_SweepsEndOrWait : (let i : Instr := .fmulSweep H 3 4 5 1
      let s0 := old (((sregs [(3, 4096), (4, 8192), (5, 16384)] (u2 i)).wlnum (.sp 0 8192) 4 0x7f000000).wlnum (.sp 0 16384) 4 0x7f000000)
      let s1 := grp (fun g => { g with fps := 0x3f00#64 }) s0
      let s := pth (fun p => { p with sweep := some (swOf s1 i 1) }) s1
      (match (s.sweepReads 0 (swOf s1 i 1) 0).2 with | some rs => s.grp.enabled (orFlags (rs.map fun r => r.2.2.2)) != 0#6 | none => false) = true
        ∧ s.grp.hpc = 0 ∧ s.grp.ctl = false ∧ s.sweeping = true)
    ∧ (∀ a ∈ [win1 8192, 2 ^ 21], let s := twoMembers (pth (fun p => { p with sweep := p.sweep.map fun x => { x with aa := a } }) (sweepAt 0))
       (match s.pth.sweep with
         | some x => (s.sweepReads 0 x 0).2.isNone && s.sweepStall x == (if a = 2 ^ 21 then none else some (7, 1)) && s.sweeping
         | none => false) = true)
    ∧ (let s := grp (fun g => { g with stopped := true }) (sweepAt 0); s.sweeping = false)
    ∧ (∀ k, k < 2 → ((usr (.nop false)).grp.path k).wait = none) := by decide +kernel

/-- GroupRestore: a frame of a launch and a team that stand. GroupSave, Scheduling: groups without words in the tile unit. -/
theorem wit_FrameTeam : (let w := (ldAt 0x20000000).tick.performAll 64
      (w.frameTeam 0x20000000 true 0).isSome = true ∧ (tfind? w.launches (w.frameRd 0x20000000 1)).isSome = true)
    ∧ ((cu stopped (.ctxsv H true 4 5)).groups.all fun e => e.2.tileq.isEmpty) = true ∧ (usr (.nop false)).grp.tileq = [] := by decide +kernel

/-- ResultsWritten: a result of a word that waits in the tile unit, behind one of another class. -/
theorem wit_QueuedResult : let s := pth (fun p => { p with pend := [pend .ld (.s 5 7), pend .tile (.q 1 .s 6)] }) (usr (.nop false))
    (((s.group 0).pendOf 0)[1]?.map fun q => q.queued) = some true := by decide +kernel

/-- EngineAcceptance: a good copy from the scratchpad of a member that has not started. CopiedBytes: one whose rows share words. -/
theorem wit_AbsentSource : let b := cpyBlk - 0x10000100 * 2 ^ 128 + win1 512 * 2 ^ 128 - 2 ^ 304
    let s := twoMembers (queued b)
    acceptCode s = 3
      ∧ (match qcmd s with
         | some (_, c) => !s.headerBad c && c.bodyBad.1 == 0 && decide (c.word < 16) && c.word != 2
             && (match checkRanges c (fun s => .ok s c) (c.dests 0) s with | .ok s2 d => d == c && s2.namesAbsent c | _ => false)
         | none => false) = true
      ∧ (match unit 1 (fields [(128, 0x10000100), (192, 2049), (256, 3), (288, 3), (304, 1), (320, 8), (352, 3)]) [] id with
         | some (s, c) => c.ragged && (match s.rowSegs c true 3 .read [0x10000100, 0x10000108, 0x10000110] with
             | (s1, l, none) => (segLocs l).length == 9 && (match s1.rowSegs c false 3 .write [2049, 2052, 2055] with | (_, d, none) => (segLocs d).length == 9 | _ => false)
             | _ => false)
         | none => false) = true := by decide +kernel

/-- StopEvents: a group on a die that is to be reset. Scheduling: a saved group whose team is leaving, on that die, and on a faulted core. -/
theorem wit_Emptying : (let s := usr (.nop false); (s.setDie 0 { s.die 0 with resetting := true }).emptying 0 = true)
    ∧ (let s := savedTeam false
       let g := (usr (.nop false)).group 0
       s.saved.all s.returns = true
         ∧ (∀ u ∈ [s.setGroup 5 { g with gid := 5, preempt := true }, s.setDie 0 { s.die 0 with resetting := true }, s.setCore 0 { s.core 0 with faulted := true }],
             (u.saved.any u.returns) = false)) := by decide +kernel

/-- Admission: an aborted launch whose saved team has a command in its queue. -/
theorem wit_AbortedSaved : let s0 := queued cpyBlk
    let s := { s0 with launches := if s0.launches.isEmpty then [(s0.grp.lid, ⟨LRec.ofNat 0, 2, 0, 0, 0, 1, none, false, none, 0⟩)] else s0.launches,
                       teams := s0.teams.map fun (e : Nat × Team) => (e.1, { e.2 with saved := true }) }
    (tfind? s.launches s.grp.lid).isSome = true ∧ (s.teams.any fun e => e.2.lid == s.grp.lid && e.2.saved) = true
      ∧ (match qcmd s with | some (_, c) => decide (c.st = .queued) && c.team == s.grp.team | none => false) = true
      ∧ (let t := s.abortLaunch s.grp.lid 1; t.engs.all fun e => (e.2.cmd.map (·.st)) != some .queued) = true := by decide +kernel

/-- Scheduling: the last member of a cluster, whose core is reserved for it, and another cluster's reservation. -/
theorem wit_Reserved : let s0 := admitted true
    let s := { s0 with clusters := tput s0.clusters 5 { s0.cluster 5 with cores := [2, 1], started := [0] } }
    let u := (s.setCore 2 { s.core 2 with resv := some (9, 0) }).setCore 1 { s.core 1 with resv := some (5, 1) }
    (u.core 2).resv = some (9, 0) ∧ (u.core 1).resv = some (5, 1) ∧ (u.cluster 5).started.length + 1 = (u.cluster 5).cores.length ∧ (tfind? u.cores 1).isSome = true := by
  decide +kernel

/-- ModuleEvents: a load of one lane that leaves the die loses it, whichever lanes are lost; one whose lane does not leaves it. -/
theorem wit_LostLanes (s : State) (n : Nat) (h : 2 ^ 51 ≤ n) : s.lostLanes false 0 [(3, n)] = [(3, n)] := by
  have h : s.leaves false 0 n = true := decide_eq_true (p := 2 ^ 51 ≤ n) h
  cases e : Config.lost s.fresh 3 <;> simp [State.lostLanes, h, e]

/-- ManagementRecords: a die that no launch is bound to. GraceTracker: a byte that the tracker releases. -/
theorem wit_Released : let s := usr (.nop false)
    s.leaves false 0 0x10000100 = false ∧ s.boundTo 0 = []
      ∧ (let u := s.releaseLocs 0 .dev true [.gpa 0x10000800] 7; u.rb (.gpa 0x10000800) = 7 ∧ u.rels.length = 1) := by decide +kernel

end Sys2Proof.Tests
end

section
/-! SUPPORT. Pending accesses: what performing them does to the bytes, to the group and to the rest of the state. -/

namespace Sys2Proof.Machine

/-! ## Bytes at their points of coherence -/

/-- Where a byte lies: in this module's memory, in a peer's, or in a scratchpad. -/
def State.home (s : State) : Loc → Nat ⊕ Nat ⊕ Nat × Nat
  | .gpa pa => if pa < 2 ^ 51 then .inl pa else .inr (.inl (s.peerKey pa))
  | .sp t o => .inr (.inr (t, o))

theorem home_near (s : State) {pa : Nat} (h : pa < 2 ^ 51) : s.home (.gpa pa) = .inl pa := if_pos h
theorem home_far (s : State) {pa : Nat} (h : ¬ pa < 2 ^ 51) : s.home (.gpa pa) = .inr (.inl (s.peerKey pa)) := if_neg h
theorem home_sp (s : State) (t o : Nat) : s.home (.sp t o) = .inr (.inr (t, o)) := rfl

/-- Outside a peer module a byte has one address. -/
theorem eq_of_home_eq {s : State} {x y : Loc} (hx : ∀ pa, x = .gpa pa → pa < 2 ^ 51) (h : s.home y = s.home x) : y = x := by
  cases x with
  | sp t o =>
    cases y with
    | sp u p => simpa [home_sp] using h
    | gpa pb =>
      by_cases hb : pb < 2 ^ 51
      · rw [home_near s hb] at h; cases h
      · rw [home_far s hb] at h; cases h
  | gpa pa =>
    rw [home_near s (hx pa rfl)] at h
    cases y with
    | sp u p => simp [home_sp] at h
    | gpa pb =>
      by_cases hb : pb < 2 ^ 51
      · rw [home_near s hb] at h; cases h; rfl
      · rw [home_far s hb] at h; cases h

theorem rb_far (s : State) {pa : Nat} (h : ¬ pa < 2 ^ 51) :
    s.rb (.gpa pa) = (tfind? s.peerMem (s.peerKey pa)).getD (Config.peerByte (s.peerKey pa)) := by
  simp only [State.rb, h, if_false]
  cases tfind? s.peerMem (s.peerKey pa) <;> rfl

/-- A byte after a write of one: two addresses of a peer's may name the same byte (16 R467). -/
theorem rb_wb (s : State) (x y : Loc) (b : Byte) : (s.wb x b).rb y = if s.home y = s.home x then b else s.rb y := by
  by_cases hx : ∀ pa, x = .gpa pa → pa < 2 ^ 51
  · by_cases h : s.home y = s.home x
    · rw [if_pos h, eq_of_home_eq hx h]
      exact rb_wb_same s x b hx
    · rw [if_neg h]
      exact rb_wb_ne s b hx fun e => h (by rw [e])
  · obtain ⟨pa, rfl, ha⟩ : ∃ pa, x = .gpa pa ∧ ¬ pa < 2 ^ 51 := by simpa using hx
    have hw : s.wb (.gpa pa) b = { s with peerMem := tput s.peerMem (s.peerKey pa) b } := by simp only [State.wb, ha, if_false]
    rw [hw, home_far s ha]
    cases y with
    | sp u p => rfl
    | gpa pb =>
      by_cases hb : pb < 2 ^ 51
      · simp only [home_near s hb, State.rb, hb, if_true, reduceCtorEq, if_false]
      · rw [home_far s hb, rb_far _ hb, rb_far _ hb]
        show (tfind? (tput s.peerMem (s.peerKey pa) b) (s.peerKey pb)).getD _ = _
        by_cases h : s.peerKey pb = s.peerKey pa
        · rw [h, tfind_tput_same, if_pos rfl]; rfl
        · rw [tfind_tput_ne _ _ h, if_neg (by simpa using h)]; rfl

/-- Two states hold the same bytes, and map the addresses of peers alike. -/
def State.SameBytes (s t : State) : Prop := t.peers = s.peers ∧ ∀ x, t.rb x = s.rb x

theorem State.SameBytes.refl (s : State) : s.SameBytes s := ⟨rfl, fun _ => rfl⟩

theorem State.SameBytes.symm {s t : State} (h : s.SameBytes t) : t.SameBytes s := ⟨h.1.symm, fun x => (h.2 x).symm⟩

theorem State.SameBytes.trans {a b c : State} (h : a.SameBytes b) (k : b.SameBytes c) : a.SameBytes c :=
  ⟨k.1.trans h.1, fun x => (k.2 x).trans (h.2 x)⟩

theorem sameBytes_setGroup (s : State) (k : Nat) (g : Group) : s.SameBytes (s.setGroup k g) := ⟨rfl, setGroup_rb s k g⟩

theorem wb_peers (s : State) (x : Loc) (b : Byte) : (s.wb x b).peers = s.peers := by
  unfold State.wb; split
  · split <;> rfl
  · rfl

theorem State.SameBytes.wb {s t : State} (h : s.SameBytes t) (x : Loc) (b : Byte) : (s.wb x b).SameBytes (t.wb x b) := by
  obtain ⟨hp, hr⟩ := h
  have hpl : ∀ y, t.home y = s.home y := fun y => by cases y <;> simp [State.home, State.peerKey, hp]
  exact ⟨by rw [wb_peers, wb_peers, hp], fun y => by rw [rb_wb, rb_wb, hpl, hpl, hr]⟩

/-- Writes bytes at their points of coherence, in order, and nothing else. -/
def State.wbs (s : State) (cells : List (Loc × Byte)) : State := cells.foldl (fun a c => a.wb c.1 c.2) s

theorem wbs_append (s : State) (l m : List (Loc × Byte)) : s.wbs (l ++ m) = (s.wbs l).wbs m := List.foldl_append

theorem State.SameBytes.wbs {s t : State} (h : s.SameBytes t) (cells : List (Loc × Byte)) : (s.wbs cells).SameBytes (t.wbs cells) := by
  induction cells generalizing s t with
  | nil => exact h
  | cons c l ih => exact ih (h.wb c.1 c.2)

theorem sameBytes_putCell (n : Nat) (s : State) (c : Loc × Byte) : (s.wb c.1 c.2).SameBytes (s.putCell n c) :=
  ⟨by unfold State.putCell; dsimp only; split <;> rfl, putCell_rb n s c⟩

theorem sameBytes_putCell_fold (n : Nat) (cells : List (Loc × Byte)) :
    ∀ {s t : State}, s.SameBytes t → (s.wbs cells).SameBytes (cells.foldl (State.putCell n) t) := by
  induction cells with
  | nil => exact id
  | cons c l ih => exact fun h => ih ((h.wb c.1 c.2).trans (sameBytes_putCell n _ c))

theorem sameBytes_tqInit (s t : State) (q : Nat) : t.SameBytes (tqInit s t q) := ⟨by unfold tqInit; split <;> rfl, tqInit_rb s t q⟩

theorem sameBytes_foldl {α : Type} (f : State → α → State) (hf : ∀ (s : State) (a : α), s.SameBytes (f s a)) (l : List α) :
    ∀ s : State, s.SameBytes (l.foldl f s) := by
  induction l with
  | nil => exact fun s => .refl s
  | cons a l ih => exact fun s => (hf s a).trans (ih _)

/-- A write of bytes: what stands where, beside the history that reads may return. -/
theorem sameBytes_wcells (s : State) (cells : List (Loc × Byte)) : (s.wbs cells).SameBytes (s.wcells cells) := by
  have h1 : (s.wbs cells).SameBytes { cells.foldl (State.putCell (s.now + 1)) s with now := s.now + 1 } :=
    (sameBytes_putCell_fold _ cells (.refl s)).trans ⟨rfl, rb_now _ _⟩
  have h2 : (s.putCells cells).SameBytes (s.wcells cells) := ⟨rfl, fun x => by cases x <;> rfl⟩
  exact (h1.trans (sameBytes_foldl _ (fun t q => sameBytes_tqInit s t q) _ _)).trans h2

theorem sameBytes_addRels (s : State) (w : Who) (scps : List Scope) (cells : List (Loc × Byte)) (b : Bool) :
    s.SameBytes (s.addRels w scps cells b) := ⟨rfl, fun x => by cases x <;> rfl⟩

theorem sameBytes_countEnd (s : State) (part core sec : Nat) (col : Bool) : s.SameBytes (s.countEnd part core sec col) := by
  unfold State.countEnd
  dsimp only
  split <;> exact ⟨rfl, fun x => by cases x <;> rfl⟩

/-! ## Performing one access -/

/-- A state with other groups and another counter of free values. -/
def State.regroup (s : State) (l : Tab Group) (n : Nat) : State := { s with groups := l, fresh := n }

theorem regroup_setGroup (s : State) (l : Tab Group) (n k : Nat) (g : Group) :
    (s.regroup l n).setGroup k g = s.regroup (tput l k g) n := rfl

theorem setGroup_eq_regroup (s : State) (k : Nat) (g : Group) : s.setGroup k g = s.regroup (tput s.groups k g) s.fresh := rfl

theorem wb_regroup (s : State) (l : Tab Group) (n : Nat) (x : Loc) (b : Byte) : (s.regroup l n).wb x b = (s.wb x b).regroup l n := by
  unfold State.wb
  split
  · split <;> rfl
  · rfl

theorem rb_regroup (s : State) (l : Tab Group) (n : Nat) (x : Loc) : (s.regroup l n).rb x = s.rb x := by cases x <;> rfl

theorem putCell_regroup (l : Tab Group) (n m : Nat) (s : State) (c : Loc × Byte) :
    (s.regroup l n).putCell m c = (s.putCell m c).regroup l n := by
  unfold State.putCell
  rw [rb_regroup, wb_regroup]
  dsimp only
  split <;> rfl

theorem tqInit_regroup (l : Tab Group) (n : Nat) (s t : State) (q : Nat) :
    tqInit (s.regroup l n) (t.regroup l n) q = (tqInit s t q).regroup l n := by
  have hs : (s.regroup l n).tqRecord q = s.tqRecord q := rfl
  have ht : (t.regroup l n).tqRecord q = t.tqRecord q := rfl
  unfold tqInit
  rw [hs, ht]
  split <;> rfl

theorem wcells_regroup (s : State) (l : Tab Group) (n : Nat) (cells : List (Loc × Byte)) :
    (s.regroup l n).wcells cells = (s.wcells cells).regroup l n := by
  have h : (s.regroup l n).putCells cells = (s.putCells cells).regroup l n := by
    have hc : cells.foldl (State.putCell (s.now + 1)) (s.regroup l n) = (cells.foldl (State.putCell (s.now + 1)) s).regroup l n :=
      List.foldl_hom (State.regroup · l n) (putCell_regroup l n (s.now + 1))
    simp only [State.putCells]
    rw [show (s.regroup l n).now = s.now from rfl, hc]
    exact List.foldl_hom (State.regroup · l n) (init := { cells.foldl (State.putCell (s.now + 1)) s with now := s.now + 1 })
      (tqInit_regroup l n s)
  unfold State.wcells
  rw [h]; rfl

theorem countEnd_regroup (l : Tab Group) (n : Nat) (s : State) (part core sec : Nat) (col : Bool) :
    (s.regroup l n).countEnd part core sec col = (s.countEnd part core sec col).regroup l n := by
  have h : (s.regroup l n).secCore sec = s.secCore sec := rfl
  unfold State.countEnd
  rw [h]
  dsimp only
  split <;> rfl

/-- A group after its pending access `i` is performed, its write the one of stamp `n`: it has seen the bytes, and the ends of sections that waited
for it wait no more (05 R157). -/
def Group.afterAccess (g : Group) (i n : Nat) (a : Access) : Group :=
  let ends := g.ends.map fun e => if i < e.n then { e with n := e.n - 1 } else e
  { g with sbuf := dropIdx g.sbuf i, obs := g.obs.saw (a.cells.map (·.1)) n, ends := (ends.partition fun e => e.n == 0 && e.strm.isEmpty).2 }

/-- The rest of the state after a group's pending access `i` is performed. -/
def State.afterAccess (s : State) (g : Group) (i : Nat) (a : Access) : State :=
  let ends := g.ends.map fun e => if i < e.n then { e with n := e.n - 1 } else e
  (ends.partition fun e => e.n == 0 && e.strm.isEmpty).1.foldl (fun t e => t.countEnd g.part g.core e.sec e.col)
    ((s.wcells a.cells).addRels (s.who g) a.scps a.cells)

theorem tput_tput {α : Type} (t : Tab α) (k : Nat) (v w : α) : tput (tput t k v) k w = tput t k w := by
  induction t with
  | nil => simp [tput]
  | cons e r ih =>
    obtain ⟨j, x⟩ := e
    by_cases h1 : k < j
    · simp [tput, h1]
    · by_cases h2 : j = k
      · simp [tput, h2]
      · simp [tput, h1, h2, ih]

theorem countEnd_fold_regroup (part core : Nat) (l : Tab Group) (n : Nat) (ends : List SecEnd) (s : State) :
    ends.foldl (fun t e => t.countEnd part core e.sec e.col) (s.regroup l n)
      = (ends.foldl (fun t e => t.countEnd part core e.sec e.col) s).regroup l n :=
  List.foldl_hom (State.regroup · l n) fun t e => countEnd_regroup l n t part core e.sec e.col

theorem afterAccess_regroup (s : State) (l : Tab Group) (n : Nat) (g : Group) (i : Nat) (a : Access) :
    (s.regroup l n).afterAccess g i a = (s.afterAccess g i a).regroup l n := by
  unfold State.afterAccess
  rw [wcells_regroup]
  dsimp only
  exact countEnd_fold_regroup _ _ l n _ ((s.wcells a.cells).addRels (s.who g) a.scps a.cells)

/-- Counting the ends of sections changes the rest of the state, and then the group (05 R157). -/
theorem countEnds_regroup (s : State) (l : Tab Group) (n gk : Nat) (g : Group) : let e := g.ends.partition fun e => e.n == 0 && e.strm.isEmpty
    (s.regroup (tput l gk g) n).countEnds gk
      = (e.1.foldl (fun t e => t.countEnd g.part g.core e.sec e.col) s).regroup (tput l gk { g with ends := e.2 }) n := by
  have h : (s.regroup (tput l gk g) n).group gk = g := tget_tput_same _ _ _ _
  unfold State.countEnds
  dsimp only
  rw [h, regroup_setGroup, tput_tput]
  exact countEnd_fold_regroup _ _ _ n _ s

/-- Performing an access changes the rest of the state, and then its group. -/
theorem perform_eq {s : State} {gk i : Nat} {a : Access} (h : (s.group gk).sbuf[i]? = some a) :
    s.perform gk i = ((s.afterAccess (s.group gk) i a).regroup (tput s.groups gk ((s.group gk).afterAccess i (s.now + 1) a)) s.fresh) := by
  unfold State.perform
  dsimp only
  rw [h]
  dsimp only
  rw [setGroup_eq_regroup, wcells_regroup]
  exact countEnds_regroup ((s.wcells a.cells).addRels (s.who (s.group gk)) a.scps a.cells) s.groups s.fresh gk _

/-! ## Performing every access -/

/-- Performing the pending accesses of a group performs the first, and then the others. -/
theorem performAll_cons {s : State} {gk : Nat} {a : Access} {l : List Access} (h : (s.group gk).sbuf = a :: l) :
    s.performAll gk = (s.perform gk 0).performAll gk ∧ ((s.perform gk 0).group gk).sbuf = l := by
  have hp : ((s.perform gk 0).group gk) = (s.group gk).afterAccess 0 (s.now + 1) a := by
    rw [perform_eq (a := a) (by rw [h]; rfl)]
    exact tget_tput_same _ _ _ _
  have hl : ((s.perform gk 0).group gk).sbuf = l := by rw [hp]; simp [Group.afterAccess, h, dropIdx]
  refine ⟨?_, hl⟩
  unfold State.performAll
  rw [h, hl]; rfl

theorem performAll_nil {s : State} {gk : Nat} (h : (s.group gk).sbuf = []) : s.performAll gk = s := by
  unfold State.performAll; rw [h]; rfl

/-- A property that performing one access passes on holds of performing all. -/
theorem performAll_induction {gk : Nat} {P : State → State → Prop} (refl : ∀ s : State, (s.group gk).sbuf = [] → P s s)
    (step : ∀ (s t : State) (a : Access) (l : List Access), (s.group gk).sbuf = a :: l → P (s.perform gk 0) t → P s t) :
    ∀ s : State, P s (s.performAll gk) := by
  have h : ∀ (l : List Access) (s : State), (s.group gk).sbuf = l → P s (s.performAll gk) := by
    intro l
    induction l with
    | nil => intro s hs; rw [performAll_nil hs]; exact refl s hs
    | cons a l ih =>
      intro s hs
      obtain ⟨he, hl⟩ := performAll_cons hs
      rw [he]
      exact step s _ a l hs (ih _ hl)
  exact fun s => h _ s rfl

/-- No access is pending after all are performed. -/
theorem performAll_sbuf (s : State) (gk : Nat) : ((s.performAll gk).group gk).sbuf = [] :=
  performAll_induction (P := fun _ t => (t.group gk).sbuf = []) (fun _ h => h) (fun _ _ _ _ _ h => h) s

/-- What performing accesses may change of its group. -/
theorem performAll_group (s : State) (gk : Nat) : let h := (s.performAll gk).group gk
    h = { s.group gk with sbuf := h.sbuf, obs := h.obs, ends := h.ends } := by
  refine performAll_induction (P := fun s t => t.group gk =
    { s.group gk with sbuf := (t.group gk).sbuf, obs := (t.group gk).obs, ends := (t.group gk).ends }) (fun _ _ => rfl) ?_ s
  intro s t a l hs h
  have hp : ((s.perform gk 0).group gk) = (s.group gk).afterAccess 0 (s.now + 1) a := by
    rw [perform_eq (a := a) (by rw [hs]; rfl)]
    exact tget_tput_same _ _ _ _
  rw [hp] at h
  exact h

theorem performAll_path (s : State) (gk p : Nat) : ((s.performAll gk).group gk).path p = (s.group gk).path p := by
  rw [performAll_group]; rfl

/-- The bytes that the pending accesses of a group are to write, in order. -/
def Group.cells (g : Group) : List (Loc × Byte) := g.sbuf.flatMap (·.cells)

theorem sameBytes_afterAccess (s : State) (g : Group) (i : Nat) (a : Access) : (s.wbs a.cells).SameBytes (s.afterAccess g i a) :=
  ((sameBytes_wcells s a.cells).trans (sameBytes_addRels _ _ _ _ _)).trans
    (sameBytes_foldl _ (fun t _ => sameBytes_countEnd t _ _ _ _) _ _)

theorem sameBytes_regroup (s : State) (l : Tab Group) (n : Nat) : s.SameBytes (s.regroup l n) := ⟨rfl, rb_regroup s l n⟩

/-- Performing the pending accesses of a group writes their bytes. -/
theorem sameBytes_performAll (s : State) (gk : Nat) : (s.wbs (s.group gk).cells).SameBytes (s.performAll gk) := by
  refine performAll_induction (P := fun s t => (s.wbs (s.group gk).cells).SameBytes t) ?_ ?_ s
  · intro s hs
    rw [Group.cells, hs]
    exact .refl s
  · intro s t a l hs h
    have hc : (s.group gk).cells = a.cells ++ ((s.perform gk 0).group gk).cells := by
      rw [Group.cells, Group.cells, (performAll_cons hs).2, hs]; rfl
    have h1 : (s.wbs a.cells).SameBytes (s.perform gk 0) := by
      rw [perform_eq (a := a) (by rw [hs]; rfl)]
      exact (sameBytes_afterAccess s _ 0 a).trans (sameBytes_regroup _ _ _)
    rw [hc, wbs_append]
    exact (h1.wbs _).trans h

/-! ## What performing accesses leaves of the rest of the state -/

/-- Of the state only groups, bytes, the history and the releases that reads may return, tile queues and the counts of sections differ. -/
structure State.Stored (s t : State) : Prop where
  rest : t = { s with groups := t.groups, mem := t.mem, peerMem := t.peerMem, teams := t.teams, now := t.now, hist := t.hist, rels := t.rels,
                      tqs := t.tqs, parts := t.parts }
  team : ∀ k, t.team k = { s.team k with spm := (t.team k).spm }
  live : ∀ k, (tfind? s.teams k).isSome = true → (tfind? t.teams k).isSome = true

theorem State.Stored.refl (s : State) : s.Stored s := ⟨rfl, fun _ => rfl, fun _ h => h⟩

theorem State.Stored.trans {a b c : State} (h : a.Stored b) (k : b.Stored c) : a.Stored c :=
  ⟨by rw [k.rest, h.rest], fun i => by rw [k.team i, h.team i], fun i x => k.live i (h.live i x)⟩

/-- A state with the same teams. -/
theorem State.Stored.of_teams {s t : State} (h : t.teams = s.teams)
    (e : t = { s with groups := t.groups, mem := t.mem, peerMem := t.peerMem, teams := t.teams, now := t.now, hist := t.hist, rels := t.rels,
                      tqs := t.tqs, parts := t.parts }) : s.Stored t :=
  ⟨e, fun k => by simp only [State.team, h], fun k x => by rw [h]; exact x⟩

theorem State.Stored.foldl {α : Type} {f : State → α → State} (hf : ∀ (s : State) (a : α), s.Stored (f s a)) (l : List α) :
    ∀ s : State, s.Stored (l.foldl f s) := by
  induction l with
  | nil => exact fun s => .refl s
  | cons a l ih => exact fun s => (hf s a).trans (ih _)

theorem stored_wb (s : State) (x : Loc) (b : Byte) : s.Stored (s.wb x b) := by
  cases x with
  | gpa pa =>
    by_cases h : pa < 2 ^ 51 <;> simp only [State.wb, h, if_true, if_false] <;> exact .of_teams rfl rfl
  | sp t o =>
    refine ⟨rfl, fun k => ?_, fun k hk => ?_⟩
    · simp only [State.wb, State.setTeam, State.team, tget_tput]
      by_cases e : k = t
      · simp only [e, if_true]
      · simp only [e, if_false]
    · simp only [State.wb, State.setTeam]
      by_cases e : k = t
      · rw [e, tfind_tput_same]; rfl
      · rw [tfind_tput_ne _ _ e]; exact hk

theorem stored_putCell (n : Nat) (s : State) (c : Loc × Byte) : s.Stored (s.putCell n c) := by
  refine (stored_wb s c.1 c.2).trans ?_
  unfold State.putCell
  dsimp only
  split
  · exact .refl _
  · exact .of_teams rfl rfl

theorem stored_tqInit (s t : State) (q : Nat) : t.Stored (tqInit s t q) := by unfold tqInit; split <;> exact .of_teams rfl rfl

theorem stored_wcells (s : State) (cells : List (Loc × Byte)) : s.Stored (s.wcells cells) := by
  have h1 : s.Stored { cells.foldl (State.putCell (s.now + 1)) s with now := s.now + 1 } :=
    (State.Stored.foldl (stored_putCell _) cells s).trans (.of_teams rfl rfl)
  have h2 : s.Stored (s.putCells cells) := h1.trans (.foldl (fun t q => stored_tqInit s t q) _ _)
  exact h2.trans (.of_teams rfl rfl)

theorem stored_countEnd (s : State) (part core sec : Nat) (col : Bool) : s.Stored (s.countEnd part core sec col) := by
  unfold State.countEnd
  dsimp only
  split <;> exact .of_teams rfl rfl

theorem stored_afterAccess (s : State) (g : Group) (i : Nat) (a : Access) : s.Stored (s.afterAccess g i a) :=
  have h : s.Stored ((s.wcells a.cells).addRels (s.who g) a.scps a.cells) := (stored_wcells s a.cells).trans (.of_teams rfl rfl)
  h.trans (.foldl (fun t (e : SecEnd) => stored_countEnd t g.part g.core e.sec e.col) _ _)

theorem State.Stored.regroup {s t : State} (h : s.Stored t) (l : Tab Group) : s.Stored (t.regroup l s.fresh) :=
  ⟨by rw [State.regroup, h.rest], h.team, h.live⟩

theorem State.Stored.setGroup {s t : State} (h : s.Stored t) (k : Nat) (g : Group) : s.Stored (t.setGroup k g) :=
  ⟨by rw [State.setGroup, h.rest], h.team, h.live⟩

theorem stored_performAll (s : State) (gk : Nat) : s.Stored (s.performAll gk) := by
  refine performAll_induction (P := State.Stored) (fun s _ => .refl s) ?_ s
  intro s t a l hs h
  refine State.Stored.trans ?_ h
  rw [perform_eq (a := a) (by rw [hs]; rfl)]
  exact (stored_afterAccess s _ 0 a).regroup _

/-! ## Groups that differ in nothing that performing accesses reads or changes -/

/-- The pending accesses of two groups are performed alike. -/
structure Group.PerformsAs (g h : Group) : Prop where
  ctl : h.ctl = g.ctl
  lid : h.lid = g.lid
  part : h.part = g.part
  team : h.team = g.team
  core : h.core = g.core
  gid : h.gid = g.gid
  ends : h.ends = g.ends
  sbuf : h.sbuf = g.sbuf
  obs : h.obs = g.obs

/-- Two states differ at most in one group, in nothing that performing its accesses reads or changes, and in the counter of free values. -/
structure State.Alike (gk : Nat) (s t : State) : Prop where
  rest : t = s.regroup t.groups t.fresh
  other : ∀ k, k ≠ gk → t.group k = s.group k
  group : (s.group gk).PerformsAs (t.group gk)

theorem who_congr (s : State) {g h : Group} (e : g.PerformsAs h) : s.who h = s.who g := by
  simp only [State.who, State.partOf, e.ctl, e.lid, e.part, e.team, e.core, e.gid]

theorem afterAccess_congr (s : State) {g h : Group} (e : g.PerformsAs h) (i : Nat) (a : Access) : s.afterAccess h i a = s.afterAccess g i a := by
  simp only [State.afterAccess, who_congr s e, e.ends, e.part, e.core]

theorem Group.PerformsAs.afterAccess {g h : Group} (e : g.PerformsAs h) (i n : Nat) (a : Access) :
    (g.afterAccess i n a).PerformsAs (h.afterAccess i n a) :=
  ⟨e.ctl, e.lid, e.part, e.team, e.core, e.gid, by simp only [Group.afterAccess, e.ends], by simp only [Group.afterAccess, e.sbuf],
    by simp only [Group.afterAccess, e.obs]⟩

theorem State.Alike.perform {gk i : Nat} {s t : State} {a : Access} (h : State.Alike gk s t) (ha : (s.group gk).sbuf[i]? = some a) :
    State.Alike gk (s.perform gk i) (t.perform gk i) := by
  have hn : t.now = s.now := by rw [h.rest]; rfl
  have hx : t.afterAccess (t.group gk) i a = (s.afterAccess (s.group gk) i a).regroup t.groups t.fresh := by
    rw [afterAccess_congr t h.group]
    exact (congrArg (fun u : State => u.afterAccess (s.group gk) i a) h.rest).trans (afterAccess_regroup ..)
  rw [perform_eq ha, perform_eq (a := a) (by rw [h.group.sbuf]; exact ha), hx, hn]
  refine ⟨rfl, fun k hk => ?_, ?_⟩
  · show tget _ (tput _ _ _) _ = tget _ (tput _ _ _) _
    rw [tget_tput_ne _ _ _ hk, tget_tput_ne _ _ _ hk]
    exact h.other k hk
  · show Group.PerformsAs (tget _ (tput _ _ _) _) (tget _ (tput _ _ _) _)
    rw [tget_tput_same, tget_tput_same]
    exact h.group.afterAccess i _ a

theorem State.Alike.performAll {gk : Nat} {s t : State} (h : State.Alike gk s t) : State.Alike gk (s.performAll gk) (t.performAll gk) := by
  have key := performAll_induction (gk := gk) (P := fun s u => ∀ t, State.Alike gk s t → State.Alike gk u (t.performAll gk))
    (fun s hs t h => by rw [performAll_nil (h.group.sbuf.trans hs)]; exact h)
    (fun s u a l hs ih t h => by
      rw [(performAll_cons (h.group.sbuf.trans hs)).1]
      exact ih _ (h.perform (a := a) (by rw [hs]; rfl)))
  exact key s t h

end Sys2Proof.Machine
end

section
/-! SUPPORT. Outstanding results that are written, and steps of the tile unit that are performed: what each changes of a group. -/

namespace Sys2Proof.Machine

/-! ## Writing outstanding results -/

/-- A group after outstanding results are written: registers, what they depend on and the masks of paths may differ, and nothing else. -/
def Group.Landed (g h : Group) : Prop :=
  h = { g with sreg := h.sreg, vreg := h.vreg, preg := h.preg, obs := { g.obs with dep := h.obs.dep }, p0 := { g.p0 with mask := h.p0.mask },
               p1 := { g.p1 with mask := h.p1.mask } }

theorem Group.Landed.refl (g : Group) : g.Landed g := rfl

theorem Group.Landed.trans {a b c : Group} (h : a.Landed b) (k : b.Landed c) : a.Landed c := by
  unfold Group.Landed at *
  rw [k, h]

theorem landed_ws (g : Group) (p d : Nat) (v : W64) : g.Landed (g.ws p d v) := by
  by_cases hd : d = 127
  · by_cases hp : p = 0 <;> simp only [Group.ws, hd, if_true, Group.setPath, Group.path, hp, if_false] <;> rfl
  · simp only [Group.ws, hd, if_false]; rfl

theorem landed_land (g : Group) (p : Nat) (q : Pend) : g.Landed (g.land p q) := by
  unfold Group.land
  split
  · split
    · exact .refl g
    · exact (landed_ws g p _ _).trans rfl
  all_goals rfl

theorem landed_fold (p : Nat) (l : List Pend) : ∀ g : Group, g.Landed (l.foldl (fun a x => a.land p x) g) := by
  induction l with
  | nil => exact .refl
  | cons q l ih => exact fun g => (landed_land g p q).trans (ih _)

/-- Of a path only the mask changes. -/
theorem Group.Landed.path {g h : Group} (e : g.Landed h) (p : Nat) : h.path p = { g.path p with mask := (h.path p).mask } := by
  unfold Group.Landed at e
  by_cases hp : p = 0 <;> simp only [Group.path, hp, if_true, if_false] <;> (rw [e])

theorem land_path_other (g : Group) (p : Nat) (q : Pend) : (g.land p q).path (1 - p) = g.path (1 - p) := by
  unfold Group.land
  split
  · split
    · rfl
    · exact ws_path_other g p _ _
  all_goals rfl

theorem fold_path_other (p : Nat) (l : List Pend) : ∀ g : Group, (l.foldl (fun a x => a.land p x) g).path (1 - p) = g.path (1 - p) := by
  induction l with
  | nil => exact fun _ => rfl
  | cons q l ih => exact fun g => (ih _).trans (land_path_other g p q)

/-! ## The results of the word at a path's PC -/

/-- A group after the results that the word at a path's PC has asked for, before the path's list of them is cut. -/
def Group.ownLanded (g : Group) (p : Nat) : Group :=
  ((g.path p).pend.filter fun x => x.tpc = (g.path p).pc).foldl (fun a x => a.land p x) g

theorem landed_ownLanded (g : Group) (p : Nat) : g.Landed (g.ownLanded p) := landed_fold p _ g

theorem landOwn_eq (g : Group) (p : Nat) : g.landOwn p
    = (g.ownLanded p).setPath p { (g.ownLanded p).path p with pend := (g.path p).pend.filter fun x => x.tpc ≠ (g.path p).pc || x.queued } := rfl

theorem landOwn_path (g : Group) (p : Nat) : (g.landOwn p).path p
    = { g.path p with mask := ((g.landOwn p).path p).mask, pend := (g.path p).pend.filter fun x => x.tpc ≠ (g.path p).pc || x.queued } := by
  rw [landOwn_eq, path_setPath, (landed_ownLanded g p).path p]

theorem landOwn_path_other (g : Group) (p : Nat) : (g.landOwn p).path (1 - p) = g.path (1 - p) := by
  rw [landOwn_eq, path_setPath_other]
  exact fold_path_other p _ g

/-- What writing a word's own results changes of its group. -/
theorem landOwn_frame (g : Group) (p : Nat) : let h := g.landOwn p
    h = { g with sreg := h.sreg, vreg := h.vreg, preg := h.preg, obs := { g.obs with dep := h.obs.dep }, p0 := h.p0, p1 := h.p1 } := by
  have h1 := landOwn_eq g p
  have h2 : g.Landed _ := landed_ownLanded g p
  unfold Group.Landed at h2
  rw [setPath_eq] at h1
  dsimp only
  generalize g.landOwn p = x at h1 ⊢
  generalize g.ownLanded p = y at h1 h2
  rw [h1, h2]

theorem land_sreg (g : Group) (p : Nat) (q : Pend) (h : ∀ d v, q.res ≠ .s d v) : (g.land p q).sreg = g.sreg := by
  unfold Group.land
  split
  · rename_i d v e; exact absurd e (h d v)
  all_goals rfl

theorem landOwn_sreg (g : Group) (p : Nat) (h : ∀ q ∈ (g.path p).pend, q.tpc = (g.path p).pc → ∀ d v, q.res ≠ .s d v) :
    (g.landOwn p).sreg = g.sreg := by
  have key : ∀ (l : List Pend), (∀ q ∈ l, ∀ d v, q.res ≠ .s d v) → ∀ x : Group, (l.foldl (fun a y => a.land p y) x).sreg = x.sreg := by
    intro l
    induction l with
    | nil => exact fun _ _ => rfl
    | cons q l ih =>
      intro hl x
      exact (ih (fun r hr => hl r (List.mem_cons_of_mem _ hr)) _).trans (land_sreg x p q (hl q (List.mem_cons_self ..)))
  rw [landOwn_eq, setPath_sreg]
  refine key _ (fun q hq => ?_) g
  obtain ⟨hm, hc⟩ := List.mem_filter.1 hq
  exact h q hm (of_decide_eq_true hc)

/-- A word without results of its own outstanding: nothing is written. -/
theorem landOwn_none (g : Group) (p : Nat) (h : ∀ q ∈ (g.path p).pend, q.tpc ≠ (g.path p).pc) : g.landOwn p = g := by
  have h1 : (g.path p).pend.filter (fun x => x.tpc = (g.path p).pc) = [] := by
    rw [List.filter_eq_nil_iff]; simpa using h
  have h2 : (g.path p).pend.filter (fun x => x.tpc ≠ (g.path p).pc || x.queued) = (g.path p).pend := by
    rw [List.filter_eq_self]; intro q hq; simp [h q hq]
  rw [landOwn_eq, h2, Group.ownLanded, h1]
  exact setPath_self g p

/-- The vector registers after the one result of a word: those of the group after a write of its lanes. -/
theorem landOwn_vreg (g : Group) (p : Nat) {q : Pend} {d : Nat} {l : List (Nat × W32)}
    (h : (g.path p).pend.filter (fun x => x.tpc = (g.path p).pc) = [q]) (hq : q.res = .v d l) : (g.landOwn p).vreg = (g.wv d l).vreg := by
  rw [landOwn_eq, setPath_vreg, Group.ownLanded, h]
  simp only [List.foldl_cons, List.foldl_nil, Group.land, hq]
  rfl

/-! ## Lanes of a register that are written -/

/-- A lane that is none of those written keeps its value. -/
theorem lane_wv_out (d n j : Nat) (l : List (Nat × W32)) (h : ∀ x ∈ l, d * 64 + x.1 ≠ n * 64 + j) :
    ∀ g : Group, (g.wv d l).lane n j = g.lane n j := by
  induction l with
  | nil => exact fun _ => rfl
  | cons x l ih =>
    intro g
    have h1 : (g.wv d (x :: l)) = (g.wv d [x]).wv d l := rfl
    rw [h1, ih (fun y hy => h y (List.mem_cons_of_mem _ hy))]
    exact tget_tset_ne _ _ _ (h x (List.mem_cons_self ..)).symm

/-- A lane that is written, the lanes being distinct, takes its value. -/
theorem lane_wv_mem (d k : Nat) (r : W32) (l : List (Nat × W32)) (hn : (l.map (·.1)).Nodup) (hk : (k, r) ∈ l) :
    ∀ g : Group, (g.wv d l).lane d k = r := by
  induction l with
  | nil => cases hk
  | cons x l ih =>
    intro g
    rw [List.map_cons, List.nodup_cons] at hn
    have h1 : (g.wv d (x :: l)) = (g.wv d [x]).wv d l := rfl
    rw [h1]
    rcases List.mem_cons.1 hk with e | hk
    · subst e
      rw [lane_wv_out d d k l]
      · exact tget_tset_same _ _ _ _
      · intro y hy e
        exact hn.1 (List.mem_map.2 ⟨y, hy, by simpa using e⟩)
    · exact ih hn.2 hk _

/-! ## Writing every outstanding result -/

theorem landPath_zero (g : Group) : let h := g.landPath 0
    h.p0.pend = g.p0.pend.filter Pend.queued ∧ h.p1.pend = g.p1.pend ∧ h.orph = g.orph ∧ h.p0.pc = g.p0.pc ∧ h.p1.pc = g.p1.pc := by
  have h : g.Landed _ := landed_fold 0 g.p0.pend g
  unfold Group.Landed at h
  refine ⟨rfl, ?_, ?_, ?_, ?_⟩
  all_goals
    simp only [Group.landPath, Group.setPath, Group.path, if_true]
    rw [h]

theorem landPath_one (g : Group) : let h := g.landPath 1
    h.p0.pend = g.p0.pend ∧ h.p1.pend = g.p1.pend.filter Pend.queued ∧ h.orph = g.orph ∧ h.p0.pc = g.p0.pc ∧ h.p1.pc = g.p1.pc := by
  have h : g.Landed _ := landed_fold 1 g.p1.pend g
  unfold Group.Landed at h
  refine ⟨?_, rfl, ?_, ?_, ?_⟩
  all_goals
    simp only [Group.landPath, Group.setPath, Group.path, if_neg Nat.one_ne_zero]
    rw [h]

/-- Writing every outstanding result of a group leaves those of words that wait in the tile unit, and moves no path. -/
theorem landAll_pends (g : Group) : (∀ q ∈ g.landAll.pends, q.queued = true) ∧ ∀ p, (g.landAll.path p).pc = (g.path p).pc := by
  have h : g.Landed _ := landed_fold 2 g.orph g
  unfold Group.Landed at h
  generalize hx : ({ g.orph.foldl (fun (a : Group) x => a.land 2 x) g with orph := g.orph.filter Pend.queued } : Group) = x
  have e : g.landAll = (x.landPath 0).landPath 1 := by rw [← hx]; rfl
  have ho : x.orph = g.orph.filter Pend.queued := by rw [← hx]
  have h0 : x.p0.pc = g.p0.pc := by rw [← hx, h]
  have h1 : x.p1.pc = g.p1.pc := by rw [← hx, h]
  obtain ⟨a1, a2, a3, a4, a5⟩ := landPath_zero x
  obtain ⟨b1, b2, b3, b4, b5⟩ := landPath_one (x.landPath 0)
  rw [e]
  refine ⟨fun q hq => ?_, fun p => ?_⟩
  · simp only [Group.pends, b1, b2, b3, a1, a2, a3, ho, List.mem_append, List.mem_filter] at hq
    rcases hq with (⟨-, hq⟩ | ⟨-, hq⟩) | ⟨-, hq⟩ <;> exact hq
  · by_cases hp : p = 0
    · simp only [Group.path, hp, if_true]; rw [b4, a4, h0]
    · simp only [Group.path, hp, if_false]; rw [b5, a5, h1]

/-! ## The tile unit -/

/-- What a step of the tile unit writes: tiles, their status, and pending stores. -/
theorem tileWrite_frame (g : Group) (x : TOp) : let h := g.tileWrite x
    h = { g with tile := h.tile, tstat := h.tstat, sbuf := h.sbuf } := by
  have hp (g : Group) (d em hsm f) : let h := g.writeProduct d em hsm f; h = { g with tile := h.tile, tstat := h.tstat, sbuf := h.sbuf } := by
    unfold Group.writeProduct; dsimp only; split <;> rfl
  have ha (g : Group) (d rows f) : let h := g.attendRows d rows f; h = { g with tile := h.tile, tstat := h.tstat, sbuf := h.sbuf } := by
    unfold Group.attendRows; dsimp only; split <;> rfl
  cases x with
  | load d full vals =>
    dsimp only [Group.tileWrite]
    split
    · rfl
    · split <;> rfl
  | stat clr d a => dsimp only [Group.tileWrite]; split <;> rfl
  | merge => exact hp _ _ _ _ _
  | dense => exact hp _ _ _ _ _
  | scale => exact hp _ _ _ _ _
  | smax => exact ha _ _ _ _
  | cred => exact ha _ _ _ _
  | _ => rfl

theorem pushWords_cells (g : Group) (em : Mask) (cells : List (Loc × Byte)) :
    (g.pushWords em cells).cells = g.cells ++ (wordsOf cells.length cells).flatten := by
  simp only [Group.pushWords, Group.cells, List.flatMap_append, List.flatMap_map, List.flatMap_id']

/-- What is done to two groups leaves them with the same tiles, and adds the same bytes to what is pending. -/
def StepsAlike (g g' h h' : Group) : Prop :=
  h'.tile = g'.tile ∧ h'.tstat = g'.tstat ∧ ∃ l, h'.cells = h.cells ++ l ∧ g'.cells = g.cells ++ l

theorem stepsAlike_of_sbuf {g g' h h' : Group} (ht : h'.tile = g'.tile) (hs : h'.tstat = g'.tstat) (hh : h'.sbuf = h.sbuf) (hg : g'.sbuf = g.sbuf) :
    StepsAlike g g' h h' := ⟨ht, hs, [], by simp [Group.cells, hh], by simp [Group.cells, hg]⟩

section
variable {g h : Group} (ht : h.tile = g.tile) (hs : h.tstat = g.tstat)
include hs

theorem status_congr (d : Nat) : h.status d = g.status d := by simp only [Group.status, hs]

theorem inv_congr (d : Nat) : h.inv d = g.inv d := by simp only [Group.inv, status_congr hs]

include ht

theorem readElem_congr (i32 : Bool) (d r n : Nat) : h.readElem i32 d r n = g.readElem i32 d r n := by
  simp only [Group.readElem, inv_congr hs, Group.elem, ht]

theorem setRows_alike (d : Nat) (rows : List (Nat × Nat × W32)) (sticky : W32) :
    StepsAlike g (g.setRows d rows sticky) h (h.setRows d rows sticky) := by
  refine stepsAlike_of_sbuf ?_ ?_ rfl rfl
  · simp only [Group.setRows, Group.setElems, Group.setStatus, ht]
  · simp only [Group.setRows, Group.setElems, Group.setStatus, hs, status_congr hs]

theorem writeProduct_alike (d : Nat) (em : Mask) (hsm : Bool) (f : Nat → Nat → W32 → Fl) :
    StepsAlike g (g.writeProduct d em hsm f) h (h.writeProduct d em hsm f) := by
  unfold Group.writeProduct Group.productRows
  simp only [inv_congr hs, Group.elem, ht]
  split
  · exact stepsAlike_of_sbuf ht hs rfl rfl
  · exact setRows_alike ht hs _ _ _

theorem attendRows_alike (d : Nat) (rows : List (Nat × List W32)) (f : FFlags) :
    StepsAlike g (g.attendRows d rows f) h (h.attendRows d rows f) := by
  unfold Group.attendRows
  rw [inv_congr hs]
  split
  · exact stepsAlike_of_sbuf ht hs rfl rfl
  · exact setRows_alike ht hs _ _ _

/-- A step of the tile unit reads nothing of its group but the tiles. -/
theorem tileWrite_alike (x : TOp) : StepsAlike g (g.tileWrite x) h (h.tileWrite x) := by
  cases x with
  | bad d why => exact stepsAlike_of_sbuf ht (by simp only [Group.tileWrite, Group.markInvalid, Group.setStatus, hs, status_congr hs]) rfl rfl
  | merge d em ta body hsm regs blocks => exact writeProduct_alike ht hs _ _ _ _
  | dense d em tb ta st c regs bytes => exact writeProduct_alike ht hs _ _ _ _
  | zero d =>
    exact stepsAlike_of_sbuf (by simp only [Group.tileWrite, Group.setStatus, ht]) (by simp only [Group.tileWrite, Group.setStatus, hs]) rfl rfl
  | load d full vals =>
    simp only [Group.tileWrite, inv_congr hs]
    split
    · exact stepsAlike_of_sbuf (by simp only [Group.setElems, Group.setStatus, ht]) (by simp only [Group.setElems, Group.setStatus, hs]) rfl rfl
    · split
      · exact stepsAlike_of_sbuf ht hs rfl rfl
      · exact stepsAlike_of_sbuf (by simp only [Group.setElems, ht]) hs rfl rfl
  | scale d vals => exact writeProduct_alike ht hs _ _ _ _
  | store i32 d em rows =>
    simp only [Group.tileWrite, readElem_congr ht hs]
    exact ⟨ht, hs, _, pushWords_cells h em _, pushWords_cells g em _⟩
  | read i32 d a em => exact stepsAlike_of_sbuf ht hs rfl rfl
  | stat clr d a =>
    simp only [Group.tileWrite, status_congr hs]
    split
    · exact stepsAlike_of_sbuf ht (by simp only [Group.setStatus, hs]) rfl rfl
    · exact stepsAlike_of_sbuf ht hs rfl rfl
  | smax d a rs =>
    simp only [Group.tileWrite, Group.smaxRows, readElem_congr ht hs]
    exact attendRows_alike ht hs _ _ _
  | cred d a rs f => exact attendRows_alike ht hs _ _ _

end

/-- Of the paths a step of the tile unit fills outstanding results only. -/
theorem tileDo_path (g : Group) (x : TStep) (p : Nat) : (g.tileDo x).path p = { g.path p with pend := ((g.tileDo x).path p).pend } := by
  have h : g.tileDo x = { g.tileWrite x.op with p0 := (g.tileDo x).p0, p1 := (g.tileDo x).p1, orph := (g.tileDo x).orph } := rfl
  have h0 : (g.tileWrite x.op).p0 = g.p0 := by rw [tileWrite_frame]
  have h1 : (g.tileWrite x.op).p1 = g.p1 := by rw [tileWrite_frame]
  by_cases hp : p = 0
  · simp only [Group.path, hp, if_true, Group.tileDo, h0]
  · simp only [Group.path, hp, if_false, Group.tileDo, h1]

/-- Performing the steps that wait fills outstanding results of a path, and changes nothing else of it. -/
theorem drainTiles_path (g : Group) (p : Nat) : g.drainTiles.path p = { g.path p with pend := (g.drainTiles.path p).pend } := by
  have h : ∀ (l : List TStep) (g : Group), (l.foldl Group.tileDo g).path p = { g.path p with pend := ((l.foldl Group.tileDo g).path p).pend } := by
    intro l
    induction l with
    | nil => exact fun _ => rfl
    | cons x l ih =>
      intro g
      have h1 := ih (g.tileDo x)
      rw [tileDo_path] at h1
      exact h1
  exact h g.tileq g

/-- The steps that wait in the tile units of groups with the same tiles add the same bytes to what is pending. -/
theorem drainTiles_cells {g h : Group} (hq : h.tileq = g.tileq) (ht : h.tile = g.tile) (hs : h.tstat = g.tstat) :
    ∃ l, h.drainTiles.cells = h.cells ++ l ∧ g.drainTiles.cells = g.cells ++ l := by
  have key : ∀ (q : List TStep) (g h : Group), h.tile = g.tile → h.tstat = g.tstat →
      ∃ l, (q.foldl Group.tileDo h).cells = h.cells ++ l ∧ (q.foldl Group.tileDo g).cells = g.cells ++ l := by
    intro q
    induction q with
    | nil => exact fun g h _ _ => ⟨[], by simp, by simp⟩
    | cons x q ih =>
      intro g h ht hs
      obtain ⟨h1, h2, l, h3, h4⟩ := tileWrite_alike ht hs x.op
      obtain ⟨m, h5, h6⟩ := ih (g.tileDo x) (h.tileDo x) h1 h2
      refine ⟨l ++ m, ?_, ?_⟩
      · exact h5.trans (by rw [← List.append_assoc, ← h3]; rfl)
      · exact h6.trans (by rw [← List.append_assoc, ← h4]; rfl)
  obtain ⟨l, h1, h2⟩ := key g.tileq g h ht hs
  exact ⟨l, by rw [← h1, ← hq]; rfl, by rw [← h2]; rfl⟩

end Sys2Proof.Machine
end

section
/-! PROOFS. User traps (01 R38 to R41): what is written first, the delivery to the handler, and the system trap UTR. -/

namespace Sys2Proof.Machine

/-! ## Stops of a group -/

/-- An event to the host: the transport and the counters of events. -/
theorem emit_frame (s : State) (src : EvSrc) (ecode lq part : Nat) (body : List Byte) : let t := s.emit src ecode lq part body
    t = { s with tp := t.tp, lqs := t.lqs, parts := t.parts, dies := t.dies } := by
  cases src <;> rfl

theorem emit_group (s : State) (src : EvSrc) (ecode lq part : Nat) (body : List Byte) (k : Nat) :
    (s.emit src ecode lq part body).group k = s.group k := by
  rw [emit_frame]; rfl

theorem sameBytes_emit (s : State) (src : EvSrc) (ecode lq part : Nat) (body : List Byte) : s.SameBytes (s.emit src ecode lq part body) := by
  rw [emit_frame]
  exact ⟨rfl, fun x => by cases x <;> rfl⟩

theorem sameBytes_setCore (s : State) (k : Nat) (x : Core) : s.SameBytes (s.setCore k x) := ⟨rfl, fun y => by cases y <;> rfl⟩

/-- A fault of a control group's core (13 R372). -/
theorem coreFault_ends (s : State) (gk : Nat) (r : TrapRec) : let t := s.coreFault gk r
    t.group gk = { s.group gk with stopped := true, trap := some r, deaf := none } ∧ (∀ k, k ≠ gk → t.group k = s.group k)
      ∧ (t.core (coreOf gk)).faulted = true ∧ s.SameBytes t := by
  refine ⟨?_, fun k hk => ?_, ?_, ?_⟩
  · exact (emit_group _ _ _ _ _ _ _).trans (group_setGroup s gk _)
  · exact (emit_group _ _ _ _ _ _ _).trans (group_setGroup_ne s _ hk)
  · unfold State.coreFault
    dsimp only
    rw [emit_frame]
    exact congrArg Core.faulted (tget_tput_same _ _ _ _)
  · exact ((sameBytes_setGroup s gk _).trans (sameBytes_setCore _ _ _)).trans (sameBytes_emit _ _ _ _ _ _)

theorem coreFault_focus (s : State) (gk : Nat) (r : TrapRec) : (s.coreFault gk r).focus = s.focus := by
  unfold State.coreFault
  dsimp only
  rw [emit_frame]; rfl

/-- What a group has issued, when completed: the bytes that were pending, those of steps that wait in the tile unit among them. -/
theorem sameBytes_quiesce (s : State) (gk : Nat) : (s.wbs (s.group gk).drainTiles.cells).SameBytes (s.quiesce gk) := by
  have h := sameBytes_performAll (s.setGroup gk (s.group gk).drainTiles) gk
  rw [group_setGroup] at h
  exact ((sameBytes_setGroup s gk _).wbs _).trans h

theorem quiesce_group_ne (s : State) {gk k : Nat} (h : k ≠ gk) : (s.quiesce gk).group k = s.group k :=
  (performAll_group_ne _ gk h).trans (group_setGroup_ne s _ h)

/-- Completing what a group has issued moves no path. -/
theorem quiesce_pc (s : State) (gk p : Nat) : (((s.quiesce gk).group gk).path p).pc = ((s.group gk).path p).pc := by
  rw [State.quiesce, performAll_path, group_setGroup, drainTiles_path]

/-- A user group as it stops, when what it has issued is complete. -/
def Group.stop (g : Group) (r : TrapRec) (hold : Hold) : Group :=
  { g.landAll with stopped := true, hold := hold, preempt := false, trap := some r, deaf := none }

theorem stop_stopped (g : Group) (r : TrapRec) (hold : Hold) : (g.stop r hold).stopped = true := rfl
theorem stop_trap (g : Group) (r : TrapRec) (hold : Hold) : (g.stop r hold).trap = some r := rfl
theorem stop_hold (g : Group) (r : TrapRec) (hold : Hold) : (g.stop r hold).hold = hold := rfl
theorem stop_path (g : Group) (r : TrapRec) (hold : Hold) (p : Nat) : (g.stop r hold).path p = g.landAll.path p := rfl
theorem stop_pends (g : Group) (r : TrapRec) (hold : Hold) : (g.stop r hold).pends = g.landAll.pends := rfl

theorem stopGroup_eq (s : State) (gk : Nat) (r : TrapRec) (hold : Hold) : ∃ x, s.stopGroup gk r hold
    = ((s.quiesce gk).setGroup gk (((s.quiesce gk).group gk).stop r hold)).setCore (coreOf gk) x := by
  unfold State.stopGroup
  dsimp only
  split
  · exact ⟨_, rfl⟩
  · exact ⟨_, rfl⟩

/-- A user group that stops (13 R373). -/
theorem stopGroup_ends (s : State) (gk : Nat) (r : TrapRec) (hold : Hold) : let t := s.stopGroup gk r hold
    t.group gk = ((s.quiesce gk).group gk).stop r hold ∧ (∀ k, k ≠ gk → t.group k = s.group k) ∧ (s.quiesce gk).SameBytes t := by
  obtain ⟨x, hx⟩ := stopGroup_eq s gk r hold
  dsimp only
  rw [hx]
  exact ⟨group_setGroup _ gk _, fun k hk => (group_setGroup_ne _ _ hk).trans (quiesce_group_ne s hk),
    (sameBytes_setGroup _ gk _).trans (sameBytes_setCore _ _ _)⟩

theorem stopGroup_focus (s : State) (gk : Nat) (r : TrapRec) (hold : Hold) : (s.stopGroup gk r hold).focus = s.focus := by
  obtain ⟨x, hx⟩ := stopGroup_eq s gk r hold
  rw [hx]
  show (s.quiesce gk).focus = s.focus
  rw [State.quiesce, (stored_performAll _ gk).rest]; rfl

/-! ## What a user trap does first -/

/-- The state in which a user trap is taken: of a continuing cause the word's own results are written and the group's accesses performed (01 R39). -/
def State.beforeUser (s : State) (re : Bool) : State := if re then s else (s.setGrp (s.grp.landOwn s.fpath)).performAll s.focus

theorem stored_beforeUser (s : State) (re : Bool) : s.Stored (s.beforeUser re) := by
  cases re
  · exact (State.Stored.setGroup (.refl s) _ _).trans (stored_performAll _ _)
  · exact .refl s

theorem beforeUser_focus (s : State) (re : Bool) : (s.beforeUser re).focus = s.focus := by rw [(stored_beforeUser s re).rest]
theorem beforeUser_fpath (s : State) (re : Bool) : (s.beforeUser re).fpath = s.fpath := by rw [(stored_beforeUser s re).rest]

/-- What a user trap changes of its group before it is taken. -/
theorem beforeUser_grp (s : State) (re : Bool) : let h := (s.beforeUser re).grp
    h = { s.grp with sreg := h.sreg, vreg := h.vreg, preg := h.preg, obs := h.obs, sbuf := h.sbuf, ends := h.ends, p0 := h.p0, p1 := h.p1 } := by
  cases re
  · have h := performAll_group (s.setGrp (s.grp.landOwn s.fpath)) s.focus
    have hl := landOwn_frame s.grp s.fpath
    have hf : (s.beforeUser false).grp = ((s.setGrp (s.grp.landOwn s.fpath)).performAll s.focus).group s.focus := by
      rw [State.grp, beforeUser_focus]; rfl
    have hs : (s.setGrp (s.grp.landOwn s.fpath)).group s.focus = s.grp.landOwn s.fpath := grp_setGrp s _
    dsimp only at h hl ⊢
    rw [hs] at h
    generalize s.grp.landOwn s.fpath = y at hl h hf
    rw [hf, h, hl]
  · rfl

/-- Of its path the mask and the outstanding results may differ. -/
theorem beforeUser_pth (s : State) (re : Bool) : let q := (s.beforeUser re).pth
    q = { s.pth with mask := q.mask, pend := q.pend } := by
  cases re
  · have h := performAll_group (s.setGrp (s.grp.landOwn s.fpath)) s.focus
    have hs : (s.setGrp (s.grp.landOwn s.fpath)).group s.focus = s.grp.landOwn s.fpath := grp_setGrp s _
    have hf : (s.beforeUser false).pth = (s.grp.landOwn s.fpath).path s.fpath := by
      rw [State.pth, State.grp, beforeUser_focus, beforeUser_fpath]
      show (((s.setGrp (s.grp.landOwn s.fpath)).performAll s.focus).group s.focus).path s.fpath = _
      dsimp only at h
      rw [h, hs]; rfl
    dsimp only
    rw [hf, landOwn_path]; rfl
  · rfl

theorem landOwn_cells (g : Group) (p : Nat) : (g.landOwn p).cells = g.cells := by
  rw [Group.cells, landOwn_frame]; rfl

theorem sameBytes_beforeUser (s : State) (re : Bool) : (if re = true then s else s.performAll s.focus).SameBytes (s.beforeUser re) := by
  cases re
  · have h := sameBytes_performAll (s.setGrp (s.grp.landOwn s.fpath)) s.focus
    rw [show (s.setGrp (s.grp.landOwn s.fpath)).group s.focus = s.grp.landOwn s.fpath from grp_setGrp s _, landOwn_cells] at h
    exact (sameBytes_performAll s s.focus).symm.trans (((sameBytes_setGroup s s.focus _).wbs _).trans h)
  · exact .refl s

theorem beforeUser_group_ne (s : State) (re : Bool) {k : Nat} (h : k ≠ s.focus) : (s.beforeUser re).group k = s.group k := by
  cases re
  · exact (performAll_group_ne _ _ h).trans (group_setGroup_ne s _ h)
  · rfl

/-- After a user trap has performed its group's accesses, what its tile unit has left to do completes what the group had issued. -/
theorem sameBytes_quiesce_beforeUser (s : State) (re : Bool) : (s.quiesce s.focus).SameBytes ((s.beforeUser re).quiesce s.focus) := by
  cases re
  · have hg := beforeUser_grp s false
    have hf : (s.beforeUser false).grp = (s.beforeUser false).group s.focus := by rw [State.grp, beforeUser_focus]
    have hb : ((s.beforeUser false).group s.focus).cells = [] := by
      rw [Group.cells, show ((s.beforeUser false).group s.focus).sbuf = [] from performAll_sbuf _ _]; rfl
    rw [hf] at hg
    obtain ⟨l, h1, h2⟩ := drainTiles_cells (g := s.grp) (h := (s.beforeUser false).group s.focus) (by rw [hg]) (by rw [hg]) (by rw [hg])
    have h3 : (s.wbs s.grp.cells).SameBytes (s.beforeUser false) := (sameBytes_performAll s s.focus).trans (sameBytes_beforeUser s false)
    have h4 := sameBytes_quiesce s s.focus
    have h5 := sameBytes_quiesce (s.beforeUser false) s.focus
    rw [h1, hb, List.nil_append] at h5
    rw [show (s.group s.focus).drainTiles.cells = s.grp.cells ++ l from h2, wbs_append] at h4
    exact h4.symm.trans ((h3.wbs l).trans h5)
  · exact .refl _

theorem beforeUser_pc (s : State) (re : Bool) : (s.beforeUser re).pc = s.pc := by
  rw [State.pc, beforeUser_pth]; rfl

/-! ## The delivery to the handler -/

/-- The other path of a group while a handler runs: it is held, if it is live (01 R39). -/
def Group.heldPath (g : Group) (p : Nat) : Path :=
  { g.path (1 - p) with held := decide ((g.path (1 - p)).st ≠ .free), pend := dropHandlerPends (g.path (1 - p)).pend }

/-- The word that a delivery writes to s125 (01 R39). -/
def Group.handlerWord (g : Group) (p : Nat) : W64 :=
  BitVec.ofNat 64 (p + b2n (decide ((g.path (1 - p)).st ≠ .free)) * 2 + (g.path p).stack.length * 4 + g.rsd * 256)

/-- The scalar registers when a user trap is delivered: s120 to s125 (01 R39). -/
def Group.handlerRegs (g : Group) (p cause : Nat) (i0 i1 : W64) : Tab W64 :=
  [(120, (g.path p).pc), (121, BitVec.ofNat 64 cause), (122, i0), (123, i1), (124, (g.path p).mask), (125, g.handlerWord p)].foldl
    (fun t e => tset 0#64 t e.1 e.2) g.sreg

/-- A group when a user trap is delivered to its handler (01 R39). -/
def Group.deliver (g : Group) (p cause : Nat) (i0 i1 : W64) : Group :=
  (({ g with sreg := g.handlerRegs p cause i0 i1, uhc := cause, hpath := p, orph := dropHandlerPends g.orph }).setPath p
    { g.path p with pc := g.hpc, pend := dropHandlerPends (g.path p).pend }).setPath (1 - p) (g.heldPath p)

/-- A user trap with a handler that does not run is delivered to it (01 R38, R39). -/
theorem userTrap_delivers {s : State} (w : W64) (cause : Nat) (i0 i1 : W64) (re : Bool) (hh : s.grp.hpc ≠ 0) (hu : s.grp.uhc = 0) :
    s.userTrap w cause i0 i1 re = (s.beforeUser re).setGrp ((s.beforeUser re).grp.deliver s.fpath cause i0 i1) := by
  have h1 : (s.beforeUser re).grp.hpc ≠ 0 := by rw [beforeUser_grp]; exact hh
  have h2 : (s.beforeUser re).grp.uhc = 0 := by rw [beforeUser_grp]; exact hu
  have hf := beforeUser_fpath s re
  have e : s.userTrap w cause i0 i1 re
      = (s.beforeUser re).setGrp ((s.beforeUser re).grp.deliver (s.beforeUser re).fpath cause i0 i1) := by
    unfold State.userTrap
    dsimp only
    rw [show (if re = true then s else (s.setGrp (s.grp.landOwn s.fpath)).performAll s.focus) = s.beforeUser re from rfl,
      if_neg h1, if_neg (by simp [h2])]
    rfl
  rw [e, hf]

theorem path_setPath_setPath_other (g : Group) (p : Nat) (q r : Path) : ((g.setPath p q).setPath (1 - p) r).path p = q := by
  by_cases h : p = 0
  · simp [Group.setPath, Group.path, h]
  · have h1 : 1 - p = 0 := by omega
    simp [Group.setPath, Group.path, h, h1]

theorem setPath_setPath_eq (g : Group) (i j : Nat) (q r : Path) : let h := (g.setPath i q).setPath j r
    h = { g with p0 := h.p0, p1 := h.p1 } := by
  by_cases hi : i = 0 <;> by_cases hj : j = 0 <;> simp [Group.setPath, hi, hj]

theorem deliver_path (g : Group) (p cause : Nat) (i0 i1 : W64) :
    (g.deliver p cause i0 i1).path p = { g.path p with pc := g.hpc, pend := dropHandlerPends (g.path p).pend } :=
  path_setPath_setPath_other _ p _ _

theorem deliver_path_other (g : Group) (p cause : Nat) (i0 i1 : W64) : (g.deliver p cause i0 i1).path (1 - p) = g.heldPath p := path_setPath _ _ _

theorem deliver_sreg (g : Group) (p cause : Nat) (i0 i1 : W64) : (g.deliver p cause i0 i1).sreg = g.handlerRegs p cause i0 i1 := by
  rw [Group.deliver, setPath_sreg, setPath_sreg]

theorem deliver_frame (g : Group) (p cause : Nat) (i0 i1 : W64) : let h := g.deliver p cause i0 i1
    h = { g with sreg := h.sreg, uhc := cause, hpath := p, orph := dropHandlerPends g.orph, p0 := h.p0, p1 := h.p1 } := by
  dsimp only
  rw [deliver_sreg]
  exact setPath_setPath_eq _ p (1 - p) _ _

/-- What s120 to s125 hold when a handler starts (01 R39), and what every other scalar register does. -/
theorem tget_handlerRegs (g : Group) (p cause : Nat) (i0 i1 : W64) : let t := g.handlerRegs p cause i0 i1
    tget 0#64 t 120 = (g.path p).pc ∧ tget 0#64 t 121 = BitVec.ofNat 64 cause ∧ tget 0#64 t 122 = i0 ∧ tget 0#64 t 123 = i1
      ∧ tget 0#64 t 124 = (g.path p).mask ∧ tget 0#64 t 125 = g.handlerWord p
      ∧ ∀ n, ¬ (120 ≤ n ∧ n ≤ 125) → tget 0#64 t n = tget 0#64 g.sreg n := by
  refine ⟨?_, ?_, ?_, ?_, ?_, ?_, fun n hn => ?_⟩
  iterate 6 simp [Group.handlerRegs, tget_tset]
  simp only [Group.handlerRegs, List.foldl_cons, List.foldl_nil, tget_tset]
  repeat rw [if_neg (by omega)]

/-- Whether a delivery leaves a result outstanding: it is none for s120 to s125. -/
def Pend.staysForHandler (q : Pend) : Bool :=
  match q.res with
  | .s d _ | .q _ .s d => decide (d < 120 ∨ 125 < d)
  | _ => true

/-- The results outstanding for s120 to s125 are dropped (log entry 73). -/
theorem dropHandlerPends_eq (l : List Pend) : dropHandlerPends l = l.filter Pend.staysForHandler := by
  have h (d : Nat) : (!(decide (120 ≤ d) && decide (d ≤ 125))) = decide (d < 120 ∨ 125 < d) := by
    rw [Bool.eq_iff_iff]; simp
  refine List.filter_congr fun q _ => ?_
  obtain ⟨cls, res, tpc, word, remote, dep⟩ := q
  cases res with
  | s d v => exact h d
  | q n f d =>
    cases f with
    | s => exact h d
    | _ => rfl
  | _ => rfl

/-! ## UTR -/

/-- The record of the system trap UTR (13 R374, R375): the user cause with its information words, and no lane (log entry 112). -/
def State.utrRec (s : State) (w : W64) (cause : Nat) (i0 i1 : W64) : TrapRec :=
  { cause := 7, reason := if s.grp.hpc = 0 then 1 else 2, ps := s.fpath, fetch := false, wr := false, ucause := cause, lane := 0,
    tpc := s.pc, word := w, addr := 0, info0 := i0, info1 := i1, cyc := BitVec.ofNat 64 (s.cycOf s.focus) }

/-- The state that a user trap that cannot be delivered stops: the PC of a continuing cause has moved on (13 R375). -/
def State.pastWord (s : State) (re : Bool) : State := if re then s else s.setPth { s.pth with pc := s.pc + 8 }

/-- A user trap without a handler, or inside one, is the system trap UTR, which faults a control group's core. -/
theorem userTrap_stops {s : State} (w : W64) (cause : Nat) (i0 i1 : W64) (re : Bool) (h : s.grp.hpc = 0 ∨ s.grp.uhc ≠ 0) :
    s.userTrap w cause i0 i1 re = if s.grp.ctl then (s.beforeUser re).coreFault s.focus (s.utrRec w cause i0 i1)
      else ((s.beforeUser re).pastWord re).stopGroup s.focus (s.utrRec w cause i0 i1) .ctl := by
  have hh : (s.beforeUser re).grp.hpc = s.grp.hpc := by rw [beforeUser_grp]
  have hu : (s.beforeUser re).grp.uhc = s.grp.uhc := by rw [beforeUser_grp]
  have hc : (s.beforeUser re).grp.ctl = s.grp.ctl := by rw [beforeUser_grp]
  have hr (n : Nat) : (s.beforeUser re).trapRec s.focus s.fpath w { cause := 7, reason := n, info0 := i0, info1 := i1, ucause := cause }
      = { cause := 7, reason := n, ps := s.fpath, fetch := false, wr := false, ucause := cause, lane := 0, tpc := s.pc, word := w, addr := 0,
          info0 := i0, info1 := i1, cyc := BitVec.ofNat 64 (s.cycOf s.focus) } := by
    have h1 : (((s.beforeUser re).group s.focus).path s.fpath).pc = s.pc := by
      rw [← beforeUser_pc s re, State.pc, State.pth, State.grp, beforeUser_focus, beforeUser_fpath]
    have h2 : (s.beforeUser re).cycOf s.focus = s.cycOf s.focus := by rw [(stored_beforeUser s re).rest]; rfl
    simp only [State.trapRec, h1, h2]
  unfold State.userTrap
  dsimp only
  rw [show (if re = true then s else (s.setGrp (s.grp.landOwn s.fpath)).performAll s.focus) = s.beforeUser re from rfl, hh, hu, hc,
    beforeUser_focus, beforeUser_fpath, hr, hr]
  by_cases h0 : s.grp.hpc = 0
  · rw [if_pos h0]
    simp only [State.utrRec, h0, if_true]; rfl
  · rw [if_neg h0, if_pos (h.resolve_left h0)]
    simp only [State.utrRec, h0, if_false]; rfl

theorem pastWord_grp (s : State) (re : Bool) : let g := (s.pastWord re).grp
    g.tileq = s.grp.tileq ∧ g.tile = s.grp.tile ∧ g.tstat = s.grp.tstat ∧ g.cells = s.grp.cells := by
  cases re
  · simp [State.pastWord, Group.cells]
  · exact ⟨rfl, rfl, rfl, rfl⟩

theorem pastWord_pc (s : State) (re : Bool) : (s.pastWord re).pc = if re = true then s.pc else s.pc + 8 := by
  cases re
  · simp [State.pastWord, State.pc]
  · rfl

theorem pastWord_focus (s : State) (re : Bool) : (s.pastWord re).focus = s.focus := by cases re <;> rfl
theorem pastWord_fpath (s : State) (re : Bool) : (s.pastWord re).fpath = s.fpath := by cases re <;> rfl

theorem pastWord_group_ne (s : State) (re : Bool) {k : Nat} (h : k ≠ s.focus) : (s.pastWord re).group k = s.group k := by
  cases re
  · exact group_setGroup_ne s _ h
  · rfl

/-- Moving a path's PC does not change the bytes that its group has issued. -/
theorem sameBytes_quiesce_pastWord (s : State) (re : Bool) : (s.quiesce s.focus).SameBytes ((s.pastWord re).quiesce s.focus) := by
  cases re
  · obtain ⟨h1, h2, h3, h4⟩ := pastWord_grp s false
    obtain ⟨l, h5, h6⟩ := drainTiles_cells h1 h2 h3
    have hb : s.SameBytes (s.pastWord false) := sameBytes_setGroup s _ _
    have hq := sameBytes_quiesce (s.pastWord false) s.focus
    rw [show ((s.pastWord false).group s.focus).drainTiles.cells = s.grp.drainTiles.cells from h5.trans (by rw [h4, h6])] at hq
    exact (sameBytes_quiesce s s.focus).symm.trans ((hb.wbs _).trans hq)
  · exact .refl _

/-! ## The settled statement -/

/-- Settles O14: a user trap is taken in the state `State.beforeUser`, where it is delivered (`userTrap_delivers`) or stops the group
(`userTrap_stops`). -/
theorem userTraps : Obligations.UserTraps := by
  unfold Obligations.UserTraps
  refine ⟨?delivered, ?own, ?undelivered⟩
  case delivered =>
    intro s w cause i0 i1 re hh hu
    dsimp only
    rw [show (if re = true then s else (s.setGrp (s.grp.landOwn s.fpath)).performAll s.focus) = s.beforeUser re from rfl,
      userTrap_delivers w cause i0 i1 re hh hu]
    obtain ⟨r0, r1, r2, r3, r4, r5, r6⟩ := tget_handlerRegs (s.beforeUser re).grp s.fpath cause i0 i1
    have hg := beforeUser_grp s re
    have hq : (s.beforeUser re).grp.path s.fpath = { s.pth with mask := (s.beforeUser re).pth.mask, pend := (s.beforeUser re).pth.pend } := by
      rw [← beforeUser_fpath s re]; exact beforeUser_pth s re
    have hp : ((s.beforeUser re).setGrp ((s.beforeUser re).grp.deliver s.fpath cause i0 i1)).pth
        = ((s.beforeUser re).grp.deliver s.fpath cause i0 i1).path s.fpath := by
      rw [setGrp_pth, beforeUser_fpath]
    simp only [State.am, State.pc, hp, grp_setGrp, deliver_sreg, deliver_path, deliver_path_other] at r0 r5 ⊢
    refine ⟨r0.trans (by rw [hq]), r1, r2, r3, r4, r5.trans ?_, r6, ?_, trivial, dropHandlerPends_eq _, ?_, ?_,
      (State.Elsewhere.refl _).setGrp _, ?_⟩
    · rw [Group.handlerWord, hq, hg]
    · rw [hg]
    · rw [Group.heldPath, dropHandlerPends_eq]; rfl
    · refine (deliver_frame _ _ _ _ _).trans ?_
      rw [deliver_sreg, dropHandlerPends_eq]; rfl
    · rintro rfl
      refine ⟨?_, (sameBytes_beforeUser s false).2⟩
      rw [State.grp, beforeUser_focus]
      exact performAll_sbuf _ _
  case own =>
    intro g p _ hs
    refine ⟨by rw [landOwn_path], landOwn_sreg g p hs, landOwn_path_other g p, ?_⟩
    intro q d l r n k ho hq hl hn hk
    have hv (n j : Nat) : (g.landOwn p).lane n j = (g.wv d l).lane n j := by rw [Group.lane, landOwn_vreg g p ho hq]; rfl
    refine ⟨(hv d k).trans (lane_wv_mem d k r l hn hk g), fun hne j hj => (hv n j).trans (lane_wv_out d n j l (fun x hx => ?_) g)⟩
    have := hl x hx
    omega
  case undelivered =>
    intro s w cause i0 i1 re h
    dsimp only
    rw [userTrap_stops w cause i0 i1 re h]
    cases hc : s.grp.ctl
    case false =>
      obtain ⟨h1, h2, h3⟩ := stopGroup_ends ((s.beforeUser re).pastWord re) s.focus (s.utrRec w cause i0 i1) .ctl
      have hf : (((s.beforeUser re).pastWord re).stopGroup s.focus (s.utrRec w cause i0 i1) .ctl).focus = s.focus := by
        rw [stopGroup_focus, pastWord_focus, beforeUser_focus]
      obtain ⟨hq, hp⟩ := landAll_pends ((((s.beforeUser re).pastWord re).quiesce s.focus).group s.focus)
      have hpc : ((((s.beforeUser re).pastWord re).group s.focus).path s.fpath).pc = if re = true then s.pc else s.pc + 8 := by
        rw [← beforeUser_pc s re, ← pastWord_pc, State.pc, State.pth, State.grp, pastWord_focus, pastWord_fpath,
          beforeUser_focus, beforeUser_fpath]
      have hb : (s.quiesce s.focus).SameBytes (((s.beforeUser re).pastWord re).quiesce s.focus) := by
        have := sameBytes_quiesce_pastWord (s.beforeUser re) re
        rw [beforeUser_focus] at this
        exact (sameBytes_quiesce_beforeUser s re).trans this
      simp only [Bool.false_eq_true, if_false, State.grp, hf, h1]
      rw [stop_stopped, stop_trap, stop_hold, stop_path, stop_pends]
      refine ⟨rfl, rfl, fun k hk => ?_, fun _ => ⟨rfl, ?_, hq, (hb.trans h3).2⟩, nofun⟩
      · rw [h2 k hk, pastWord_group_ne _ _ (by rw [beforeUser_focus]; exact hk), beforeUser_group_ne s re hk]
      · exact ((hp _).trans (quiesce_pc _ _ _)).trans hpc
    case true =>
      obtain ⟨h1, h2, h3, h4⟩ := coreFault_ends (s.beforeUser re) s.focus (s.utrRec w cause i0 i1)
      have hf : ((s.beforeUser re).coreFault s.focus (s.utrRec w cause i0 i1)).focus = s.focus := by
        rw [coreFault_focus, beforeUser_focus]
      simp only [if_true, State.grp, hf, h1]
      refine ⟨trivial, rfl, fun k hk => (h2 k hk).trans (beforeUser_group_ne s re hk), nofun, fun _ => ⟨h3, fun x => ?_⟩⟩
      exact (h4.2 x).trans ((sameBytes_beforeUser s re).2 x)

end Sys2Proof.Machine
end

section
/-! SUPPORT. The end of a group, and of its team and launch (01 R25 to R27): what stays. -/

namespace Sys2Proof.Machine

/-! ## What the end of a team or launch leaves -/

/-- Groups, memory and what is requested of cores are as they were. -/
structure State.KeepsGroups (s t : State) : Prop where
  groups : t.groups = s.groups
  focus : t.focus = s.focus
  mem : t.mem = s.mem
  peerMem : t.peerMem = s.peerMem
  peers : t.peers = s.peers
  preq : ∀ k, (t.core k).preq = (s.core k).preq

theorem State.KeepsGroups.refl (s : State) : s.KeepsGroups s := ⟨rfl, rfl, rfl, rfl, rfl, fun _ => rfl⟩

theorem State.KeepsGroups.trans {a b c : State} (h : a.KeepsGroups b) (k : b.KeepsGroups c) : a.KeepsGroups c :=
  ⟨k.groups.trans h.groups, k.focus.trans h.focus, k.mem.trans h.mem, k.peerMem.trans h.peerMem, k.peers.trans h.peers,
    fun i => (k.preq i).trans (h.preq i)⟩

theorem State.KeepsGroups.ite {s a b : State} {c : Prop} [Decidable c] (ha : s.KeepsGroups a) (hb : s.KeepsGroups b) :
    s.KeepsGroups (if c then a else b) := by split <;> assumption

/-- A byte of memory depends on the memories and the map of peers. -/
theorem State.KeepsGroups.rb {s t : State} (h : s.KeepsGroups t) (pa : Nat) : t.rb (.gpa pa) = s.rb (.gpa pa) := by
  simp only [State.rb, State.peerKey, h.mem, h.peerMem, h.peers]

theorem keepsGroups_emit (s : State) (src : EvSrc) (ecode lq part : Nat) (body : List Byte) : s.KeepsGroups (s.emit src ecode lq part body) := by
  rw [emit_frame]
  exact ⟨rfl, rfl, rfl, rfl, rfl, fun _ => rfl⟩

theorem keepsGroups_foldl {α : Type} (f : State → α → State) (hf : ∀ (s : State) (a : α), s.KeepsGroups (f s a)) (l : List α) :
    ∀ s : State, s.KeepsGroups (l.foldl f s) := by
  induction l with
  | nil => exact fun s => .refl s
  | cons a l ih => exact fun s => (hf s a).trans (ih _)

theorem keepsGroups_setLq (s : State) (q : Nat) (x : LQueue) : s.KeepsGroups (s.setLq q x) := ⟨rfl, rfl, rfl, rfl, rfl, fun _ => rfl⟩

theorem keepsGroups_markers (s : State) (q : Nat) : s.KeepsGroups (s.markers q) := by
  unfold State.markers
  dsimp only
  exact (keepsGroups_setLq s q _).trans (keepsGroups_foldl _ (fun t _ => keepsGroups_emit t _ _ _ _ _) _ _)

/-- A change of every core that leaves its requests. -/
theorem preq_map (f : Nat × Core → Nat × Core) (hk : ∀ e, (f e).1 = e.1) (hp : ∀ e, (f e).2.preq = e.2.preq) (l : Tab Core) (k : Nat) :
    (tget Core.init (l.map f) k).preq = (tget Core.init l k).preq := by
  induction l with
  | nil => rfl
  | cons e l ih =>
    obtain ⟨j, x⟩ := e
    have h1 : f (j, x) = (j, (f (j, x)).2) := Prod.ext (hk (j, x)) rfl
    rw [List.map_cons, h1]
    unfold tget
    rw [tfind_cons, tfind_cons]
    split
    · exact hp (j, x)
    · exact ih

theorem keepsGroups_tryEndLaunch (s : State) (lid : Nat) : s.KeepsGroups (s.tryEndLaunch lid) := by
  unfold State.tryEndLaunch
  split
  · exact .refl s
  · dsimp only
    refine .ite (.refl s) (State.KeepsGroups.trans ?_ ((keepsGroups_emit _ _ _ _ _ _).trans (keepsGroups_markers _ _)))
    refine ⟨rfl, rfl, rfl, rfl, rfl, fun k => preq_map _ (fun e => ?_) (fun e => ?_) s.cores k⟩
    · split
      · split <;> rfl
      · rfl
    · split
      · split <;> rfl
      · rfl

theorem keepsGroups_tryEndTeam (s : State) (team : Nat) : s.KeepsGroups (s.tryEndTeam team) := by
  unfold State.tryEndTeam
  split
  · exact .refl s
  · dsimp only
    split
    · exact .refl s
    · refine State.KeepsGroups.trans ?_ (keepsGroups_tryEndLaunch _ _)
      split <;> exact ⟨rfl, rfl, rfl, rfl, rfl, fun _ => rfl⟩

/-- A team with groups left does not end. -/
theorem tryEndTeam_stays {s : State} {team : Nat} {t : Team} (h : tfind? s.teams team = some t) (hl : t.ended.length < t.tg) :
    s.tryEndTeam team = s := by
  unfold State.tryEndTeam
  rw [h]
  dsimp only
  rw [if_pos (by simp [hl])]

/-! ## The end of a group -/

theorem tfind_tmod_same {α : Type} (t : Tab α) (k : Nat) (f : α → α) : tfind? (tmod t k f) k = (tfind? t k).map f := by
  induction t with
  | nil => rfl
  | cons e r ih =>
    obtain ⟨j, v⟩ := e
    unfold tmod
    by_cases h : j = k
    · simp [h, tfind_cons]
    · simp [h, tfind_cons, ih]

/-- A request for a slot that is spent is no longer there (13 R386). -/
theorem clearPreq_testBit (x : Core) (slot : Nat) : (x.clearPreq slot).preq.testBit slot = false := by
  unfold Core.clearPreq
  by_cases h : x.preq.testBit slot = true
  · simp only [h, if_true]
    have h1 : x.preq / 2 ^ slot % 2 = 1 := by simpa [Nat.testBit_eq_decide_div_mod_eq] using h
    have h2 := Nat.sub_mul_div x.preq (2 ^ slot) 1
    rw [Nat.mul_one] at h2
    rw [Nat.testBit_eq_decide_div_mod_eq, h2, decide_eq_false_iff_not]
    omega
  · simp [h]

/-- A state without a group that has ended: its team notes it, and a pre-emption request for it is spent. -/
def State.withoutGroup (s : State) (gk : Nat) (g : Group) : State :=
  let u := s.setCore (coreOf gk) ((s.core (coreOf gk)).clearPreq (slotOf gk))
  { u with groups := tdel u.groups gk,
           teams := tmod u.teams g.team fun t => { t with ended := t.ended ++ [g.gid] },
           tqs := u.tqs.map fun (e : Nat × TQueue) =>
             (e.1, { e.2 with waits := e.2.waits.filter fun w => !(w.lid == g.lid && w.team == g.team && w.gid == g.gid) }) }

/-- The end of a group outside a read section: what it has issued is performed, then it is gone, then its team may end. -/
theorem endGroup_eq (s : State) (gk : Nat) (hr : (s.group gk).rsd = 0) : ∃ u : State, s.Stored u ∧ u.groups = (s.performAll gk).groups
    ∧ (s.performAll gk).SameBytes u ∧ s.endGroup gk = (u.withoutGroup gk (s.group gk)).tryEndTeam (s.group gk).team := by
  have he : s.endGroup gk = (((((s.performAll gk).group gk).ends.foldl
      (fun a e => a.countEnd (s.group gk).part (s.group gk).core e.sec e.col) (s.performAll gk)).withoutGroup gk (s.group gk)).tryEndTeam
        (s.group gk).team) := by
    unfold State.endGroup
    dsimp only
    rw [if_neg (by omega)]
    rfl
  refine ⟨_, ?_, ?_, ?_, he⟩
  · exact (stored_performAll s gk).trans (.foldl (fun t (e : SecEnd) => stored_countEnd t _ _ e.sec e.col) _ _)
  · exact foldl_groups _ (fun t (e : SecEnd) => by unfold State.countEnd; dsimp only; split <;> rfl) _ _
  · exact sameBytes_foldl _ (fun t (e : SecEnd) => sameBytes_countEnd t _ _ e.sec e.col) _ _

/-- A group that ends (01 R25): its accesses are performed, its slot is free, and its team knows. -/
theorem endGroup_ends (s : State) (gk : Nat) (hr : (s.group gk).rsd = 0) : let g := s.group gk
    let t := s.endGroup gk
    tfind? t.groups gk = none ∧ t.focus = s.focus ∧ (∀ k, k ≠ gk → t.group k = s.group k)
      ∧ (∀ pa, t.rb (.gpa pa) = (s.performAll gk).rb (.gpa pa))
      ∧ (t.core (coreOf gk)).preq.testBit (slotOf gk) = false
      ∧ ((tfind? s.teams g.team).isSome = true → (s.team g.team).ended.length + 1 < (s.team g.team).tg →
          (t.team g.team).ended = (s.team g.team).ended ++ [g.gid]) := by
  obtain ⟨u, h1, h2, h3, h4⟩ := endGroup_eq s gk hr
  have hk := keepsGroups_tryEndTeam (u.withoutGroup gk (s.group gk)) (s.group gk).team
  dsimp only
  rw [h4]
  refine ⟨?_, ?_, fun k hne => ?_, fun pa => ?_, ?_, fun hl hn => ?_⟩
  · rw [hk.groups]
    exact tfind_tdel_same _ gk
  · rw [hk.focus]
    show u.focus = s.focus
    rw [h1.rest]
  · have h5 : (u.withoutGroup gk (s.group gk)).group k = (s.performAll gk).group k := by
      show tget _ (tdel u.groups gk) k = _
      rw [h2, tget, tfind_tdel_ne _ hne]; rfl
    exact (congrArg (fun l => tget Group.empty l k) hk.groups).trans (h5.trans (performAll_group_ne s gk hne))
  · rw [hk.rb, ← h3.2]; rfl
  · rw [hk.preq]
    show (tget Core.init (tput u.cores (coreOf gk) _) (coreOf gk)).preq.testBit _ = false
    rw [tget_tput_same]
    exact clearPreq_testBit _ _
  · obtain ⟨x, hx⟩ := Option.isSome_iff_exists.1 (h1.live _ hl)
    have hxt : u.team (s.group gk).team = x := by rw [State.team, tget, hx]; rfl
    have hs := h1.team (s.group gk).team
    rw [hxt] at hs
    have hf : tfind? (u.withoutGroup gk (s.group gk)).teams (s.group gk).team = some { x with ended := x.ended ++ [(s.group gk).gid] } := by
      show tfind? (tmod u.teams _ _) _ = _
      rw [tfind_tmod_same, hx]; rfl
    rw [tryEndTeam_stays hf (by simp only [List.length_append, List.length_singleton]; rw [hs]; exact hn)]
    show (tget Team.empty (u.withoutGroup gk (s.group gk)).teams _).ended = _
    rw [tget, hf, hs]; rfl

end Sys2Proof.Machine
end

section
/-! PROOFS. `brd` and `join` (01 R33, R34): a path divides, and paths come together. -/

namespace Sys2Proof.Machine

/-! ## Words that replace their group and go on -/

/-- A word that replaces its group, the path slots at most differing from a group `g`, and goes on at an address. -/
theorem goto_setGrp (i : Instr) (s : State) {g h : Group} (pc : W64) (e : h = { g with p0 := h.p0, p1 := h.p1 }) :
    let u := finish i s (.goto (s.tick.setGrp h) pc)
    s.Elsewhere u ∧ u.grp = { g with p0 := u.grp.p0, p1 := u.grp.p1 } ∧ u.pth = { h.path s.fpath with pc := pc, park := i.pk }
      ∧ u.grp.path (1 - s.fpath) = h.path (1 - s.fpath) := by
  have hg : (finish i s (.goto (s.tick.setGrp h) pc)).grp = h.setPath s.fpath { h.path s.fpath with pc := pc, park := i.pk } := by
    rw [finish, advance_grp, grp_setGrp, setGrp_pth]; rfl
  dsimp only
  refine ⟨((State.Elsewhere.tick s).setGrp h).advance pc i.pk, ?_, ?_, by rw [hg, path_setPath_other]⟩
  · rw [hg, setPath_eq]
    generalize h.setPath s.fpath _ = x
    rw [e]
  · rw [finish, advance_pth, setGrp_pth]; rfl

/-- A word that replaces its path, and goes on at an address. -/
theorem goto_setPth (i : Instr) (s : State) (q : Path) (pc : W64) : let u := finish i s (.goto (s.tick.setPth q) pc)
    s.Elsewhere u ∧ u.pth = { q with pc := pc, park := i.pk } ∧ u.grp = { s.grp with p0 := u.grp.p0, p1 := u.grp.p1 }
      ∧ u.grp.path (1 - s.fpath) = s.grp.path (1 - s.fpath) := by
  obtain ⟨h1, h2, h3, h4⟩ := goto_setGrp i s pc (setPath_eq s.grp s.fpath q)
  rw [path_setPath] at h3
  rw [path_setPath_other] at h4
  exact ⟨h1, h3, h2, h4⟩

/-- A word that replaces its group, the path slots at most differing from a group `g`, and has placed its path itself. -/
theorem placed_setGrp (i : Instr) (s : State) {g h : Group} (e : h = { g with p0 := h.p0, p1 := h.p1 }) :
    let u := finish i s (.placed (s.tick.setGrp h))
    s.Elsewhere u ∧ u.grp = { g with p0 := u.grp.p0, p1 := u.grp.p1 } ∧ u.pth = { h.path s.fpath with park := i.pk }
      ∧ u.grp.path (1 - s.fpath) = h.path (1 - s.fpath) := by
  have hl : (tfind? (s.tick.setGrp h).groups (s.tick.setGrp h).focus).isSome = true := by
    show (tfind? (tput s.groups s.focus h) s.focus).isSome = true
    rw [tfind_tput_same]; rfl
  have hu : finish i s (.placed (s.tick.setGrp h)) = (s.tick.setGrp h).setPth { h.path s.fpath with park := i.pk } := by
    rw [finish, if_pos hl, setGrp_pth]; rfl
  have hg : ((s.tick.setGrp h).setPth { h.path s.fpath with park := i.pk }).grp = h.setPath s.fpath { h.path s.fpath with park := i.pk } := by
    rw [setPth_grp, grp_setGrp]; rfl
  dsimp only
  rw [hu]
  refine ⟨((State.Elsewhere.tick s).setGrp h).setGrp _, ?_, setPth_pth _ _, by rw [hg, path_setPath_other]⟩
  rw [hg, setPath_eq]
  generalize h.setPath s.fpath _ = x
  rw [e]

/-! ## `brd` -/

/-- A group whose path has handed lanes to the other slot (01 R33). -/
def Group.split (g : Group) (p : Nat) (dest : W64) (t n : Mask) : Group :=
  (g.setPath (1 - p) (Path.open_ dest t)).setPath p { g.path p with mask := n, owned := (g.path p).owned &&& ~~~t }

theorem exec_brd {s : State} {pk : Bool} {p : Nat} {off : BitVec 23} (hi : s.Issues (.brd pk p off)) :
    let t := s.am &&& s.tick.rpm p
    let n := s.am &&& ~~~(s.tick.rpm p)
    let dest := s.pc + 8 * off.signExtend 64
    exec (.brd pk p off) s = .next (finish (.brd pk p off) s (
      if n = 0 then .goto s.tick dest
      else if t = 0 then .goto s.tick (s.pc + 8)
      else if (s.grp.path (1 - s.fpath)).st = .free && !s.grp.ctl then .goto (s.tick.setGrp (s.grp.split s.fpath dest t n)) (s.pc + 8)
      else if s.pth.stack.length ≥ 8 then ils 1
      else .goto (s.tick.setPth { s.pth with mask := t, stack := ⟨s.pc + 8, n, s.am, none, false⟩ :: s.pth.stack }) dest)) := by
  show execBrd pk p off s = _
  rw [execBrd, word_of_issues hi]; rfl

/-! ## `join` -/

section
variable {s : State} {pk : Bool} (hi : s.Issues (.join pk))
include hi

/-- `join` at an entry of the stack. -/
theorem exec_join_cons {e : StackEnt} {r : List StackEnt} (hs : s.pth.stack = e :: r) :
    exec (.join pk) s = .next (finish (.join pk) s (
      if !e.second then
        .goto (s.tick.setPth { s.pth with mask := e.rmask &&& s.pth.owned, stack := { e with jpc := some s.pc, second := true } :: r }) e.rpc
      else if e.jpc.isSome && e.jpc != some s.pc then ils 2
      else .goto (s.tick.setPth { s.pth with mask := e.full &&& s.pth.owned, stack := r }) (s.pc + 8))) := by
  show execJoin pk s = _
  rw [execJoin, word_of_issues hi]
  simp only [tick_pth, hs]
  rfl

/-- A group whose path has merged with the parked one (01 R34, log entry 93). -/
def Group.merge (g : Group) (p : Nat) : Group :=
  (({ g with hpath := if g.hpath = 1 - p then p else g.hpath }).setPath (1 - p) Path.idle).setPath p
    { g.path p with owned := (g.path p).owned ||| (g.path (1 - p)).owned, mask := (g.path p).mask ||| (g.path (1 - p)).mask,
                    pend := (g.path p).pend ++ (g.path (1 - p)).pend.filter notEm }

/-- `join` with an empty stack. -/
theorem exec_join_nil (hs : s.pth.stack = []) :
    exec (.join pk) s = .next (finish (.join pk) s (
      if (s.grp.path (1 - s.fpath)).st = .free then .goto s.tick (s.pc + 8)
      else if (s.grp.path (1 - s.fpath)).st = .parked then
        if s.pc ≠ (s.grp.path (1 - s.fpath)).jpc then ils 2 else .goto (s.tick.setGrp (s.grp.merge s.fpath)) (s.pc + 8)
      else .placed (s.tick.setPth { s.pth with jpc := s.pc, st := .parked }))) := by
  show execJoin pk s = _
  rw [execJoin, word_of_issues hi]
  dsimp only
  split
  · rename_i e r h
    exact absurd (h.symm.trans hs) (by simp)
  · rfl

end

/-! ## The settled statement -/

/-- Settles O20: `exec_brd`, `exec_join_cons` and `exec_join_nil` say what each word does, `goto_setGrp` what that leaves of the state. -/
theorem divergenceAndJoin : Obligations.DivergenceAndJoin := by
  unfold Obligations.DivergenceAndJoin
  refine ⟨fun s pk p off hi => ?_, fun s pk e r hi => ?_⟩
  · have taken (h : (s.grp.path (1 - s.fpath)).st ≠ .free ∨ s.grp.ctl = true) :
        ¬ ((decide ((s.grp.path (1 - s.fpath)).st = .free) && !s.grp.ctl) = true) := by
      rcases h with h | h <;> simp [h]
    dsimp only
    rw [exec_brd hi]
    refine ⟨fun hn => ?all, fun hn ht => ?none, fun hn ht ho hc => ?split, fun hn ht ho hl => ?push, fun hn ht ho hl => ?full⟩
    case all =>
      rw [if_pos hn]
      exact onlyGoes
    case none =>
      rw [if_neg hn, if_pos ht]
      exact onlyGoes
    case split =>
      rw [if_neg hn, if_neg ht, if_pos (by simp [ho, hc])]
      obtain ⟨h1, h2, h3, h4⟩ := goto_setGrp (.brd pk p off) s (s.pc + 8) (setPath_setPath_eq s.grp (1 - s.fpath) s.fpath
        (Path.open_ (s.pc + 8 * off.signExtend 64) (s.am &&& s.tick.rpm p))
        { s.pth with mask := s.am &&& ~~~(s.tick.rpm p), owned := s.pth.owned &&& ~~~(s.am &&& s.tick.rpm p) })
      refine ⟨_, rfl, h1, h2, h3.trans ?_, h4.trans ?_⟩
      · rw [path_setPath]; rfl
      · rw [path_setPath_other, path_setPath]; rfl
    case push =>
      rw [if_neg hn, if_neg ht, if_neg (taken ho), if_neg (by omega)]
      obtain ⟨h1, h2, h3, h4⟩ := goto_setPth (.brd pk p off) s { s.pth with
        mask := s.am &&& s.tick.rpm p, stack := ⟨s.pc + 8, s.am &&& ~~~(s.tick.rpm p), s.am, none, false⟩ :: s.pth.stack }
        (s.pc + 8 * off.signExtend 64)
      exact ⟨_, rfl, h1, h3, h2, h4⟩
    case full =>
      rw [if_neg hn, if_neg ht, if_neg (taken ho), if_pos hl]
      rfl
  · refine ⟨fun hs h2 => ?first, fun hs h2 hj => ?second, fun hs ho => ?alone, fun hs ho hj => ?merge, fun hs h2 hn hj => ?badEntry,
      fun hs ho hj => ?badParked, fun hs hf hp => ?park⟩
    case first =>
      rw [exec_join_cons hi hs, if_pos (by simp [h2])]
      exact ⟨_, rfl, goto_setPth (.join pk) s _ _⟩
    case second =>
      rw [exec_join_cons hi hs, if_neg (by simp [h2]), if_neg (by rcases hj with h | h <;> simp [h])]
      exact ⟨_, rfl, goto_setPth (.join pk) s _ _⟩
    case alone =>
      rw [exec_join_nil hi hs, if_pos ho]
      exact onlyGoes
    case merge =>
      rw [exec_join_nil hi hs, if_neg (by simp [ho]), if_pos ho, if_neg (by simpa using hj)]
      obtain ⟨h1, h2, h3, h4⟩ := goto_setGrp (.join pk) s (h := s.grp.merge s.fpath) (s.pc + 8) (setPath_setPath_eq _ _ _ _ _)
      refine ⟨_, rfl, h1, h4.trans ?_, h2, h3.trans ?_⟩
      · rw [Group.merge, path_setPath_other, path_setPath]
      · rw [Group.merge, path_setPath]; rfl
    case badEntry =>
      rw [exec_join_cons hi hs, if_neg (by simp [h2]), if_pos (by simp [Option.isSome_iff_ne_none, hn, hj])]
      rfl
    case badParked =>
      rw [exec_join_nil hi hs, if_neg (by simp [ho]), if_pos ho, if_pos hj]
      rfl
    case park =>
      rw [exec_join_nil hi hs, if_neg hf, if_neg hp]
      obtain ⟨h1, h2, h3, h4⟩ := placed_setGrp (.join pk) s (setPath_eq s.grp s.fpath { s.pth with jpc := s.pc, st := .parked })
      exact ⟨_, rfl, h1, h2, h3.trans (by rw [path_setPath]; rfl), h4.trans (path_setPath_other _ _ _)⟩

end Sys2Proof.Machine
end

section
/-! PROOFS. `exit` (01 R35, R40): a path ends, or goes on over what is left of its stack. -/

namespace Sys2Proof.Machine

/-! ## The end of a path -/

/-- The handler of a group ends with its path `p` (01 R40). -/
def Group.handlerEnds (g : Group) (p : Nat) : Bool := decide (g.uhc ≠ 0 ∧ g.hpath = p)

/-- The other path of a group when path `p` ends or unwinds: it is released if it was held for the handler (01 R40). -/
def Group.freedPath (g : Group) (p : Nat) : Path :=
  if g.handlerEnds p = true then { g.path (1 - p) with held := false } else g.path (1 - p)

theorem endHandler_ends (g : Group) (p : Nat) : let h := g.endHandler p
    h = { g with uhc := if g.handlerEnds p = true then 0 else g.uhc, p0 := h.p0, p1 := h.p1 } ∧ h.path p = g.path p
      ∧ h.path (1 - p) = g.freedPath p := by
  have hd : (g.uhc ≠ 0 && g.hpath = p) = g.handlerEnds p := by simp [Group.handlerEnds]
  unfold Group.endHandler Group.freedPath
  rw [hd]
  cases g.handlerEnds p
  · exact ⟨rfl, rfl, rfl⟩
  · refine ⟨?_, ?_, path_setPath _ _ _⟩
    · simp only [if_true]
      exact setPath_eq _ _ _
    · by_cases hp : p = 0
      · simp [Group.setPath, Group.path, hp]
      · have : 1 - p = 0 := by omega
        simp [Group.setPath, Group.path, hp, this]

/-- The other path when a path has ended: one that is parked goes on past its `join` (01 R35). -/
def Path.pastJoin (o : Path) : Path := if o.st = .parked then { o with st := .ready, pc := o.jpc + 8 } else o

theorem endPath_ends (g : Group) (p : Nat) : let h := g.endPath p
    h = { g with orph := g.orph ++ (g.path p).pend, p0 := h.p0, p1 := h.p1 } ∧ h.path p = Path.idle
      ∧ h.path (1 - p) = (g.path (1 - p)).pastJoin := by
  unfold Group.endPath Path.pastJoin
  dsimp only
  split
  · exact ⟨setPath_setPath_eq _ p (1 - p) _ _, path_setPath_setPath_other _ p _ _, path_setPath _ _ _⟩
  · exact ⟨setPath_eq _ _ _, path_setPath _ _ _, path_setPath_other _ _ _⟩

/-- Both slots of a group, by the path slot and its other. -/
theorem forall_path (g : Group) (p : Nat) (P : Path → Prop) : (P g.p0 ∧ P g.p1) ↔ (P (g.path p) ∧ P (g.path (1 - p))) := by
  by_cases hp : p = 0
  · simp [Group.path, hp]
  · have : 1 - p = 0 := by omega
    simp [Group.path, hp, this, and_comm]

theorem pends_eq_nil (g : Group) (p : Nat) : g.pends = [] ↔ ((g.path p).pend = [] ∧ (g.path (1 - p)).pend = []) ∧ g.orph = [] := by
  rw [← forall_path g p fun q => q.pend = []]
  simp [Group.pends, and_assoc]

/-- The path of a group that executes `exit` has ended (01 R35, R40). -/
def Group.exited (g : Group) (p : Nat) : Group := (g.endHandler p).endPath p

theorem exited_ends (g : Group) (p : Nat) : let h := g.exited p
    h = { g with uhc := if g.handlerEnds p = true then 0 else g.uhc, orph := g.orph ++ (g.path p).pend, p0 := h.p0, p1 := h.p1 }
      ∧ h.path p = Path.idle ∧ h.path (1 - p) = (g.freedPath p).pastJoin := by
  obtain ⟨h1, h2, h3⟩ := endHandler_ends g p
  obtain ⟨h4, h5, h6⟩ := endPath_ends (g.endHandler p) p
  refine ⟨h4.trans ?_, h5, h6.trans (by rw [h3])⟩
  unfold Group.exited
  generalize (g.endHandler p).endPath p = x
  rw [h2]
  rw [h1]

theorem freedPath_st (g : Group) (p : Nat) : (g.freedPath p).st = (g.path (1 - p)).st := by unfold Group.freedPath; split <;> rfl
theorem freedPath_jpc (g : Group) (p : Nat) : (g.freedPath p).jpc = (g.path (1 - p)).jpc := by unfold Group.freedPath; split <;> rfl
theorem freedPath_pend (g : Group) (p : Nat) : (g.freedPath p).pend = (g.path (1 - p)).pend := by unfold Group.freedPath; split <;> rfl
theorem pastJoin_free (o : Path) : o.pastJoin.st = .free ↔ o.st = .free := by unfold Path.pastJoin; split <;> simp_all
theorem pastJoin_pend (o : Path) : o.pastJoin.pend = o.pend := by unfold Path.pastJoin; split <;> rfl

/-- Whether a group ends with its path (01 R25): it is a user group without another path and without an outstanding result. -/
theorem exited_over (g : Group) (p : Nat) :
    ((!(g.exited p).ctl && decide ((g.exited p).p0.st = .free) && decide ((g.exited p).p1.st = .free) && (g.exited p).pends.isEmpty) = true)
      ↔ (g.ctl = false ∧ (g.path (1 - p)).st = .free ∧ g.pends = []) := by
  obtain ⟨h1, h2, h3⟩ := exited_ends g p
  have hc : (g.exited p).ctl = g.ctl := by rw [h1]
  have ho : (g.exited p).orph = g.orph ++ (g.path p).pend := by rw [h1]
  have hf : ((g.exited p).p0.st = .free ∧ (g.exited p).p1.st = .free) ↔ (g.path (1 - p)).st = .free := by
    rw [forall_path _ p fun q => q.st = .free, h2, h3, pastJoin_free, freedPath_st]
    exact and_iff_right rfl
  have hp : (g.exited p).pends = [] ↔ g.pends = [] := by
    rw [pends_eq_nil _ p, pends_eq_nil g p, h2, h3, pastJoin_pend, freedPath_pend, ho, List.append_eq_nil_iff]
    exact ⟨fun ⟨⟨_, h⟩, ho, hq⟩ => ⟨⟨hq, h⟩, ho⟩, fun ⟨⟨hq, h⟩, ho⟩ => ⟨⟨rfl, h⟩, ho, hq⟩⟩
  rw [← hp, ← hf, ← hc]
  simp [and_assoc]

/-! ## The reconvergence stack -/

theorem exitUnwind_first (x : Mask) {e : StackEnt} (r : List StackEnt) (h : e.second = false) :
    exitUnwind x (e :: r) = some (e.rmask &&& ~~~x, e.rpc, { e with full := e.full &&& ~~~x, second := true } :: r, x) := by
  simp [exitUnwind, h]

theorem exitUnwind_past (x : Mask) {e : StackEnt} (r : List StackEnt) {j : W64} (h : e.second = true) (hj : e.jpc = some j)
    (hf : e.full &&& ~~~x ≠ 0#64) : exitUnwind x (e :: r) = some (e.full &&& ~~~x, j + 8, r, x) := by
  simp [exitUnwind, h, hj, hf]

theorem exitUnwind_over (x : Mask) {e : StackEnt} (r : List StackEnt) (h : e.second = true) (hj : e.jpc = none ∨ e.full &&& ~~~x = 0#64) :
    exitUnwind x (e :: r) = exitUnwind (x ||| (e.full &&& ~~~x)) r := by
  rcases hj with hj | hj
  · simp [exitUnwind, h, hj]
  · cases hk : e.jpc <;> simp [exitUnwind, h, hj, hk]

/-! ## `exit` -/

section
variable {s : State} {pk : Bool} (hi : s.Issues (.exit pk))
include hi

theorem exec_exit_section (hr : 0 < s.grp.rsd) : exec (.exit pk) s = .next (s.sysTrapped (.exit pk) { cause := 4, reason := 3 }) := by
  show execExit pk s = _
  rw [execExit, word_of_issues hi]
  dsimp only
  rw [if_pos (show s.tick.grp.rsd > 0 from hr)]
  rfl

theorem exec_exit (hr : s.grp.rsd = 0) : let gone := s.pth.mask ||| ~~~s.pth.owned
    exec (.exit pk) s = .next (finish (.exit pk) s (match exitUnwind gone s.pth.stack with
      | some (m, pc, st, x) =>
        .goto (s.tick.setGrp ((s.grp.endHandler s.fpath).setPath s.fpath { s.pth with mask := m, stack := st, owned := s.pth.owned &&& ~~~x })) pc
      | none => .placed ((s.tick.setGrp (s.grp.exited s.fpath)).tryEndGroup s.focus))) := by
  obtain ⟨-, h2, -⟩ := endHandler_ends s.grp s.fpath
  show execExit pk s = _
  rw [execExit, word_of_issues hi]
  dsimp only
  rw [if_neg (show ¬ s.tick.grp.rsd > 0 by rw [tick_grp]; omega)]
  have hq : (s.tick.grp.endHandler s.tick.fpath).path s.tick.fpath = s.pth := h2
  rw [hq]
  rfl

/-- The path goes on over what is left of its stack. -/
theorem exit_runs (hr : s.grp.rsd = 0) {m x : Mask} {pc : W64} {st : List StackEnt}
    (hu : exitUnwind (s.pth.mask ||| ~~~s.pth.owned) s.pth.stack = some (m, pc, st, x)) : Completes (exec (.exit pk) s) fun u =>
      s.Elsewhere u ∧ u.grp = { s.grp with uhc := if s.grp.handlerEnds s.fpath = true then 0 else s.grp.uhc, p0 := u.grp.p0, p1 := u.grp.p1 }
        ∧ u.pth = { s.pth with pc := pc, park := pk, mask := m, stack := st, owned := s.pth.owned &&& ~~~x }
        ∧ u.grp.path (1 - s.fpath) = s.grp.freedPath s.fpath := by
  obtain ⟨h1, -, h3⟩ := endHandler_ends s.grp s.fpath
  have he : ∀ q : Path, let h := (s.grp.endHandler s.fpath).setPath s.fpath q
      h = { s.grp with uhc := if s.grp.handlerEnds s.fpath = true then 0 else s.grp.uhc, p0 := h.p0, p1 := h.p1 } := by
    intro q
    have h4 := setPath_eq (s.grp.endHandler s.fpath) s.fpath q
    dsimp only
    generalize (s.grp.endHandler s.fpath).setPath s.fpath q = y at h4 ⊢
    rw [h4, h1]
  rw [exec_exit hi hr, hu]
  obtain ⟨h5, h6, h7, h8⟩ := goto_setGrp (.exit pk) s pc (g := { s.grp with uhc := if s.grp.handlerEnds s.fpath = true then 0 else s.grp.uhc })
    (he { s.pth with mask := m, stack := st, owned := s.pth.owned &&& ~~~x })
  exact ⟨_, rfl, h5, h6, h7.trans (by rw [path_setPath]; rfl), h8.trans (by rw [path_setPath_other, h3])⟩

/-- The path ends, and its group does not. -/
theorem exit_ends (hr : s.grp.rsd = 0) (hu : exitUnwind (s.pth.mask ||| ~~~s.pth.owned) s.pth.stack = none)
    (hl : (s.grp.path (1 - s.fpath)).st ≠ .free ∨ s.grp.ctl = true ∨ s.grp.pends ≠ []) : Completes (exec (.exit pk) s) fun u =>
      s.Elsewhere u ∧ u.pth = { Path.idle with park := pk } ∧ u.grp.path (1 - s.fpath) = (s.grp.freedPath s.fpath).pastJoin
        ∧ u.grp = { s.grp with uhc := if s.grp.handlerEnds s.fpath = true then 0 else s.grp.uhc, orph := s.grp.orph ++ s.pth.pend,
                               p0 := u.grp.p0, p1 := u.grp.p1 } := by
  obtain ⟨h1, h2, h3⟩ := exited_ends s.grp s.fpath
  have hn : (s.tick.setGrp (s.grp.exited s.fpath)).tryEndGroup s.focus = s.tick.setGrp (s.grp.exited s.fpath) := by
    have hg : (s.tick.setGrp (s.grp.exited s.fpath)).group s.focus = s.grp.exited s.fpath := grp_setGrp s.tick _
    have ho := mt (exited_over s.grp s.fpath).1 (by
      rintro ⟨a, b, c⟩
      rcases hl with h | h | h
      · exact h b
      · rw [a] at h; cases h
      · exact h c)
    unfold State.tryEndGroup
    dsimp only
    rw [hg, if_neg]
    intro h
    exact ho (by simp only [Bool.and_eq_true] at h ⊢; exact ⟨⟨⟨h.1.1.1.2, h.1.1.2⟩, h.1.2⟩, h.2⟩)
  rw [exec_exit hi hr, hu]
  dsimp only
  rw [hn]
  obtain ⟨h5, h6, h7, h8⟩ := placed_setGrp (.exit pk) s
    (g := { s.grp with uhc := if s.grp.handlerEnds s.fpath = true then 0 else s.grp.uhc, orph := s.grp.orph ++ s.pth.pend }) h1
  exact ⟨_, rfl, h5, h7.trans (by rw [h2]; rfl), h8.trans h3, h6⟩

end

end Sys2Proof.Machine
end

section
/-! PROOFS. The end of a group with its last path, `brk` and `tret`, and what O21 says of them all. -/

namespace Sys2Proof.Machine

/-! ## The end of a group with its path -/

theorem performAll_bytes_congr {s t : State} {gk : Nat} (h : s.SameBytes t) (hc : (t.group gk).cells = (s.group gk).cells) :
    (s.performAll gk).SameBytes (t.performAll gk) := by
  have ht := sameBytes_performAll t gk
  rw [hc] at ht
  exact (sameBytes_performAll s gk).symm.trans ((h.wbs _).trans ht)

/-- The last path of a user group ends, with no result outstanding: the group ends (01 R25). -/
theorem exit_ends_group {s : State} {pk : Bool} (hi : s.Issues (.exit pk)) (hr : s.grp.rsd = 0)
    (hu : exitUnwind (s.pth.mask ||| ~~~s.pth.owned) s.pth.stack = none) (ho : (s.grp.path (1 - s.fpath)).st = .free) (hc : s.grp.ctl = false)
    (hp : s.grp.pends = []) : exec (.exit pk) s = .next ((s.tick.setGrp (s.grp.exited s.fpath)).endGroup s.focus) := by
  have hg : (s.tick.setGrp (s.grp.exited s.fpath)).group s.focus = s.grp.exited s.fpath := grp_setGrp s.tick _
  have hl : (tfind? (s.tick.setGrp (s.grp.exited s.fpath)).groups s.focus).isSome = true := by
    show (tfind? (tput s.groups s.focus _) s.focus).isSome = true
    rw [tfind_tput_same]; rfl
  have he : (s.tick.setGrp (s.grp.exited s.fpath)).tryEndGroup s.focus = (s.tick.setGrp (s.grp.exited s.fpath)).endGroup s.focus := by
    have h := (exited_over s.grp s.fpath).2 ⟨hc, ho, hp⟩
    simp only [Bool.and_eq_true] at h
    unfold State.tryEndGroup
    dsimp only
    rw [hg, if_pos]
    simp only [hl, Bool.and_eq_true]
    exact ⟨⟨⟨⟨trivial, h.1.1.1⟩, h.1.1.2⟩, h.1.2⟩, h.2⟩
  have hr' : ((s.tick.setGrp (s.grp.exited s.fpath)).group s.focus).rsd = 0 := by
    rw [hg, (exited_ends s.grp s.fpath).1]; exact hr
  obtain ⟨h1, h2, -⟩ := endGroup_ends _ s.focus hr'
  rw [exec_exit hi hr, hu]
  dsimp only
  rw [he, finish, if_neg]
  rw [h2]
  show ¬ (tfind? _ s.focus).isSome = true
  rw [h1]
  simp

theorem pastJoin_freedPath (g : Group) (p : Nat) : (g.freedPath p).pastJoin
    = if (g.path (1 - p)).st = .parked then { g.freedPath p with st := .ready, pc := (g.path (1 - p)).jpc + 8 } else g.freedPath p := by
  unfold Path.pastJoin
  rw [freedPath_st]
  split
  · simp only [freedPath_jpc]
  · rfl

/-- What the end of a group with its path leaves (01 R25). -/
theorem exited_group_ends (s : State) (hr : s.grp.rsd = 0) : let u := (s.tick.setGrp (s.grp.exited s.fpath)).endGroup s.focus
    tfind? u.groups s.focus = none ∧ s.OtherGroups u ∧ (∀ pa, u.rb (.gpa pa) = (s.performAll s.focus).rb (.gpa pa))
      ∧ (u.core (coreOf s.focus)).preq.testBit (slotOf s.focus) = false
      ∧ ((tfind? s.teams s.grp.team).isSome = true → (s.team s.grp.team).ended.length + 1 < (s.team s.grp.team).tg →
          (u.team s.grp.team).ended = (s.team s.grp.team).ended ++ [s.grp.gid]) := by
  obtain ⟨e, -, -⟩ := exited_ends s.grp s.fpath
  have hg : (s.tick.setGrp (s.grp.exited s.fpath)).group s.focus = s.grp.exited s.fpath := grp_setGrp s.tick _
  have ht : (s.grp.exited s.fpath).team = s.grp.team := by rw [e]
  have hi : (s.grp.exited s.fpath).gid = s.grp.gid := by rw [e]
  have hc : (s.grp.exited s.fpath).cells = s.grp.cells := by rw [Group.cells, e]; rfl
  have hb : s.SameBytes (s.tick.setGrp (s.grp.exited s.fpath)) :=
    State.SameBytes.trans (b := s.tick) ⟨rfl, tick_rb s⟩ (sameBytes_setGroup _ _ _)
  have h := endGroup_ends (s.tick.setGrp (s.grp.exited s.fpath)) s.focus (by rw [hg, e]; exact hr)
  dsimp only at h
  rw [hg, ht, hi] at h
  obtain ⟨h1, -, h3, h4, h5, h6⟩ := h
  refine ⟨h1, fun k hk => (h3 k hk).trans (group_setGroup_ne s.tick _ hk), fun pa => (h4 pa).trans ?_, h5, h6⟩
  exact (performAll_bytes_congr hb (by rw [hg]; exact hc)).2 _

/-! ## `brk` -/

/-- A group whose path `p` has the park marker of a word. -/
def Group.mark (g : Group) (p : Nat) (b : Bool) : Group := g.setPath p { g.path p with park := b }

theorem mark_w (g : Group) (p : Nat) (b : Bool) : (g.mark p b).w = g.w := setPath_w _ _ _

theorem land_mark (p : Nat) (b : Bool) (g : Group) (q : Pend) : (g.mark p b).land p q = (g.land p q).mark p b := by
  have hw (d : Nat) (v : W64) : (g.mark p b).ws p d v = (g.ws p d v).mark p b := by
    by_cases hd : d = 127
    · simp [Group.ws, Group.mark, hd]
    · by_cases hp : p = 0 <;> simp [Group.ws, Group.mark, hd, Group.setPath, Group.path, hp]
  have hs (h : Group) (c n : Nat) (w : Bool) : (h.mark p b).setDep c n w = (h.setDep c n w).mark p b := by
    by_cases hp : p = 0 <;> simp [Group.mark, Group.setDep, Group.setPath, Group.path, hp]
  unfold Group.land
  split
  · split
    · rfl
    · rw [hw, hs]
  · rename_i d l _
    have hv : (g.mark p b).wv d l = (g.wv d l).mark p b := by
      by_cases hp : p = 0 <;> simp [Group.wv, Group.mark, Group.setPath, Group.path, hp]
    rw [hv, hs, mark_w]
  · by_cases hp : p = 0 <;> simp [Group.wp, Group.mark, Group.setPath, Group.path, hp]
  all_goals rfl

theorem landOwn_mark (g : Group) (p : Nat) (b : Bool) : (g.mark p b).landOwn p = (g.landOwn p).mark p b := by
  have hq : (g.mark p b).path p = { g.path p with park := b } := path_setPath _ _ _
  have ho : (g.mark p b).ownLanded p = (g.ownLanded p).mark p b := by
    rw [Group.ownLanded, hq]
    exact List.foldl_hom (Group.mark · p b) (land_mark p b)
  rw [landOwn_eq, ho, hq, landOwn_eq]
  simp [Group.mark]

/-- The state in which a `brk` raises its trap: its path has the park marker of the word. -/
def State.marked (s : State) (pk : Bool) : State := s.tick.setPth { s.pth with park := pk }

theorem marked_grp (s : State) (pk : Bool) : (s.marked pk).grp = s.grp.mark s.fpath pk := setPth_grp _ _

theorem marked_group_ne (s : State) (pk : Bool) {k : Nat} (h : k ≠ s.focus) : (s.marked pk).group k = s.group k := group_setGroup_ne s.tick _ h

/-- The park marker of the word changes nothing that its user trap does first. -/
theorem alike_marked (s : State) (pk : Bool) : State.Alike s.focus (s.beforeUser false) ((s.marked pk).beforeUser false) := by
  refine State.Alike.performAll (gk := s.focus) (s := s.setGrp (s.grp.landOwn s.fpath))
    (t := (s.marked pk).setGrp ((s.marked pk).grp.landOwn s.fpath)) ⟨rfl, fun k hk => ?_, ?_⟩
  · exact (group_setGroup_ne (s.marked pk) _ hk).trans ((marked_group_ne s pk hk).trans (group_setGroup_ne s _ hk).symm)
  · rw [show (s.setGrp (s.grp.landOwn s.fpath)).group s.focus = s.grp.landOwn s.fpath from grp_setGrp s _,
      show ((s.marked pk).setGrp ((s.marked pk).grp.landOwn s.fpath)).group s.focus = (s.marked pk).grp.landOwn s.fpath from grp_setGrp _ _,
      marked_grp, landOwn_mark, Group.mark, setPath_eq]
    exact ⟨rfl, rfl, rfl, rfl, rfl, rfl, rfl, rfl, rfl⟩

/-- A group after the own results of its word are written and its accesses performed, by what performing them changes. -/
theorem beforeUser_group (s : State) : let h := (s.beforeUser false).grp
    h = { s.grp.landOwn s.fpath with sbuf := h.sbuf, obs := h.obs, ends := h.ends } := by
  have h := performAll_group (s.setGrp (s.grp.landOwn s.fpath)) s.focus
  rw [show (s.setGrp (s.grp.landOwn s.fpath)).group s.focus = s.grp.landOwn s.fpath from grp_setGrp s _] at h
  have hf : (s.beforeUser false).grp = ((s.setGrp (s.grp.landOwn s.fpath)).performAll s.focus).group s.focus := by
    rw [State.grp, beforeUser_focus]; rfl
  rw [hf]
  exact h

theorem beforeUser_marked_grp (s : State) (pk : Bool) : ((s.marked pk).beforeUser false).grp = (s.beforeUser false).grp.mark s.fpath pk := by
  have ha := (alike_marked s pk).group
  have h1 := beforeUser_group s
  have h2 := beforeUser_group (s.marked pk)
  have f1 : (s.beforeUser false).group s.focus = (s.beforeUser false).grp := by rw [State.grp, beforeUser_focus]
  have f2 : ((s.marked pk).beforeUser false).group s.focus = ((s.marked pk).beforeUser false).grp := by rw [State.grp, beforeUser_focus]; rfl
  have hm (g : Group) (p : Nat) (b : Bool) (x y z) :
      { g.mark p b with sbuf := x, obs := y, ends := z } = ({ g with sbuf := x, obs := y, ends := z } : Group).mark p b := by
    by_cases hp : p = 0 <;> simp [Group.mark, Group.setPath, Group.path, hp]
  rw [f1, f2] at ha
  dsimp only at h1 h2
  rw [show (s.marked pk).grp.landOwn (s.marked pk).fpath = (s.grp.landOwn s.fpath).mark s.fpath pk by
    rw [marked_grp]; exact landOwn_mark _ _ _, ha.sbuf, ha.obs, ha.ends, hm, ← h1] at h2
  exact h2

theorem setGrp_setGrp (s : State) (g h : Group) : (s.setGrp g).setGrp h = s.setGrp h := by
  simp only [State.setGrp, State.setGroup, tput_tput]

/-- What values depend on does not change with a word that writes nothing. -/
theorem flow_setPth {s : State} {i : Instr} (hw : i.uses.w = []) (hr : resClass i = none) (q : Path) : (s.flow i).setPth q = s.setPth q := by
  unfold State.flow
  dsimp only
  split
  · rfl
  · rw [if_neg (by simp [hr]), hw, List.foldl_nil]
    rw [State.setPth, grp_setGrp, setGrp_fpath, setGrp_setGrp]; rfl

theorem pk_brk (pk : Bool) (k : BitVec 16) : (Instr.brk pk k).pk = pk := rfl

theorem exec_brk {s : State} {pk : Bool} {k : BitVec 16} (hi : s.Issues (.brk pk k)) : exec (.brk pk k) s
    = .next (if s.grp.sweeps && (s.grp.trapStops || s.grp.flagTraps) then s
        else (s.marked pk).userTrap (BitVec.ofNat 64 (encode (.brk pk k))) 4 (k.setWidth 64) 0 false) := by
  have hf : (s.tick.flow (.brk pk k)).endUser (.brk pk k) 4 (k.setWidth 64) 0 false
      = (s.marked pk).userTrap (BitVec.ofNat 64 (encode (.brk pk k))) 4 (k.setWidth 64) 0 false := by
    have hq : (s.tick.flow (.brk pk k)).pth.parkIf ((Instr.brk pk k).pk && !false) = { s.pth with park := pk } := by
      rw [flow_pth _ rfl, pk_brk, Bool.not_false, Bool.and_true]; rfl
    rw [State.endUser, hq, flow_setPth (i := .brk pk k) rfl rfl, State.marked]
  show execBrk pk k s = _
  rw [execBrk, word_of_issues hi, finish, hf]

theorem flagTraps_eq (g : Group) : g.flagTraps = decide (g.fps.toNat / 2 ^ 8 % 2 ^ 6 ≠ 0) := rfl

theorem trapStops_eq_false {g : Group} (hh : g.hpc ≠ 0) (hu : g.uhc = 0) : g.trapStops = false := by
  simp [Group.trapStops, show g.hpc ≠ 0#64 from hh, hu]

theorem trapStops_eq_true {g : Group} (h : g.hpc = 0 ∨ g.uhc ≠ 0) : g.trapStops = true := by
  rcases h with h | h <;> simp [Group.trapStops, h]

/-- The group of a `brk` that is delivered, by the group after its accesses. -/
def Group.broken (g : Group) (p : Nat) (pk : Bool) (k : BitVec 16) : Group := (g.mark p pk).deliver p 4 (k.setWidth 64) 0

/-- A `brk` that can be delivered, from the state in which user traps are taken (01 R38, R39). -/
theorem brk_delivers {s : State} (w : W64) (pk : Bool) (k : BitVec 16) (hh : s.grp.hpc ≠ 0) (hu : s.grp.uhc = 0) :
    let t := (s.marked pk).userTrap w 4 (k.setWidth 64) 0 false
    (s.beforeUser false).Elsewhere t ∧ t.grp = (s.beforeUser false).grp.broken s.fpath pk k ∧ t.fpath = s.fpath := by
  have hg : (s.marked pk).grp.hpc = s.grp.hpc ∧ (s.marked pk).grp.uhc = s.grp.uhc := by
    rw [marked_grp, Group.mark]; exact ⟨setPath_hpc _ _ _, setPath_uhc _ _ _⟩
  have ha := alike_marked s pk
  have he : (s.beforeUser false).Elsewhere ((s.marked pk).beforeUser false) :=
    ⟨ha.rest, fun j hj => ha.other j (by rwa [beforeUser_focus] at hj), fun x => by rw [ha.rest]; exact rb_regroup _ _ _ _⟩
  dsimp only
  rw [userTrap_delivers w 4 (k.setWidth 64) 0 false (s := s.marked pk) (by rw [hg.1]; exact hh) (by rw [hg.2]; exact hu), beforeUser_marked_grp]
  exact ⟨he.setGrp _, grp_setGrp _ _, beforeUser_fpath _ _⟩

theorem broken_ends (g : Group) (p : Nat) (pk : Bool) (k : BitVec 16) : let h := g.broken p pk k
    h = { g with sreg := h.sreg, uhc := 4, hpath := p, orph := h.orph, p0 := h.p0, p1 := h.p1 }
      ∧ (h.path p).pc = g.hpc ∧ (h.path p).mask = (g.path p).mask := by
  have hm : (g.mark p pk).path p = { g.path p with park := pk } := path_setPath _ _ _
  refine ⟨?_, ?_, ?_⟩
  · have h := deliver_frame (g.mark p pk) p 4 (k.setWidth 64) 0
    dsimp only at h ⊢
    rw [Group.broken, h, Group.mark, setPath_eq]
  · rw [Group.broken, deliver_path, Group.mark]; exact setPath_hpc _ _ _
  · rw [Group.broken, deliver_path, hm]

/-- The registers that a delivered `brk` writes (01 R39), its number among them. -/
theorem tget_broken (g : Group) (p : Nat) (pk : Bool) (k : BitVec 16) : let t := (g.broken p pk k).sreg
    tget 0#64 t 120 = (g.path p).pc ∧ tget 0#64 t 121 = 4 ∧ tget 0#64 t 122 = BitVec.ofNat 64 k.toNat ∧ tget 0#64 t 123 = 0
      ∧ tget 0#64 t 124 = (g.path p).mask ∧ ∀ n, ¬ (120 ≤ n ∧ n ≤ 125) → tget 0#64 t n = tget 0#64 g.sreg n := by
  have hm : (g.mark p pk).path p = { g.path p with park := pk } := path_setPath _ _ _
  have hs : (g.mark p pk).sreg = g.sreg := setPath_sreg _ _ _
  obtain ⟨h0, h1, h2, h3, h4, -, h6⟩ := tget_handlerRegs (g.mark p pk) p 4 (k.setWidth 64) 0
  rw [hm] at h0 h4
  rw [hs] at h6
  dsimp only
  rw [Group.broken, deliver_sreg]
  exact ⟨h0, h1, h2.trans (BitVec.ofNat_toNat 64 k).symm, h3, h4, h6⟩

/-! ## `tret` -/

/-- A group whose handling path `p` has returned, with a mask within the owned set: the other path is released (01 R40). -/
def Group.returned (g : Group) (p : Nat) (m : Mask) : Group :=
  (({ g with uhc := 0 }).setPath (1 - p) { g.path (1 - p) with held := false }).setPath p { g.path p with mask := m &&& (g.path p).owned }

theorem exec_tret {s : State} {pk : Bool} (hi : s.Issues (.tret pk)) : exec (.tret pk) s = .next (finish (.tret pk) s (
    if s.grp.uhc = 0 then ils 4
    else .goto (s.tick.setGrp (s.grp.returned s.fpath (s.tick.rs 124)))
      (if continues s.grp.uhc then clear3 (s.tick.rs 120) + 8 else clear3 (s.tick.rs 120)))) := by
  show execTret pk s = _
  rw [execTret, word_of_issues hi]; rfl

/-- `tret` in a handler (01 R40): the path resumes past the word, unless the cause re-executes it. -/
theorem tret_returns {s : State} {pk : Bool} (hi : s.Issues (.tret pk)) (hu : s.grp.uhc ≠ 0) : Completes (exec (.tret pk) s) fun t =>
    s.Elsewhere t ∧ t.grp = { s.grp with uhc := 0, p0 := t.grp.p0, p1 := t.grp.p1 }
      ∧ t.pth = { s.pth with park := pk, mask := s.tick.rs 124 &&& s.pth.owned,
                             pc := (s.tick.rs 120 &&& ~~~7#64) + (if s.grp.uhc = 1 then 0 else 8) }
      ∧ t.grp.path (1 - s.fpath) = { s.grp.path (1 - s.fpath) with held := false } := by
  have hpc : (if continues s.grp.uhc then clear3 (s.tick.rs 120) + 8 else clear3 (s.tick.rs 120))
      = (s.tick.rs 120 &&& ~~~7#64) + (if s.grp.uhc = 1 then 0 else 8) := by
    by_cases h : s.grp.uhc = 1 <;> simp [continues, clear3, h]
  obtain ⟨h1, h2, h3, h4⟩ := goto_setGrp (.tret pk) s ((s.tick.rs 120 &&& ~~~7#64) + (if s.grp.uhc = 1 then 0 else 8))
    (g := { s.grp with uhc := 0 }) (h := s.grp.returned s.fpath (s.tick.rs 124)) (setPath_setPath_eq _ _ _ _ _)
  rw [exec_tret hi, if_neg hu, hpc]
  refine ⟨_, rfl, h1, h2, h3.trans ?_, h4.trans ?_⟩
  · rw [Group.returned, path_setPath]; rfl
  · rw [Group.returned, path_setPath_other, path_setPath]

/-! ## The settled statement -/

/-- Settles O21: `exit_runs`, `exit_ends` and `exit_ends_group` are the three ends of an `exit`; a `brk` is the user trap of O14, of the same state
but for the park marker (`alike_marked`); `tret_returns` is the return. -/
theorem exitAndReturn : Obligations.ExitAndReturn := by
  unfold Obligations.ExitAndReturn
  refine ⟨fun s pk e r hi => ?exit, fun s pk k => ?trap⟩
  case exit =>
    refine ⟨fun hr => ?_, fun hr hs h2 => ?_, fun j hr hs h2 hj hf => ?_, fun m pc st x hr hs h2 hj hu => ?_, fun hr hu hl => ?_, rfl,
      fun hr hu ho hc hp => ?_⟩
    · exact exec_exit_section hi hr
    · exact exit_runs hi hr (by rw [hs]; exact exitUnwind_first _ r h2)
    · exact exit_runs hi hr (by rw [hs]; exact exitUnwind_past _ r h2 hj hf)
    · exact exit_runs hi hr (by rw [hs, exitUnwind_over _ r h2 hj]; exact hu)
    · have h := exit_ends hi hr hu hl
      rw [pastJoin_freedPath] at h
      exact h
    · exact ⟨_, exit_ends_group hi hr hu ho hc hp, exited_group_ends s hr⟩
  case trap =>
    refine ⟨fun hi hh hu hl => ?_, fun hi hh hu hl => ?_, fun hn hb => ?_, fun hi hu => ?_, tret_returns, fun hi hu => ?_⟩
    · have ht : (s.grp.sweeps && (s.grp.trapStops || s.grp.flagTraps)) = false := by
        rw [trapStops_eq_false hh hu, Bool.false_or, flagTraps_eq]; exact hl
      obtain ⟨h1, h2, h3⟩ := brk_delivers (BitVec.ofNat 64 (encode (.brk pk k))) pk k hh hu
      obtain ⟨r0, r1, r2, r3, r4, r5⟩ := tget_broken (s.beforeUser false).grp s.fpath pk k
      obtain ⟨g1, g2, g3⟩ := broken_ends (s.beforeUser false).grp s.fpath pk k
      have hpc : ((s.beforeUser false).grp.path s.fpath).pc = s.pc := by
        rw [← beforeUser_fpath s false]; exact beforeUser_pc s false
      have hh' : (s.beforeUser false).grp.hpc = s.grp.hpc := by rw [beforeUser_grp]
      refine ⟨_, (exec_brk hi).trans (by rw [ht, if_neg Bool.false_ne_true]), h1, ?_⟩
      simp only [State.am, State.pc, State.pth, h2, h3]
      exact ⟨g2.trans hh', g3, g1, r0.trans hpc, r1, r2, r3, r4, r5⟩
    · have ht : (s.grp.sweeps && (s.grp.trapStops || s.grp.flagTraps)) = true := by
        rw [trapStops_eq_false hh hu, Bool.false_or, flagTraps_eq]; exact hl
      rw [exec_brk hi, ht, if_pos rfl]
    · have hl : s.grp.landOwn s.fpath = s.grp := landOwn_none _ _ hn
      rw [hl, performAll_nil (by rw [show (s.setGrp s.grp).group s.focus = s.grp from grp_setGrp _ _]; exact hb)]
      exact ⟨grp_setGrp _ _, setGroup_rb s _ _⟩
    · rw [exec_brk hi, trapStops_eq_true hu, Bool.true_or, Bool.and_true, State.userTrapped, State.marked, pk_brk, Bool.not_false, Bool.and_true,
        show s.tick.pth = s.pth from rfl]
    · rw [exec_tret hi, if_pos hu]
      rfl

end Sys2Proof.Machine
end
